-- ==== Sys2Proof/Word.lean ====
section
/-!
DEFINITION. The word types of the Ianibor and their plainest arithmetic: a 32-bit register word, a 64-bit
doubleword and instruction word, a byte (R74, R115), and the splitting of words into bytes (R48, little-endian).
-/
namespace Sys2Proof

/-- A 32-bit register word (R115). -/
abbrev Word := BitVec 32
/-- A 64-bit value: a register pair, an address, an instruction word (R74, R116). -/
abbrev DWord := BitVec 64
/-- One byte of memory. -/
abbrev Byte := BitVec 8

/-- The low word of a 64-bit value (R116: the even register). -/
abbrev DWord.lo (x : DWord) : Word := x.setWidth 32
/-- The high word of a 64-bit value (R116: the next register). -/
abbrev DWord.hi (x : DWord) : Word := (x >>> 32).setWidth 32
/-- A 64-bit value from its high and low words (R116). -/
abbrev DWord.ofWords (hi lo : Word) : DWord := hi ++ lo

end Sys2Proof
end

