-- ==== Sys2Proof/Syntax.lean ====
section
/-!
DEFINITION. The instruction type: one constructor per row of spec/opcode_table.json. The first 190 rows are
the forms of instruction words (R76, R97, R100); their operands are the decoded fields, with the field values that
the spec refuses at step 3 of R102 (Illegal Operand) still representable, and the values it refuses at step 2 (Illegal
Instruction) left out or excluded by WellFormed. The other 93 rows are the steps of the machine's other agents.
-/
namespace Sys2Proof

/-! ## Shared fields of instruction words -/

/-- A predicate value as code: T, F or U (R20). -/
inductive Tri where
  | f | t | u
deriving DecidableEq, Repr

/-- GUARD of R76, R82: no guard, or a predicate and the value it must hold. -/
inductive Guard where
  | always
  | on (p : BitVec 3) (v : Tri)
deriving DecidableEq, Repr

/-- HOLD of R76: which source is deposited in the latch (R94). -/
inductive Hold where
  | none | a | b | c
deriving DecidableEq, Repr

/-- The fields every guardable full word carries: the run boundary B and the guard (R74, R82). -/
structure Hd where
  b : Bool
  g : Guard
deriving DecidableEq, Repr

/-- A 10-bit source operand (R77). `reserved` is kind 0b11 with a number of 0x46 to 0xFF (Illegal Operand). -/
inductive Src where
  | v (n : BitVec 8)
  | left (n : BitVec 8)
  | right (n : BitVec 8)
  | s (n : BitVec 6)
  | latch (n : Fin 3)
  | zero
  | lane
  | mask
  | reserved (n : BitVec 8)
deriving DecidableEq, Repr

/-- Source B: a register source, or the constant window of R83. -/
inductive SrcB where
  | reg (a : Src)
  | win (k : BitVec 3) (off : BitVec 17)
deriving DecidableEq, Repr

/-- A destination that names a V register or an S register (R79, R117). -/
inductive Dst where
  | v (n : BitVec 8)
  | s (n : BitVec 6)
deriving DecidableEq, Repr

/-- The interval width W: .S or .D (R47). -/
inductive FW where
  | s | d
deriving DecidableEq, Repr

/-- Comparison conditions (R139, R155). -/
inductive Cond where
  | eq | ne | lt | le | gt | ge
deriving DecidableEq, Repr

/-! ## Operand shapes -/

/-- One register source (R128). -/
structure Op1 where
  h : Hd
  hold : Hold
  d : Dst
  a : Src
deriving DecidableEq, Repr

/-- Two sources, the second may be a window (R128, R131). -/
structure Op2 where
  h : Hd
  hold : Hold
  d : Dst
  a : Src
  b : SrcB
deriving DecidableEq, Repr

/-- Three register sources (R128, R131). -/
structure Op3 where
  h : Hd
  hold : Hold
  d : Dst
  a : Src
  b : Src
  c : Src
deriving DecidableEq, Repr

/-- A register source and imm20 (R130). -/
structure OpI where
  h : Hd
  hold : Hold
  d : Dst
  a : Src
  imm : BitVec 20
deriving DecidableEq, Repr

/-- LEA (R128). -/
structure OpLea where
  h : Hd
  hold : Hold
  d : Dst
  a : Src
  b : Src
  sh : BitVec 3
deriving DecidableEq, Repr

/-- Two predicates in, one out (R127). -/
structure OpP2 where
  h : Hd
  d : BitVec 3
  a : BitVec 3
  b : BitVec 3
deriving DecidableEq, Repr

/-- One predicate in, one out (R127). -/
structure OpP1 where
  h : Hd
  d : BitVec 3
  a : BitVec 3
deriving DecidableEq, Repr

/-- PCOUNT and PMASK (R127). -/
structure OpPC where
  h : Hd
  d : Dst
  a : BitVec 3
  v : Tri
deriving DecidableEq, Repr

/-- V destination with a uniform second source (BCAST, NMOV, WRLANE: R133). -/
structure OpVU where
  h : Hd
  hold : Hold
  d : BitVec 8
  a : Src
  b : SrcB
deriving DecidableEq, Repr

/-- SHFL modifiers (R134). -/
inductive ShflMode where
  | idx | up | down | xor
deriving DecidableEq, Repr

/-- RDSP codes (R138). -/
inductive Special where
  | laneid | group | teamx | teamy | teamz | crank | cwidth | cheight | gridx | gridy | gridz | core | die | package
  | cycle
deriving DecidableEq, Repr

/-- Integer compares (R139). -/
structure OpCmp where
  h : Hd
  hold : Hold
  d : BitVec 3
  a : Src
  b : Src
  cc : Cond
deriving DecidableEq, Repr

/-- Integer lane operations 0x0 to 0x7 (R140). -/
inductive LaneOp where
  | add | min | max | minu | maxu | and | or | xor
deriving DecidableEq, Repr

/-- GRED operations (R140). -/
inductive GredOp where
  | int (o : LaneOp)
  | fadd (w : FW)
  | fmin (w : FW)
  | fmax (w : FW)
deriving DecidableEq, Repr

/-- Interval forms with one, two and three sources (R149, R154). `d` is DST with bit 0 cleared (R81). -/
structure FOp1 where
  h : Hd
  w : FW
  d : Dst
  a : Src
deriving DecidableEq, Repr

structure FOp2 where
  h : Hd
  w : FW
  d : Dst
  a : Src
  b : SrcB
deriving DecidableEq, Repr

structure FOp3 where
  h : Hd
  w : FW
  d : Dst
  a : Src
  b : Src
  c : Src
deriving DecidableEq, Repr

/-- FDIVX (R151). -/
structure FOpX where
  h : Hd
  w : FW
  d : Dst
  p : BitVec 3
  a : Src
  b : Src
deriving DecidableEq, Repr

/-- FMAKE (R154). -/
structure FOpM where
  h : Hd
  hold : Hold
  w : FW
  d : Dst
  a : Src
  b : SrcB
deriving DecidableEq, Repr

/-- FPOINT (R154). -/
structure FOpP where
  h : Hd
  hold : Hold
  w : FW
  d : Dst
  a : Src
deriving DecidableEq, Repr

/-- Set relations and FCONTAINS (R155). -/
structure FOpR where
  h : Hd
  hold : Hold
  d : BitVec 3
  a : Src
  b : Src
  w : FW
deriving DecidableEq, Repr

/-- FCVTI modes (R158) and FCVTBF, STP point modes (R57, R159). -/
inductive CvtMode where
  | floor | ceil | rn
deriving DecidableEq, Repr

inductive PtMode where
  | lo | hi | mid
deriving DecidableEq, Repr

/-- STP formats (R216). -/
inductive StpFmt where
  | f32 | f64 | f32d | bf
deriving DecidableEq, Repr

/-- POOLQ selectors (R172). -/
inductive PoolSel where
  | tasks | spilled | cap | spillCap | steals
  | poolSite (s : BitVec 3)
  | spillSite (s : BitVec 3)
deriving DecidableEq, Repr

/-- Load widths (R205). -/
inductive LdW where
  | u8 | s8 | u16 | s16 | w | x | q | pbf | ps | pd
deriving DecidableEq, Repr

/-- Store widths (R205). -/
inductive StW where
  | u8 | u16 | w | x | q
deriving DecidableEq, Repr

/-- A load form: LD, LDS, LDK (R209). -/
structure OpLd where
  h : Hd
  la : BitVec 4
  hold : Hold
  d : Dst
  a : Src
  b : Src
  w : LdW
  disp : BitVec 6
deriving DecidableEq, Repr

/-- A store form: ST, STS (R209). -/
structure OpSt where
  h : Hd
  hold : Hold
  a : Src
  b : Src
  w : StW
  disp : BitVec 6
deriving DecidableEq, Repr

structure OpLdMrad where
  h : Hd
  la : BitVec 4
  hold : Hold
  d : Dst
  a : Src
  b : Src
  w : FW
  disp : BitVec 6
deriving DecidableEq, Repr

structure OpStMrad where
  h : Hd
  a : Src
  b : Src
  w : FW
  disp : BitVec 6
deriving DecidableEq, Repr

structure OpStp where
  h : Hd
  a : Src
  b : Src
  mode : PtMode
  fmt : StpFmt
  disp : BitVec 6
deriving DecidableEq, Repr

structure OpPref where
  h : Hd
  hold : Hold
  a : Src
  b : Src
  sc : Bool
  disp : BitVec 6
deriving DecidableEq, Repr

/-- ATOM operations (R219): the eight of RED, and three more. -/
inductive AtomOp where
  | int (o : LaneOp)
  | xchg | incw | decw
deriving DecidableEq, Repr

/-- Interval atomic operations (R221). -/
inductive FAtomOp where
  | add | min | max | hull | isect
deriving DecidableEq, Repr

structure OpAtom where
  h : Hd
  la : BitVec 4
  hold : Hold
  d : Dst
  a : Src
  b : Src
  op : AtomOp
  x : Bool
deriving DecidableEq, Repr

structure OpCas where
  h : Hd
  la : BitVec 4
  d : Dst
  a : Src
  b : Src
  x : Bool
deriving DecidableEq, Repr

structure OpFAtom where
  h : Hd
  la : BitVec 4
  d : Dst
  a : Src
  b : Src
  op : FAtomOp
  w : FW
deriving DecidableEq, Repr

structure OpRed where
  h : Hd
  hold : Hold
  a : Src
  b : Src
  op : LaneOp
  x : Bool
deriving DecidableEq, Repr

structure OpFRed where
  h : Hd
  a : Src
  b : Src
  op : FAtomOp
  w : FW
deriving DecidableEq, Repr

/-- XCOPY and XFILL (R225). -/
structure OpX where
  h : Hd
  a : Src
  b : Src
  tag : BitVec 6
deriving DecidableEq, Repr

/-- QMAP kinds (R231). -/
inductive QKind where
  | s | v | off
deriving DecidableEq, Repr

/-- Matrix element formats (R243); `bfp k` is BFP(k+2). -/
inductive MFmt where
  | f64 | f32 | bf16
  | bfp (k : Fin 7)
deriving DecidableEq, Repr

/-- Matrix depths 512, 256, 128 (R243). -/
inductive MDep where
  | b512 | b256 | b128
deriving DecidableEq, Repr

structure OpMma where
  h : Hd
  la : BitVec 4
  z : BitVec 6
  a : Src
  b : Src
  slot : BitVec 3
  dep : MDep
  fmt : MFmt
deriving DecidableEq, Repr

/-- SCLD parts with the operands each reads (R241, R254). -/
inductive ScldPart where
  | all (hold : Hold) (a b : Src)
  | aexp (a : Src)
  | bexp (a : Src)
  | scale (hold : Hold) (b : Src)
deriving DecidableEq, Repr

/-- SEAL and PEEK (R260). -/
structure OpSeal where
  h : Hd
  la : BitVec 4
  hold : Hold
  d : BitVec 3
  a : Src
  b : Src
  c : Src
deriving DecidableEq, Repr

/-- System registers (R329). -/
inductive SysReg where
  | tvec | tpc | tmask | tcause | taddr | tpte | tsave | ptroot | physview | framepool | mcinfo | mcaddr
  | nbmode | lease | tidemark
deriving DecidableEq, Repr

/-- Pair operations (R98). -/
inductive PairOp where
  | mov | iadd | isub | and | or | xor | shl | shr | sar | imin | imax | imul
  | fadd | fsub | fmul | fmin | fmax | fhull | fneg | fabs
deriving DecidableEq, Repr

/-- The source of a pair half (R97). -/
inductive PairSrc where
  | v (n : BitVec 8)
  | s (n : BitVec 6)
deriving DecidableEq, Repr

/-- One half of a pair word (R97). -/
structure Half where
  op : PairOp
  d : BitVec 8
  src : PairSrc
  g : Guard
deriving DecidableEq, Repr

/-! ## Data of the machine's other steps -/

/-- Trap causes (R320). -/
inductive Cause where
  | illegalInstruction | illegalOperand | lookaheadViolation | rangeConflict | pageFault | accessViolation | cellType
  | denseFallback | poolExhausted | queueMisuse | breakpoint | machineCheck
deriving DecidableEq, Repr

/-- What a trap reports (R321 to R324): cause, DETAIL, ACCESS, SRC, IMM, the reported lanes with their addresses and
the table entries at which their walks stopped. -/
structure TrapInfo where
  cause : Cause
  detail : BitVec 4 := 0
  access : BitVec 2 := 0
  src : Bool := false
  imm : BitVec 20 := 0
  lanes : Option Word := none
  addr : List (Nat × DWord) := []
  pte : List (Nat × DWord) := []
deriving DecidableEq, Repr

/-- A seal operation at a cell's home (R259). -/
inductive SealKind where
  | seal (v : DWord)
  | peek | reopen | cinit
deriving DecidableEq, Repr

/-- A request for a cell: its operation, physical address, generation and the winner fields (R258). -/
structure SealReq where
  kind : SealKind
  pa : Nat
  gen : BitVec 16
  winner : BitVec 32
  tidemark : Nat
deriving DecidableEq, Repr

/-- Outcome of the start stages (R372): success, or the failing stage's reason with the cores found bad. -/
structure StartResult where
  reason : BitVec 8
  fencedCores : List Nat
  package : BitVec 12
deriving DecidableEq, Repr

/-- The BAR a host access names, and its offset there (R350, R353). -/
inductive HostBar where
  | bar0 (off : Nat)
  | bar2 (off : Nat)
deriving DecidableEq, Repr

/-- Host AtomicOps (R349, R353). -/
inductive HostAtomic where
  | fetchAdd (v : DWord)
  | swap (v : DWord)
  | cas (c n : DWord)
  | cas128                         -- gets Completer Abort (R349)
deriving DecidableEq, Repr

/-- The word atomics of a hart (R287): the RISC-V A extension. -/
inductive HartAmo where
  | swap | add | xor | and | or | min | max | minu | maxu
deriving DecidableEq, Repr

/-- What a distributor hart does (R287, R288): one access to its address map, or the next instruction at its pc. Atomics are
64 bits where `wide`, else 32. -/
inductive HartOp where
  | load (size : Nat)
  | store (data : List Byte)
  | lr (wide : Bool)
  | sc (wide : Bool) (v : DWord)
  | amo (op : HartAmo) (wide : Bool) (v : DWord)
  | step
deriving DecidableEq, Repr

/-- An uncorrectable error or a failed replay (R328): its DETAIL, the core, the scheduler for a register, the predicate where
one is lost, and MCADDR; for DETAIL 3 to 5 the groups whose accesses met it and the address of the word. -/
structure McReport where
  detail : BitVec 4
  groups : List Nat
  mcinfo : DWord
  mcaddr : DWord
  core : Nat
  sched : Nat := 0
  predicate : Option (BitVec 3) := none
deriving DecidableEq, Repr

/-- A packet head at an arbiter's input port (R362). -/
structure Head where
  port : Nat
  cls : BitVec 2
deriving DecidableEq, Repr

/-- Who makes a team stop (R367, R368): 0 host, 1 BRK, 2 check. -/
inductive StopTrigger where
  | host | brk | check
deriving DecidableEq, Repr

/-! ## The instruction type -/

/-- One constructor per row of spec/opcode_table.json, in the table's order. -/
inductive Instr where
  -- control, MAJ 0x00 (R120)
  | bra (b : Bool) (off : BitVec 38)
  | brp (b : Bool) (p : BitVec 3) (t f : BitVec 19)
  | brx (b : Bool) (a : Src)
  | call (b : Bool) (off : BitVec 38)
  | ret (b : Bool)
  | div (b : Bool) (off : BitVec 38)
  | join (b : Bool)
  | loop (b : Bool) (c : Src) (off : BitVec 20)
  | exit (h : Hd)
  | yield (h : Hd)
  | trap (h : Hd) (imm : BitVec 20)
  | brk (h : Hd) (imm : BitVec 20)
  -- predicate, MAJ 0x01 (R127)
  | pand (o : OpP2)
  | por (o : OpP2)
  | pxor (o : OpP2)
  | pnot (o : OpP1)
  | pknown (o : OpP1)
  | presolve (o : OpP1) (t : Bool)
  | pset (h : Hd) (d : BitVec 3) (v : Tri)
  | pmovv (h : Hd) (d : BitVec 8) (a : BitVec 3)
  | pmovp (h : Hd) (hold : Hold) (d : BitVec 3) (a : Src)
  | pany (o : OpP1)
  | pall (o : OpP1)
  | pcount (o : OpPC)
  | pmask (o : OpPC)
  -- integer, MAJ 0x02 (R128)
  | iadd (o : Op2)
  | isub (o : Op2)
  | iaddc (o : Op3)
  | isubb (o : Op3)
  | ineg (o : Op1)
  | iabs (o : Op1)
  | imin (o : Op2)
  | imax (o : Op2)
  | iminu (o : Op2)
  | imaxu (o : Op2)
  | and (o : Op2)
  | or (o : Op2)
  | xor (o : Op2)
  | andn (o : Op2)
  | not (o : Op1)
  | sel (o : Op3)
  | imul (o : Op2)
  | imulhi (o : Op2)
  | imulhiu (o : Op2)
  | imad (o : Op3)
  | imulw (o : Op2)
  | lea (o : OpLea)
  | iadd64 (o : Op2)
  | isub64 (o : Op2)
  -- integer immediate, MAJ 0x03 (R130)
  | iaddi (o : OpI)
  | andi (o : OpI)
  | ori (o : OpI)
  | xori (o : OpI)
  | movi (h : Hd) (d : Dst) (imm : BitVec 20)
  | movhi (o : OpI)
  | imini (o : OpI)
  | imaxi (o : OpI)
  -- bit, MAJ 0x04 (R131)
  | shl (o : Op2)
  | shr (o : Op2)
  | sar (o : Op2)
  | rot (o : Op2)
  | shf (o : Op3)
  | bfx (o : Op3)
  | bfxu (o : Op3)
  | bfi (o : Op3)
  | popc (o : Op1)
  | clz (o : Op1)
  | brev (o : Op1)
  -- move, MAJ 0x05 (R133)
  | mov (o : Op1)
  | movQueuePush (h : Hd) (q : BitVec 4) (a : Src)
  | movQueuePop (h : Hd) (d : Dst) (q : BitVec 4)
  | mov64 (o : Op1)
  | movs (h : Hd) (hold : Hold) (d : BitVec 6) (a : Src)
  | bcast (o : OpVU)
  | rdlane (h : Hd) (la : BitVec 4) (hold : Hold) (d : BitVec 6) (a : Src) (b : SrcB)
  | wrlane (o : OpVU)
  | shfl (h : Hd) (la : BitVec 4) (hold : Hold) (d : BitVec 8) (a b : Src) (m : ShflMode)
  | nmov (o : OpVU)
  | movm (h : Hd) (hold : Hold) (a : Src)
  | rdsp (h : Hd) (d : Dst) (c : Special)
  -- integer compare, MAJ 0x06 (R139)
  | icmp (o : OpCmp)
  | icmpu (o : OpCmp)
  | icmp64 (o : OpCmp) (u : Bool)
  -- lane, MAJ 0x07 (R140)
  | scan (h : Hd) (hold : Hold) (d : BitVec 8) (a : Src) (op : LaneOp) (excl : Bool)
  | gred (h : Hd) (hold : Hold) (d : Dst) (a : Src) (op : GredOp)
  | compact (h : Hd) (hold : Hold) (d : BitVec 8) (a : Src) (p : BitVec 3)
  | isect (h : Hd) (hold : Hold) (d : BitVec 8) (a b : Src)
  | mpath (h : Hd) (hold : Hold) (d : BitVec 8) (a b c : Src)
  -- interval arithmetic, MAJ 0x08 (R149)
  | fadd (o : FOp2)
  | fsub (o : FOp2)
  | fmul (o : FOp2)
  | fdiv (la : BitVec 4) (o : FOp2)
  | fdivx (la : BitVec 4) (o : FOpX)
  | ffma (o : FOp3)
  | fsqr (o : FOp1)
  | fsqrt (la : BitVec 4) (o : FOp1)
  | fmin (o : FOp2)
  | fmax (o : FOp2)
  | fabs (o : FOp1)
  | fneg (o : FOp1)
  | fpown (o : FOp1) (n : BitVec 10)
  | fexp2 (la : BitVec 4) (o : FOp1)
  | flog2 (la : BitVec 4) (o : FOp1)
  -- interval set, MAJ 0x09 (R154)
  | fhull (o : FOp2)
  | fisect (o : FOp2)
  | fmid (o : FOp1)
  | frad (o : FOp1)
  | fwid (o : FOp1)
  | fmag (o : FOp1)
  | fmig (o : FOp1)
  | finf (o : FOp1)
  | fsup (o : FOp1)
  | fmake (o : FOpM)
  | fpoint (o : FOpP)
  -- interval compare, MAJ 0x0A (R155)
  | fcmp (h : Hd) (d : BitVec 3) (a b : Src) (cc : Cond) (w : FW)
  | fsubset (o : FOpR)
  | finterior (o : FOpR)
  | fdisj (o : FOpR)
  | fcontains (o : FOpR)
  | fclass (h : Hd) (d : Dst) (a : Src) (w : FW)
  -- conversion, MAJ 0x0B (R157)
  | fwiden (h : Hd) (d : Dst) (a : Src)
  | fnarrow (h : Hd) (d : Dst) (a : Src)
  | fcvti (h : Hd) (d : Dst) (a : Src) (m : CvtMode) (w : FW)
  | icvtf (h : Hd) (hold : Hold) (d : Dst) (a : Src) (u : Bool) (w : FW)
  | fcvtbf (h : Hd) (d : Dst) (a b : Src) (m : PtMode)
  | fpack (h : Hd) (hold : Hold) (d : BitVec 8) (a : Src) (k : Fin 7)
  | funpack (h : Hd) (hold : Hold) (d : BitVec 8) (a b : Src) (k : Fin 7)
  | ftomrad (h : Hd) (d : Dst) (a : Src) (w : FW)
  | ffrommrad (h : Hd) (hold : Hold) (d : Dst) (a : Src) (w : FW)
  | ftrunc (h : Hd) (hold : Hold) (d : Dst) (a : Src) (bfh : Bool)
  -- fork, MAJ 0x0C (R166)
  | split (h : Hd) (d : BitVec 3) (site : BitVec 3)
  | spawn (h : Hd) (d : BitVec 3) (a : Src) (site : BitVec 3)
  | take (h : Hd) (d : BitVec 3) (site : BitVec 3)
  | tend (h : Hd)
  | poolq (h : Hd) (d : Dst) (sel : PoolSel)
  -- load/store, MAJ 0x0D (R209)
  | ld (o : OpLd)
  | st (o : OpSt)
  | lds (o : OpLd)
  | sts (o : OpSt)
  | ldk (o : OpLd)
  | ldmrad (o : OpLdMrad)
  | stmrad (o : OpStMrad)
  | stp (o : OpStp)
  | pref (o : OpPref)
  -- atomic and reduction, MAJ 0x0E (R218)
  | atom (o : OpAtom)
  | atomcas (o : OpCas)
  | fatom (o : OpFAtom)
  | red (o : OpRed)
  | fred (o : OpFRed)
  -- copy engine and tags, MAJ 0x0F (R225)
  | xcopy (o : OpX)
  | xfill (o : OpX)
  | xwait (h : Hd) (d : BitVec 3) (a : Src) (all : Bool)
  | xtest (h : Hd) (d : Dst) (a : Src)
  | xclear (h : Hd) (a : Src)
  -- synchronisation, MAJ 0x10 (R231)
  | bar (h : Hd) (hold : Hold) (a : Src) (id : BitVec 4)
  | barc (h : Hd) (id : BitVec 2)
  | bara (h : Hd) (hold : Hold) (d : Dst) (a : Src) (id : BitVec 4)
  | barw (h : Hd) (hold : Hold) (a : Src) (id : BitVec 4)
  | qmap (h : Hd) (kind : QKind) (q : BitVec 4) (a b : Src)
  | qtry (h : Hd) (d : BitVec 3) (q : BitVec 4) (pop : Bool)
  | waitv (h : Hd) (hold : Hold) (d : BitVec 3) (a : Src) (b : SrcB)
  -- matrix, MAJ 0x11 (R241)
  | mma (o : OpMma)
  | mmax (o : OpMma)
  | zclr (h : Hd) (z : BitVec 6) (w : FW)
  | zld (h : Hd) (la : BitVec 4) (z : BitVec 6) (a : Src) (w : FW)
  | zst (h : Hd) (z : BitVec 6) (a : Src) (w : FW)
  | zget (h : Hd) (la : BitVec 4) (d : BitVec 8) (z : BitVec 6) (w : FW)
  | zput (h : Hd) (z : BitVec 6) (a : Src) (w : FW)
  | scld (h : Hd) (slot : BitVec 3) (part : ScldPart)
  -- seal, MAJ 0x12 (R260)
  | seal (o : OpSeal)
  | peek (o : OpSeal)
  | reopen (h : Hd) (la : BitVec 4) (hold : Hold) (d : BitVec 3) (a c : Src)
  | cinit (h : Hd) (hold : Hold) (a c : Src)
  -- cove, MAJ 0x13 (R276)
  | ktable (h : Hd) (slot : BitVec 2) (a : Src)
  | kstore (h : Hd) (hold : Hold) (slot : BitVec 2) (a b : Src)
  | ksign (h : Hd) (la : BitVec 4) (d : Dst) (a : Src) (slot : BitVec 2)
  | kgather (h : Hd) (d : BitVec 3) (a b : Src) (slot : BitVec 2) (tag : BitVec 6)
  | kclear (h : Hd) (hold : Hold) (b : Src) (table : BitVec 2) (slot : BitVec 2) (tag : BitVec 6)
  -- distributor, MAJ 0x14 (R315)
  | dqnext (h : Hd) (hold : Hold) (a : Src) (tag : BitVec 6)
  | dqdone (h : Hd) (hold : Hold) (a : Src)
  | devent (h : Hd) (hold : Hold) (a : Src)
  | dwait (h : Hd) (hold : Hold) (d : BitVec 3) (a : Src) (b : SrcB)
  -- system, MAJ 0x15 (R330)
  | tret (b : Bool)
  | mfsr (h : Hd) (d : Dst) (r : SysReg)
  | mtsr (h : Hd) (r : SysReg) (a : Src)
  | tlbf (h : Hd) (a : Src)
  | tlbi (h : Hd) (hold : Hold) (a : Src) (b : SrcB)
  | probe (h : Hd) (d : Dst) (a : Src)
  | halt (h : Hd) (imm : BitVec 20)
  -- the pair word (R97)
  | pairWord (b : Bool) (hi lo : Half)
  -- the steps of the machine's other agents; a group is named by 48 x core + slot, a core as in R301
  | instructionFetch (g : Nat)
  | teamStop (core team : Nat) (by' : StopTrigger)
  | debugCountWrap (core entry : Nat)
  | coreFence (core : Nat)
  | migrationLineMove (e : Nat)
  | vector0HoldoffExpiry
  | runArbitration (core sched : Nat)
  | resultWrite (g i : Nat)
  | trapEntry (g : Nat) (t : TrapInfo)
  | divergenceSpill (g : Nat)
  | divergenceRefill (g : Nat)
  | loadReply (i : Nat)
  | generationNotice (slice : Nat)
  | wakeCheck (core : Nat)
  | partialAccept (i : Nat)
  | remoteAcknowledgement (i : Nat)
  | rangeLockRegistration (g : Nat)
  | engineTransfer (i : Nat)
  | engineCompletion (i : Nat)
  | monitorNotice (i : Nat)
  | sealEraNotice (core : Nat)
  | sealEraAcknowledgement (i : Nat)
  | coveAppend (i : Nat)
  | gatherCompletion (i : Nat)
  | bucketClear (i : Nat)
  | matrixOpStart (core : Nat)
  | matrixOpFinish (core : Nat)
  | poolSpill (team : Nat)
  | poolRefill (team : Nat) (site : BitVec 3)
  | stealRequest (i : Nat)
  | stealShipment (i : Nat)
  | stealEmpty (i : Nat)
  | pageWalk (i : Nat)
  | tlbiAcknowledgement (i : Nat)
  | completionEventWrite (team : Nat)
  | compaction (core : Nat)
  | contextSave (team : Nat)
  | abortEnd (team : Nat)
  | deferredAnswer (hart : Nat)
  | fallbackPlacement
  | quiescenceReached
  | machineCheck (r : McReport)
  | tidemarkAdvance (g : Nat)
  | homeLoad (g pa : Nat)
  | homeWrite (g pa : Nat) (data : List Byte)
  | writeLeaseRecall (line : Nat)
  | forwardedRead (g line : Nat)
  | goneAnswer (line : Nat)
  | dirtyWriteback (core line : Nat)
  | shelfEviction (line : Nat)
  | dramFill (line : Nat)
  | retentionSleep (core : Nat)
  | remoteTimeout (i : Nat)
  | sealHomeOperation (r : SealReq)
  | fifoPop (hart : Nat)
  | fifoWatchdog
  | place (hart : Nat) (a0 a1 a2 : DWord)
  | preempt (hart : Nat) (a0 a1 : DWord)
  | resume (hart : Nat) (a0 a1 : DWord)
  | abort (hart : Nat) (a0 a1 : DWord)
  | query (hart : Nat) (a0 : DWord)
  | answer (hart : Nat) (a0 a1 : DWord)
  | invalidCommand (hart : Nat) (op : BitVec 4)
  | packetRead (q : Nat)
  | distRun
  | distQuiesce
  | distLoad
  | distHostreq (v : DWord)
  | distLogrd (v : DWord)
  | registerWrite (off : Nat) (wide : Bool) (v : DWord)
  | hostRead (off : HostBar) (len : Nat)
  | hostWrite (off : HostBar) (data : List Byte)
  | hostAtomicop (off : HostBar) (wide : Bool) (op : HostAtomic)
  | pkgTlbinv (v : DWord)
  | warmReset
  | coldReset
  | clearFailedStarts
  | firmwareCommit (accepted : Bool)
  | start (r : StartResult)
  | startWatchdog
  | linkFlit (link : Nat) (crcOk : Bool) (dest : BitVec 12) (cls : BitVec 2)
  | linkFailure (link : Nat)
  | ringArbitration (arb : Nat) (heads : List Head)
  | stopResume (core : Nat)
  | debugFlush (core : Nat)
  | debugCharge
  | sample (core : Nat)
  | softErrorCorrected (core : Nat)
  | softErrorWindow (core : Nat)
  | powerLimiting
  | thermalTrip
  | hartDeviceAccess (hart : Nat) (addr : DWord) (op : HartOp)
  | limitingEnd
deriving DecidableEq, Repr

end Sys2Proof
end

