-- ==== Sys2Proof/WellFormed.lean ====
section
/-!
DEFINITION. Which terms of Instr are instruction words of the Ianibor: the checks of step 2 of R102 that the
types of Syntax do not make by themselves. Destination types (R79, R117), HOLD (R94), source codes (R77), MMAX formats
(R243), read-only system registers (R330), and the pair-word rules (R99). The events are no words.
-/
namespace Sys2Proof

/-- Uniform source kinds (R80): S register, zero and M. -/
def Src.uniform : Src → Bool
  | .s _ => true
  | .zero => true
  | .mask => true
  | _ => false

/-- A window operand is uniform (R80). -/
def SrcB.uniform : SrcB → Bool
  | .reg a => a.uniform
  | .win _ _ => true

/-- Numbers 0x46 to 0xFF of kind 0b11 are the reserved ones (R77). -/
def Src.wf : Src → Bool
  | .reserved n => decide (0x46 ≤ n.toNat)
  | _ => true

def SrcB.wf : SrcB → Bool
  | .reg a => a.wf
  | .win _ _ => true

def SrcB.isReg : SrcB → Bool
  | .reg _ => true
  | .win _ _ => false

/-- The register number of a destination. -/
def Dst.num : Dst → Nat
  | .v n => n.toNat
  | .s n => n.toNat

/-- How DST is read (R79, R81, R117). -/
inductive DstForm where
  | fixed
  | g (uniform : Bool) (d : Dst)
  | gEven (uniform : Bool) (d : Dst)
  | vs (d : Dst)
deriving DecidableEq, Repr

/-- A uniform instruction names V0 to V127 or an S register; any other names V0 to V255 (R79). -/
def Dst.okG (uniform : Bool) : Dst → Bool
  | .v n => !uniform || decide (n.toNat < 128)
  | .s _ => uniform

/-- Class VS: V0 to V127 or an S register (R117). -/
def Dst.okVS : Dst → Bool
  | .v n => decide (n.toNat < 128)
  | .s _ => true

def DstForm.ok : DstForm → Bool
  | .fixed => true
  | .g u d => d.okG u
  | .gEven u d => d.okG u && decide (d.num % 2 = 0)
  | .vs d => d.okVS

/-- What WellFormed looks at in an instruction word. -/
structure Form where
  hold : Hold := .none
  ha : Bool := false
  hb : Bool := false
  hc : Bool := false
  srcs : List Src := []
  dst : DstForm := .fixed
  other : Bool := true
deriving DecidableEq, Repr

/-- The registers of an optional window source. -/
def SrcB.srcs : SrcB → List Src
  | .reg a => [a]
  | .win _ _ => []

def Op1.form (o : Op1) (h32 : Bool) : Form :=
  { hold := o.hold, ha := h32, srcs := [o.a], dst := .g o.a.uniform o.d }

def Op2.form (o : Op2) (h32 : Bool) : Form :=
  { hold := o.hold, ha := h32, hb := h32 && o.b.isReg, srcs := o.a :: o.b.srcs,
    dst := .g (o.a.uniform && o.b.uniform) o.d }

def Op3.form (o : Op3) : Form :=
  { hold := o.hold, ha := true, hb := true, hc := true, srcs := [o.a, o.b, o.c],
    dst := .g (o.a.uniform && o.b.uniform && o.c.uniform) o.d }

def OpI.form (o : OpI) : Form :=
  { hold := o.hold, ha := true, srcs := [o.a], dst := .g o.a.uniform o.d }

def OpVU.form (o : OpVU) : Form :=
  { hold := o.hold, ha := true, hb := o.b.isReg, srcs := o.a :: o.b.srcs }

def OpCmp.form (o : OpCmp) (h32 : Bool) : Form :=
  { hold := o.hold, ha := h32, hb := h32, srcs := [o.a, o.b] }

def FOp1.form (o : FOp1) : Form := { srcs := [o.a], dst := .gEven o.a.uniform o.d }

def FOp2.form (o : FOp2) : Form :=
  { srcs := o.a :: o.b.srcs, dst := .gEven (o.a.uniform && o.b.uniform) o.d }

def FOpR.form (o : FOpR) (pt : Bool) : Form :=
  { hold := o.hold, hb := pt && decide (o.w = .s), srcs := [o.a, o.b] }

def OpLd.form (o : OpLd) (scratch : Bool) : Form :=
  { hold := o.hold, ha := scratch, hb := true, srcs := [o.a, o.b], dst := .g (o.a.uniform && o.b.uniform) o.d }

/-- Store widths whose data is a 32-bit source (R209). -/
def StW.is32 : StW → Bool
  | .u8 | .u16 | .w => true
  | .x | .q => false

def OpSt.form (o : OpSt) (scratch : Bool) : Form :=
  { hold := o.hold, ha := scratch, hb := o.w.is32, srcs := [o.a, o.b] }

def OpSeal.form (o : OpSeal) : Form := { hold := o.hold, hc := true, srcs := [o.a, o.b, o.c] }

/-- System registers that MTSR may write (R329). -/
def SysReg.writable : SysReg → Bool
  | .tvec | .tpc | .tmask | .tcause | .tsave | .nbmode | .lease => true
  | _ => false

/-- Whether a pair operation is a .S interval operation (R98). -/
def PairOp.interval : PairOp → Bool
  | .fadd | .fsub | .fmul | .fmin | .fmax | .fhull | .fneg | .fabs => true
  | _ => false

/-- The registers a half's V operand names: one, or the two of a .S pair (R98). -/
def pairRegs (op : PairOp) (n : BitVec 8) : List Nat :=
  if op.interval then [n.toNat, n.toNat + 1] else [n.toNat]

def Half.dstRegs (x : Half) : List Nat := pairRegs x.op x.d

def Half.srcRegs (x : Half) : List Nat :=
  match x.src with
  | .v n => pairRegs x.op n
  | .s _ => []

/-- No two distinct registers of a list share a bank (R96, R99). -/
def banksDistinct (l : List Nat) : Bool :=
  let l := l.eraseDups
  decide ((l.map (· % 4)).eraseDups.length = l.length)

/-- The pair-word rules of R99 on destinations and banks. -/
def pairOk (hi lo : Half) : Bool :=
  hi.dstRegs.all (fun r => !lo.dstRegs.contains r) &&
    banksDistinct (hi.dstRegs ++ hi.srcRegs ++ lo.dstRegs ++ lo.srcRegs)

def ScldPart.form : ScldPart → Form
  | .all h a b => { hold := h, hb := true, srcs := [a, b] }
  | .aexp a => { srcs := [a] }
  | .bexp a => { srcs := [a] }
  | .scale h b => { hold := h, hb := true, srcs := [b] }

/-- The form of each instruction word; none for the events. -/
def Instr.form : Instr → Option Form
  | .bra _ _ | .brp _ _ _ _ | .call _ _ | .ret _ | .div _ _ | .join _ => some {}
  | .brx _ a => some { srcs := [a] }
  | .loop _ c _ => some { srcs := [c] }
  | .exit _ | .yield _ | .trap _ _ | .brk _ _ => some {}
  | .pand _ | .por _ | .pxor _ | .pnot _ | .pknown _ | .presolve _ _ | .pset _ _ _ | .pmovv _ _ _ => some {}
  | .pmovp _ hold _ a => some { hold := hold, ha := true, srcs := [a] }
  | .pany _ | .pall _ => some {}
  | .pcount o | .pmask o => some { dst := .vs o.d }
  | .iadd o | .isub o | .imin o | .imax o | .iminu o | .imaxu o | .and o | .or o | .xor o | .andn o => some (o.form true)
  | .iaddc o | .isubb o | .sel o | .imad o => some o.form
  | .ineg o | .iabs o | .not o => some (o.form true)
  | .imul o | .imulhi o | .imulhiu o | .imulw o => some (o.form true)
  | .lea o => some { hold := o.hold, hb := true, srcs := [o.a, o.b], dst := .g (o.a.uniform && o.b.uniform) o.d }
  | .iadd64 o | .isub64 o => some (o.form false)
  | .iaddi o | .andi o | .ori o | .xori o | .movhi o | .imini o | .imaxi o => some o.form
  | .movi _ d _ => some { dst := .g true d }
  | .shl o | .shr o | .sar o | .rot o => some (o.form true)
  | .shf o | .bfx o | .bfxu o | .bfi o => some o.form
  | .popc o | .clz o | .brev o | .mov o => some (o.form true)
  | .movQueuePush _ _ a => some { srcs := [a] }
  | .movQueuePop _ d _ => some { dst := .vs d }
  | .mov64 o => some (o.form false)
  | .movs _ hold _ a => some { hold := hold, ha := true, srcs := [a] }
  | .bcast o | .wrlane o | .nmov o => some o.form
  | .rdlane _ _ hold _ a b => some { hold := hold, ha := true, hb := b.isReg, srcs := a :: b.srcs }
  | .shfl _ _ hold _ a b _ => some { hold := hold, ha := true, hb := true, srcs := [a, b] }
  | .movm _ hold a => some { hold := hold, ha := true, srcs := [a] }
  | .rdsp _ d c => some { dst := .g (decide (c ≠ .laneid)) d }
  | .icmp o | .icmpu o => some (o.form true)
  | .icmp64 o _ => some (o.form false)
  | .scan _ hold _ a _ _ => some { hold := hold, ha := true, srcs := [a] }
  | .gred _ hold d a op =>
      some { hold := hold, ha := (match op with | .int _ => true | _ => false), srcs := [a], dst := .vs d }
  | .compact _ hold _ a _ => some { hold := hold, ha := true, srcs := [a] }
  | .isect _ hold _ a b => some { hold := hold, ha := true, hb := true, srcs := [a, b] }
  | .mpath _ hold _ a b c => some { hold := hold, ha := true, hb := true, hc := true, srcs := [a, b, c] }
  | .fadd o | .fsub o | .fmul o | .fmin o | .fmax o | .fhull o | .fisect o => some o.form
  | .fdiv _ o => some o.form
  | .fdivx _ o => some { srcs := [o.a, o.b], dst := .gEven (o.a.uniform && o.b.uniform) o.d }
  | .ffma o => some { srcs := [o.a, o.b, o.c], dst := .gEven (o.a.uniform && o.b.uniform && o.c.uniform) o.d }
  | .fsqr o | .fabs o | .fneg o | .fpown o _ => some o.form
  | .fsqrt _ o | .fexp2 _ o | .flog2 _ o => some o.form
  | .fmid o | .frad o | .fwid o | .fmag o | .fmig o | .finf o | .fsup o => some o.form
  | .fmake o =>
      some { hold := o.hold, ha := decide (o.w = .s), hb := decide (o.w = .s) && o.b.isReg, srcs := o.a :: o.b.srcs,
             dst := .gEven (o.a.uniform && o.b.uniform) o.d }
  | .fpoint o => some { hold := o.hold, ha := decide (o.w = .s), srcs := [o.a], dst := .gEven o.a.uniform o.d }
  | .fcmp _ _ a b _ _ => some { srcs := [a, b] }
  | .fsubset o | .finterior o | .fdisj o => some (o.form false)
  | .fcontains o => some (o.form true)
  | .fclass _ d a _ | .fwiden _ d a | .fnarrow _ d a | .fcvti _ d a _ _ | .ftomrad _ d a _ =>
      some { srcs := [a], dst := .g a.uniform d }
  | .icvtf _ hold d a _ _ | .ftrunc _ hold d a _ =>
      some { hold := hold, ha := true, srcs := [a], dst := .g a.uniform d }
  | .fcvtbf _ d a b _ => some { srcs := [a, b], dst := .g (a.uniform && b.uniform) d }
  | .fpack _ hold _ a _ => some { hold := hold, ha := true, srcs := [a] }
  | .funpack _ hold _ a b _ => some { hold := hold, ha := true, hb := true, srcs := [a, b] }
  | .ffrommrad _ hold d a w => some { hold := hold, ha := decide (w = .s), srcs := [a], dst := .g a.uniform d }
  | .split _ _ _ | .take _ _ _ | .tend _ => some {}
  | .spawn _ _ a _ => some { srcs := [a] }
  | .poolq _ d _ => some { dst := .vs d }
  | .ld o | .ldk o => some (o.form false)
  | .lds o => some (o.form true)
  | .st o => some (o.form false)
  | .sts o => some (o.form true)
  | .ldmrad o => some { hold := o.hold, hb := true, srcs := [o.a, o.b], dst := .g (o.a.uniform && o.b.uniform) o.d }
  | .stmrad o => some { srcs := [o.a, o.b] }
  | .stp o => some { srcs := [o.a, o.b] }
  | .pref o => some { hold := o.hold, hb := true, srcs := [o.a, o.b] }
  | .atom o => some { hold := o.hold, hb := !o.x, srcs := [o.a, o.b], dst := .g (o.a.uniform && o.b.uniform) o.d }
  | .atomcas o => some { srcs := [o.a, o.b], dst := .g (o.a.uniform && o.b.uniform) o.d }
  | .fatom o => some { srcs := [o.a, o.b], dst := .g (o.a.uniform && o.b.uniform) o.d }
  | .red o => some { hold := o.hold, hb := !o.x, srcs := [o.a, o.b] }
  | .fred o => some { srcs := [o.a, o.b] }
  | .xcopy o | .xfill o => some { srcs := [o.a, o.b] }
  | .xwait _ _ a _ | .xclear _ a => some { srcs := [a] }
  | .xtest _ d a => some { srcs := [a], dst := .vs d }
  | .bar _ hold a _ | .barw _ hold a _ => some { hold := hold, ha := true, srcs := [a] }
  | .bara _ hold d a _ => some { hold := hold, ha := true, srcs := [a], dst := .vs d }
  | .barc _ _ => some {}
  | .qmap _ _ _ a b => some { srcs := [a, b] }
  | .qtry _ _ _ _ => some {}
  | .waitv _ hold _ a b => some { hold := hold, hb := b.isReg, srcs := a :: b.srcs }
  | .mma o => some { srcs := [o.a, o.b] }
  | .mmax o => some { srcs := [o.a, o.b], other := (match o.fmt with | .bfp _ => false | _ => true) }
  | .zclr _ _ _ | .zget _ _ _ _ _ => some {}
  | .zld _ _ _ a _ | .zst _ _ a _ | .zput _ _ a _ => some { srcs := [a] }
  | .scld _ _ part => some part.form
  | .seal o | .peek o => some o.form
  | .reopen _ _ hold _ a c => some { hold := hold, hc := true, srcs := [a, c] }
  | .cinit _ hold a c => some { hold := hold, hc := true, srcs := [a, c] }
  | .ktable _ _ a => some { srcs := [a] }
  | .kstore _ hold _ a b => some { hold := hold, hb := true, srcs := [a, b] }
  | .ksign _ _ d a _ => some { srcs := [a], dst := .vs d }
  | .kgather _ _ a b _ _ => some { srcs := [a, b] }
  | .kclear _ hold b _ _ _ => some { hold := hold, hb := true, srcs := [b] }
  | .dqnext _ hold a _ | .dqdone _ hold a | .devent _ hold a => some { hold := hold, ha := true, srcs := [a] }
  | .dwait _ hold _ a b => some { hold := hold, hb := b.isReg, srcs := a :: b.srcs }
  | .tret _ | .halt _ _ => some {}
  | .mfsr _ d _ => some { dst := .g true d }
  | .mtsr _ r a => some { srcs := [a], other := r.writable }
  | .tlbf _ a => some { srcs := [a] }
  | .tlbi _ hold a b => some { hold := hold, hb := b.isReg, srcs := a :: b.srcs }
  | .probe _ d a => some { srcs := [a], dst := .g a.uniform d }
  | .pairWord _ hi lo => some { other := pairOk hi lo }
  | _ => none

/-- HOLD names a 32-bit register source (R94). -/
def Form.okHold (f : Form) : Bool :=
  match f.hold with
  | .none => true
  | .a => f.ha
  | .b => f.hb
  | .c => f.hc

/-- Source codes are canonical (R77). -/
def Form.okSrcs (f : Form) : Bool := f.srcs.all Src.wf

def Form.ok (f : Form) : Bool := f.okHold && f.okSrcs && f.dst.ok && f.other

/-- A term of Instr that is an instruction word of the Ianibor. -/
def Instr.wf (i : Instr) : Bool :=
  match i.form with
  | some f => f.ok
  | none => false

end Sys2Proof
end

