-- ==== Sys2Proof/Decode.lean ====
section
/-!
DEFINITION. The decoder of instruction words (R74 to R86, R97 to R103) and, after it, the encoder. Decoding is total: a
word is an instruction or an error with a name. A word is accepted only if its fields are exactly those the
encoding tables give the instruction read from it, so an unused field that is not 0 is refused (R78, R103).
-/
namespace Sys2Proof

/-- Why a word is no instruction: step 2 of R102. Each raises Illegal Instruction at its group. -/
inductive DecodeError where
  | truncated
  | unassignedMajor
  | unassignedMinor
  | unassignedModifier
  | badDestination
  | badHold
  | badOther
  | badLookahead
  | badHoldField
  | badGuard
  | badWindow
  | unusedField
  | badPairHalf
  | badPairWord
deriving DecidableEq, Repr

/-- The fields of a full word (R76); `a`, `b`, `c` are SRCA, SRCB and SRCC. -/
structure Fields where
  bnd : Bool
  maj : BitVec 6
  min : BitVec 6
  la : BitVec 4 := 0
  hold : BitVec 2 := 0
  gp : BitVec 3 := 0
  gs : BitVec 2 := 0
  k : Bool := false
  dst : BitVec 8 := 0
  a : BitVec 10 := 0
  b : BitVec 10 := 0
  c : BitVec 10 := 0
deriving DecidableEq, Repr

def bit1 (x : Bool) : BitVec 1 := if x then 1#1 else 0#1

/-- The 63 bits below B of a full word (R76). -/
def Fields.word (F : Fields) : DWord :=
  bit1 F.bnd ++ (0#1 ++ (F.maj ++ (F.min ++ (F.la ++ (F.hold ++ (F.gp ++ (F.gs ++ (bit1 F.k ++ (F.dst ++ (F.a ++ (F.b ++ F.c)))))))))))

def Fields.ofWord (w : DWord) : Fields where
  bnd := w.getLsbD 63
  maj := w.extractLsb' 56 6
  min := w.extractLsb' 50 6
  la := w.extractLsb' 46 4
  hold := w.extractLsb' 44 2
  gp := w.extractLsb' 41 3
  gs := w.extractLsb' 39 2
  k := w.getLsbD 38
  dst := w.extractLsb' 30 8
  a := w.extractLsb' 20 10
  b := w.extractLsb' 10 10
  c := w.extractLsb' 0 10

/-! ## Codes of the small fields -/

def lowN (n : Nat) (x : BitVec 10) : BitVec n := x.setWidth n
def encN {n : Nat} (x : BitVec n) : BitVec 10 := x.setWidth 10
def encN8 {n : Nat} (x : BitVec n) : BitVec 8 := x.setWidth 8
def encBit (x : Bool) : BitVec 10 := if x then 1#10 else 0#10
/-- A modifier in bit 4 of SRCC (R218, R231). -/
def encX (x : Bool) : BitVec 10 := if x then 0x10#10 else 0#10

def bitOf (x : BitVec 10) : Option Bool :=
  if x = 0#10 then some false else if x = 1#10 then some true else none

/-- The ten bits of a source operand (R77). -/
def Src.enc : Src → BitVec 10
  | .v n => 0#2 ++ n
  | .left n => 1#2 ++ n
  | .right n => 2#2 ++ n
  | .s n => 3#2 ++ n.setWidth 8
  | .latch n => 0x340#10 + BitVec.ofNat 10 n.val
  | .zero => 0x343#10
  | .lane => 0x344#10
  | .mask => 0x345#10
  | .reserved n => 3#2 ++ n

def Src.dec (x : BitVec 10) : Src :=
  let n := x.extractLsb' 0 8
  match (x.extractLsb' 8 2).toNat with
  | 0 => .v n
  | 1 => .left n
  | 2 => .right n
  | _ =>
    if n.toNat < 0x40 then .s (n.setWidth 6)
    else if n = 0x40#8 then .latch 0
    else if n = 0x41#8 then .latch 1
    else if n = 0x42#8 then .latch 2
    else if n = 0x43#8 then .zero
    else if n = 0x44#8 then .lane
    else if n = 0x45#8 then .mask
    else .reserved n

/-- DST of a V or S register (R79). -/
def Dst.enc : Dst → BitVec 8
  | .v n => n
  | .s n => 0x80#8 ||| n.setWidth 8

/-- DST read as type G of a uniform or other instruction (R79). -/
def Dst.dec (uniform : Bool) (x : BitVec 8) : Dst :=
  if uniform ∧ 0x80 ≤ x.toNat ∧ x.toNat < 0xC0 then .s (x.setWidth 6) else .v x

def encP (p : BitVec 3) : BitVec 8 := 0xC0#8 ||| p.setWidth 8
def encS (n : BitVec 6) : BitVec 8 := 0x80#8 ||| n.setWidth 8
def encZ (z : BitVec 6) : BitVec 8 := z.setWidth 8
/-- DST of an interval: bit 0 is W (R81). -/
def encF (w : FW) (d : Dst) : BitVec 8 := d.enc ||| (match w with | .s => 0#8 | .d => 1#8)

def Hold.enc : Hold → BitVec 2
  | .none => 0 | .a => 1 | .b => 2 | .c => 3
def Hold.dec (x : BitVec 2) : Hold :=
  match x.toNat with
  | 0 => .none | 1 => .a | 2 => .b | _ => .c

/-- The guard's predicate and sense (R76). -/
def Guard.pred : Guard → BitVec 3
  | .always => 0 | .on p _ => p
def Guard.sense : Guard → BitVec 2
  | .always => 0 | .on _ .t => 1 | .on _ .f => 2 | .on _ .u => 3
def Guard.dec (p : BitVec 3) (s : BitVec 2) : Guard :=
  match s.toNat with
  | 0 => .always | 1 => .on p .t | 2 => .on p .f | _ => .on p .u

/-- The codes 0x000 F, 0x001 T, 0x002 U of R127. -/
def Tri.enc : Tri → BitVec 10
  | .f => 0 | .t => 1 | .u => 2
def Tri.dec (x : BitVec 10) : Option Tri :=
  match x.toNat with
  | 0 => some .f | 1 => some .t | 2 => some .u | _ => none

def ShflMode.enc : ShflMode → BitVec 10
  | .idx => 0 | .up => 1 | .down => 2 | .xor => 3
def ShflMode.dec (x : BitVec 10) : Option ShflMode :=
  match x.toNat with
  | 0 => some .idx | 1 => some .up | 2 => some .down | 3 => some .xor | _ => none

/-- RDSP codes (R138). -/
def Special.enc : Special → BitVec 10
  | .laneid => 0 | .group => 1 | .teamx => 2 | .teamy => 3 | .teamz => 4 | .crank => 5 | .cwidth => 6 | .cheight => 7
  | .gridx => 8 | .gridy => 9 | .gridz => 10 | .core => 11 | .die => 12 | .package => 13 | .cycle => 14
def Special.dec (x : BitVec 10) : Option Special :=
  match x.toNat with
  | 0 => some .laneid | 1 => some .group | 2 => some .teamx | 3 => some .teamy | 4 => some .teamz | 5 => some .crank
  | 6 => some .cwidth | 7 => some .cheight | 8 => some .gridx | 9 => some .gridy | 10 => some .gridz | 11 => some .core
  | 12 => some .die | 13 => some .package | 14 => some .cycle | _ => none

/-- Condition codes (R139). -/
def Cond.enc : Cond → BitVec 10
  | .eq => 0 | .ne => 1 | .lt => 2 | .le => 3 | .gt => 4 | .ge => 5
def Cond.dec (x : BitVec 10) : Option Cond :=
  match x.toNat with
  | 0 => some .eq | 1 => some .ne | 2 => some .lt | 3 => some .le | 4 => some .gt | 5 => some .ge | _ => none

/-- Lane operations (R140). -/
def LaneOp.enc : LaneOp → BitVec 10
  | .add => 0 | .min => 1 | .max => 2 | .minu => 3 | .maxu => 4 | .and => 5 | .or => 6 | .xor => 7
def LaneOp.dec (x : BitVec 10) : Option LaneOp :=
  match x.toNat with
  | 0 => some .add | 1 => some .min | 2 => some .max | 3 => some .minu | 4 => some .maxu | 5 => some .and
  | 6 => some .or | 7 => some .xor | _ => none

def GredOp.enc : GredOp → BitVec 10
  | .int o => o.enc
  | .fadd .s => 8 | .fadd .d => 9 | .fmin .s => 10 | .fmax .s => 11 | .fmin .d => 12 | .fmax .d => 13
def GredOp.dec (x : BitVec 10) : Option GredOp :=
  match x.toNat with
  | 8 => some (.fadd .s) | 9 => some (.fadd .d) | 10 => some (.fmin .s) | 11 => some (.fmax .s)
  | 12 => some (.fmin .d) | 13 => some (.fmax .d) | _ => (LaneOp.dec x).map .int

/-- W: 0 for .S and 1 for .D (R155). -/
def FW.enc : FW → BitVec 10
  | .s => 0 | .d => 1
def FW.dec (x : BitVec 10) : Option FW :=
  match x.toNat with
  | 0 => some .s | 1 => some .d | _ => none
def FW.enc4 : FW → BitVec 4
  | .s => 0 | .d => 1
def FW.dec4 (x : BitVec 4) : Option FW :=
  match x.toNat with
  | 0 => some .s | 1 => some .d | _ => none

def CvtMode.enc : CvtMode → BitVec 10
  | .floor => 0 | .ceil => 1 | .rn => 2
def CvtMode.dec (x : BitVec 10) : Option CvtMode :=
  match x.toNat with
  | 0 => some .floor | 1 => some .ceil | 2 => some .rn | _ => none

def PtMode.enc : PtMode → BitVec 10
  | .lo => 0 | .hi => 1 | .mid => 2
def PtMode.dec (x : BitVec 10) : Option PtMode :=
  match x.toNat with
  | 0 => some .lo | 1 => some .hi | 2 => some .mid | _ => none
def PtMode.enc2 : PtMode → BitVec 2
  | .lo => 0 | .hi => 1 | .mid => 2
def PtMode.dec2 (x : BitVec 2) : Option PtMode :=
  match x.toNat with
  | 0 => some .lo | 1 => some .hi | 2 => some .mid | _ => none

/-- STP formats (R216). -/
def StpFmt.enc : StpFmt → BitVec 2
  | .f32 => 0 | .f64 => 1 | .f32d => 2 | .bf => 3
def StpFmt.dec (x : BitVec 2) : StpFmt :=
  match x.toNat with
  | 0 => .f32 | 1 => .f64 | 2 => .f32d | _ => .bf

/-- BFP element widths 0x002 to 0x008 (R157). -/
def encK (k : Fin 7) : BitVec 10 := BitVec.ofNat 10 (k.val + 2)
def decK (x : BitVec 10) : Option (Fin 7) :=
  match x.toNat with
  | 2 => some 0 | 3 => some 1 | 4 => some 2 | 5 => some 3 | 6 => some 4 | 7 => some 5 | 8 => some 6 | _ => none

/-- POOLQ selectors (R172). -/
def PoolSel.enc : PoolSel → BitVec 10
  | .tasks => 0 | .spilled => 1 | .cap => 2 | .spillCap => 3 | .steals => 4
  | .poolSite s => 8#10 ||| s.setWidth 10
  | .spillSite s => 0x10#10 ||| s.setWidth 10
def PoolSel.dec (x : BitVec 10) : Option PoolSel :=
  match x.toNat with
  | 0 => some .tasks | 1 => some .spilled | 2 => some .cap | 3 => some .spillCap | 4 => some .steals
  | n => if 8 ≤ n ∧ n < 16 then some (.poolSite (x.setWidth 3))
         else if 16 ≤ n ∧ n < 24 then some (.spillSite (x.setWidth 3)) else none

/-- Width codes (R205). -/
def LdW.enc : LdW → BitVec 4
  | .u8 => 0 | .s8 => 1 | .u16 => 2 | .s16 => 3 | .w => 4 | .x => 5 | .q => 6 | .pbf => 7 | .ps => 8 | .pd => 9
def LdW.dec (x : BitVec 4) : Option LdW :=
  match x.toNat with
  | 0 => some .u8 | 1 => some .s8 | 2 => some .u16 | 3 => some .s16 | 4 => some .w | 5 => some .x | 6 => some .q
  | 7 => some .pbf | 8 => some .ps | 9 => some .pd | _ => none
def StW.enc : StW → BitVec 4
  | .u8 => 0 | .u16 => 2 | .w => 4 | .x => 5 | .q => 6
def StW.dec (x : BitVec 4) : Option StW :=
  match x.toNat with
  | 0 => some .u8 | 2 => some .u16 | 4 => some .w | 5 => some .x | 6 => some .q | _ => none

/-- ATOM operations (R219). -/
def AtomOp.enc : AtomOp → BitVec 10
  | .int o => o.enc
  | .xchg => 8 | .incw => 9 | .decw => 10
def AtomOp.dec (x : BitVec 10) : Option AtomOp :=
  match x.toNat with
  | 8 => some .xchg | 9 => some .incw | 10 => some .decw | _ => (LaneOp.dec x).map .int

/-- FATOM operations (R221). -/
def FAtomOp.enc : FAtomOp → BitVec 10
  | .add => 0 | .min => 1 | .max => 2 | .hull => 3 | .isect => 4
def FAtomOp.dec (x : BitVec 10) : Option FAtomOp :=
  match x.toNat with
  | 0 => some .add | 1 => some .min | 2 => some .max | 3 => some .hull | 4 => some .isect | _ => none

/-- QMAP kinds in bits [5:4] of SRCC (R231). -/
def QKind.enc : QKind → BitVec 10
  | .s => 0 | .v => 0x10 | .off => 0x20
def QKind.dec (x : BitVec 10) : Option QKind :=
  match x.toNat with
  | 0 => some .s | 0x10 => some .v | 0x20 => some .off | _ => none

/-- Matrix depth and format (R243). -/
def MDep.enc : MDep → BitVec 2
  | .b512 => 0 | .b256 => 1 | .b128 => 2
def MDep.dec (x : BitVec 2) : Option MDep :=
  match x.toNat with
  | 0 => some .b512 | 1 => some .b256 | 2 => some .b128 | _ => none
def MFmt.enc : MFmt → BitVec 4
  | .f64 => 0 | .f32 => 1 | .bf16 => 2
  | .bfp k => BitVec.ofNat 4 (8 + k.val)
def MFmt.dec (x : BitVec 4) : Option MFmt :=
  match x.toNat with
  | 0 => some .f64 | 1 => some .f32 | 2 => some .bf16
  | 8 => some (.bfp 0) | 9 => some (.bfp 1) | 10 => some (.bfp 2) | 11 => some (.bfp 3) | 12 => some (.bfp 4)
  | 13 => some (.bfp 5) | 14 => some (.bfp 6) | _ => none

/-- System register numbers (R329). -/
def SysReg.enc : SysReg → BitVec 10
  | .tvec => 0 | .tpc => 1 | .tmask => 2 | .tcause => 3 | .taddr => 4 | .tpte => 5 | .tsave => 6 | .ptroot => 8
  | .physview => 9 | .framepool => 10 | .mcinfo => 11 | .mcaddr => 12 | .nbmode => 16 | .lease => 17 | .tidemark => 18
def SysReg.dec (x : BitVec 10) : Option SysReg :=
  match x.toNat with
  | 0 => some .tvec | 1 => some .tpc | 2 => some .tmask | 3 => some .tcause | 4 => some .taddr | 5 => some .tpte
  | 6 => some .tsave | 8 => some .ptroot | 9 => some .physview | 10 => some .framepool | 11 => some .mcinfo
  | 12 => some .mcaddr | 16 => some .nbmode | 17 => some .lease | 18 => some .tidemark | _ => none

/-! ## Reading and laying out the fields -/

/-- A word without a guard (R82). -/
def bare (b : Bool) (maj min : BitVec 6) : Fields := { bnd := b, maj := maj, min := min }
/-- A guardable word (R76, R82). -/
def guarded (h : Hd) (maj min : BitVec 6) : Fields :=
  { bnd := h.b, maj := maj, min := min, gp := h.g.pred, gs := h.g.sense }

/-- The 38-bit field of the branch forms (R86). -/
def Fields.withOff (F : Fields) (o : BitVec 38) : Fields :=
  { F with dst := o.extractLsb' 30 8, a := o.extractLsb' 20 10, b := o.extractLsb' 10 10, c := o.extractLsb' 0 10 }
def Fields.off38 (F : Fields) : BitVec 38 := F.dst ++ (F.a ++ (F.b ++ F.c))
/-- imm20 (R85). -/
def Fields.withImm (F : Fields) (i : BitVec 20) : Fields :=
  { F with b := i.extractLsb' 10 10, c := i.extractLsb' 0 10 }
def Fields.imm (F : Fields) : BitVec 20 := F.b ++ F.c
/-- A second source that may be a window (R83). -/
def Fields.withB (F : Fields) : SrcB → Fields
  | .reg s => { F with b := s.enc }
  | .win k off => { F with k := true, b := k ++ off.extractLsb' 10 7, c := off.extractLsb' 0 10 }
/-- The part of SCLD with its operands (R241). -/
def Fields.withPart (F : Fields) : ScldPart → Fields
  | .all h a b => { F with hold := h.enc, a := a.enc, b := b.enc }
  | .aexp a => { F with a := a.enc, c := 1 }
  | .bexp a => { F with a := a.enc, c := 2 }
  | .scale h b => { F with hold := h.enc, b := b.enc, c := 3 }

def Fields.sa (F : Fields) : BitVec 10 := F.a
def Fields.sb (F : Fields) : BitVec 10 := F.b
def Fields.sc (F : Fields) : BitVec 10 := F.c
def Fields.hd (F : Fields) : Hd := ⟨F.bnd, Guard.dec F.gp F.gs⟩
def Fields.holdV (F : Fields) : Hold := Hold.dec F.hold
def Fields.srcA (F : Fields) : Src := Src.dec F.a
def Fields.srcB (F : Fields) : Src := Src.dec F.b
def Fields.srcC (F : Fields) : Src := Src.dec F.c
def Fields.srcBK (F : Fields) : SrcB :=
  if F.k then .win (F.b.extractLsb' 7 3) (F.b.extractLsb' 0 7 ++ F.c) else .reg (Src.dec F.b)
def Fields.dstP (F : Fields) : BitVec 3 := F.dst.setWidth 3
def Fields.dstS (F : Fields) : BitVec 6 := F.dst.setWidth 6
def Fields.dstZ (F : Fields) : BitVec 6 := F.dst.setWidth 6
def Fields.dstG (F : Fields) (uniform : Bool) : Dst := Dst.dec uniform F.dst
def Fields.wBit (F : Fields) : FW := if F.dst.getLsbD 0 then .d else .s
def Fields.dstF (F : Fields) (uniform : Bool) : Dst := Dst.dec uniform (F.dst &&& 0xFE#8)
def Fields.mod4 (F : Fields) : BitVec 4 := F.c.extractLsb' 0 4
def Fields.disp (F : Fields) : BitVec 6 := F.c.extractLsb' 4 6

def Fields.scldPart (F : Fields) : Option ScldPart :=
  match F.c.toNat with
  | 0 => some (.all F.holdV F.srcA F.srcB)
  | 1 => some (.aexp F.srcA)
  | 2 => some (.bexp F.srcA)
  | 3 => some (.scale F.holdV F.srcB)
  | _ => none

/-- MOV and its two queue forms, by SRCC (R133, R136). -/
def parseMov (F : Fields) : Option Instr :=
  if F.c = 0 then some (.mov ⟨F.hd, F.holdV, F.dstG F.srcA.uniform, F.srcA⟩)
  else if F.c &&& 0x3F0#10 = 0x100#10 then some (.movQueuePush F.hd (lowN 4 F.c) F.srcA)
  else if F.c &&& 0x3F0#10 = 0x200#10 then some (.movQueuePop F.hd (F.dstG true) (lowN 4 F.c))
  else none

/-- The fields of each full word, from the encoding tables of the class chapters (R100). -/
def encodeFields : Instr → Option Fields
  | .bra b off => some ((bare b 0x00#6 0x00#6).withOff off)
  | .brp b p t f => some (({ bare b 0x00#6 0x01#6 with gp := p }).withOff (t ++ f))
  | .brx b a => some { bare b 0x00#6 0x02#6 with a := a.enc }
  | .call b off => some ((bare b 0x00#6 0x03#6).withOff off)
  | .ret b => some (bare b 0x00#6 0x04#6)
  | .div b off => some ((bare b 0x00#6 0x05#6).withOff off)
  | .join b => some (bare b 0x00#6 0x06#6)
  | .loop b c off => some (({ bare b 0x00#6 0x07#6 with a := c.enc }).withImm off)
  | .exit h => some (guarded h 0x00#6 0x08#6)
  | .yield h => some (guarded h 0x00#6 0x09#6)
  | .trap h im => some ((guarded h 0x00#6 0x0A#6).withImm im)
  | .brk h im => some ((guarded h 0x00#6 0x0B#6).withImm im)
  | .pand o => some { guarded o.h 0x01#6 0x00#6 with dst := encP o.d, a := encN o.a, b := encN o.b }
  | .por o => some { guarded o.h 0x01#6 0x01#6 with dst := encP o.d, a := encN o.a, b := encN o.b }
  | .pxor o => some { guarded o.h 0x01#6 0x02#6 with dst := encP o.d, a := encN o.a, b := encN o.b }
  | .pnot o => some { guarded o.h 0x01#6 0x03#6 with dst := encP o.d, a := encN o.a }
  | .pknown o => some { guarded o.h 0x01#6 0x04#6 with dst := encP o.d, a := encN o.a }
  | .presolve o t => some { guarded o.h 0x01#6 0x05#6 with dst := encP o.d, a := encN o.a, b := encBit t }
  | .pset h d v => some { guarded h 0x01#6 0x06#6 with dst := encP d, a := v.enc }
  | .pmovv h d a => some { guarded h 0x01#6 0x07#6 with dst := d, a := encN a }
  | .pmovp h hold d a => some { guarded h 0x01#6 0x08#6 with hold := hold.enc, dst := encP d, a := a.enc }
  | .pany o => some { guarded o.h 0x01#6 0x09#6 with dst := encP o.d, a := encN o.a }
  | .pall o => some { guarded o.h 0x01#6 0x0A#6 with dst := encP o.d, a := encN o.a }
  | .pcount o => some { guarded o.h 0x01#6 0x0B#6 with dst := o.d.enc, a := encN o.a, b := o.v.enc }
  | .pmask o => some { guarded o.h 0x01#6 0x0C#6 with dst := o.d.enc, a := encN o.a, b := o.v.enc }
  | .iadd o => some (({ guarded o.h 0x02#6 0x00#6 with hold := o.hold.enc, dst := o.d.enc, a := o.a.enc }).withB o.b)
  | .isub o => some (({ guarded o.h 0x02#6 0x01#6 with hold := o.hold.enc, dst := o.d.enc, a := o.a.enc }).withB o.b)
  | .iaddc o => some { guarded o.h 0x02#6 0x02#6 with hold := o.hold.enc, dst := o.d.enc, a := o.a.enc, b := o.b.enc, c := o.c.enc }
  | .isubb o => some { guarded o.h 0x02#6 0x03#6 with hold := o.hold.enc, dst := o.d.enc, a := o.a.enc, b := o.b.enc, c := o.c.enc }
  | .ineg o => some { guarded o.h 0x02#6 0x04#6 with hold := o.hold.enc, dst := o.d.enc, a := o.a.enc }
  | .iabs o => some { guarded o.h 0x02#6 0x05#6 with hold := o.hold.enc, dst := o.d.enc, a := o.a.enc }
  | .imin o => some (({ guarded o.h 0x02#6 0x06#6 with hold := o.hold.enc, dst := o.d.enc, a := o.a.enc }).withB o.b)
  | .imax o => some (({ guarded o.h 0x02#6 0x07#6 with hold := o.hold.enc, dst := o.d.enc, a := o.a.enc }).withB o.b)
  | .iminu o => some (({ guarded o.h 0x02#6 0x08#6 with hold := o.hold.enc, dst := o.d.enc, a := o.a.enc }).withB o.b)
  | .imaxu o => some (({ guarded o.h 0x02#6 0x09#6 with hold := o.hold.enc, dst := o.d.enc, a := o.a.enc }).withB o.b)
  | .and o => some (({ guarded o.h 0x02#6 0x0A#6 with hold := o.hold.enc, dst := o.d.enc, a := o.a.enc }).withB o.b)
  | .or o => some (({ guarded o.h 0x02#6 0x0B#6 with hold := o.hold.enc, dst := o.d.enc, a := o.a.enc }).withB o.b)
  | .xor o => some (({ guarded o.h 0x02#6 0x0C#6 with hold := o.hold.enc, dst := o.d.enc, a := o.a.enc }).withB o.b)
  | .andn o => some (({ guarded o.h 0x02#6 0x0D#6 with hold := o.hold.enc, dst := o.d.enc, a := o.a.enc }).withB o.b)
  | .not o => some { guarded o.h 0x02#6 0x0E#6 with hold := o.hold.enc, dst := o.d.enc, a := o.a.enc }
  | .sel o => some { guarded o.h 0x02#6 0x0F#6 with hold := o.hold.enc, dst := o.d.enc, a := o.a.enc, b := o.b.enc, c := o.c.enc }
  | .imul o => some (({ guarded o.h 0x02#6 0x10#6 with hold := o.hold.enc, dst := o.d.enc, a := o.a.enc }).withB o.b)
  | .imulhi o => some (({ guarded o.h 0x02#6 0x11#6 with hold := o.hold.enc, dst := o.d.enc, a := o.a.enc }).withB o.b)
  | .imulhiu o => some (({ guarded o.h 0x02#6 0x12#6 with hold := o.hold.enc, dst := o.d.enc, a := o.a.enc }).withB o.b)
  | .imad o => some { guarded o.h 0x02#6 0x13#6 with hold := o.hold.enc, dst := o.d.enc, a := o.a.enc, b := o.b.enc, c := o.c.enc }
  | .imulw o => some (({ guarded o.h 0x02#6 0x14#6 with hold := o.hold.enc, dst := o.d.enc, a := o.a.enc }).withB o.b)
  | .lea o => some { guarded o.h 0x02#6 0x15#6 with hold := o.hold.enc, dst := o.d.enc, a := o.a.enc, b := o.b.enc, c := encN o.sh }
  | .iadd64 o => some (({ guarded o.h 0x02#6 0x16#6 with hold := o.hold.enc, dst := o.d.enc, a := o.a.enc }).withB o.b)
  | .isub64 o => some (({ guarded o.h 0x02#6 0x17#6 with hold := o.hold.enc, dst := o.d.enc, a := o.a.enc }).withB o.b)
  | .iaddi o => some (({ guarded o.h 0x03#6 0x00#6 with hold := o.hold.enc, dst := o.d.enc, a := o.a.enc }).withImm o.imm)
  | .andi o => some (({ guarded o.h 0x03#6 0x01#6 with hold := o.hold.enc, dst := o.d.enc, a := o.a.enc }).withImm o.imm)
  | .ori o => some (({ guarded o.h 0x03#6 0x02#6 with hold := o.hold.enc, dst := o.d.enc, a := o.a.enc }).withImm o.imm)
  | .xori o => some (({ guarded o.h 0x03#6 0x03#6 with hold := o.hold.enc, dst := o.d.enc, a := o.a.enc }).withImm o.imm)
  | .movi h d im => some (({ guarded h 0x03#6 0x04#6 with dst := d.enc }).withImm im)
  | .movhi o => some (({ guarded o.h 0x03#6 0x05#6 with hold := o.hold.enc, dst := o.d.enc, a := o.a.enc }).withImm o.imm)
  | .imini o => some (({ guarded o.h 0x03#6 0x06#6 with hold := o.hold.enc, dst := o.d.enc, a := o.a.enc }).withImm o.imm)
  | .imaxi o => some (({ guarded o.h 0x03#6 0x07#6 with hold := o.hold.enc, dst := o.d.enc, a := o.a.enc }).withImm o.imm)
  | .shl o => some (({ guarded o.h 0x04#6 0x00#6 with hold := o.hold.enc, dst := o.d.enc, a := o.a.enc }).withB o.b)
  | .shr o => some (({ guarded o.h 0x04#6 0x01#6 with hold := o.hold.enc, dst := o.d.enc, a := o.a.enc }).withB o.b)
  | .sar o => some (({ guarded o.h 0x04#6 0x02#6 with hold := o.hold.enc, dst := o.d.enc, a := o.a.enc }).withB o.b)
  | .rot o => some (({ guarded o.h 0x04#6 0x03#6 with hold := o.hold.enc, dst := o.d.enc, a := o.a.enc }).withB o.b)
  | .shf o => some { guarded o.h 0x04#6 0x04#6 with hold := o.hold.enc, dst := o.d.enc, a := o.a.enc, b := o.b.enc, c := o.c.enc }
  | .bfx o => some { guarded o.h 0x04#6 0x05#6 with hold := o.hold.enc, dst := o.d.enc, a := o.a.enc, b := o.b.enc, c := o.c.enc }
  | .bfxu o => some { guarded o.h 0x04#6 0x06#6 with hold := o.hold.enc, dst := o.d.enc, a := o.a.enc, b := o.b.enc, c := o.c.enc }
  | .bfi o => some { guarded o.h 0x04#6 0x07#6 with hold := o.hold.enc, dst := o.d.enc, a := o.a.enc, b := o.b.enc, c := o.c.enc }
  | .popc o => some { guarded o.h 0x04#6 0x08#6 with hold := o.hold.enc, dst := o.d.enc, a := o.a.enc }
  | .clz o => some { guarded o.h 0x04#6 0x09#6 with hold := o.hold.enc, dst := o.d.enc, a := o.a.enc }
  | .brev o => some { guarded o.h 0x04#6 0x0A#6 with hold := o.hold.enc, dst := o.d.enc, a := o.a.enc }
  | .mov o => some { guarded o.h 0x05#6 0x00#6 with hold := o.hold.enc, dst := o.d.enc, a := o.a.enc }
  | .movQueuePush h q a => some { guarded h 0x05#6 0x00#6 with a := a.enc, c := 0x100#10 ||| encN q }
  | .movQueuePop h d q => some { guarded h 0x05#6 0x00#6 with dst := d.enc, c := 0x200#10 ||| encN q }
  | .mov64 o => some { guarded o.h 0x05#6 0x01#6 with hold := o.hold.enc, dst := o.d.enc, a := o.a.enc }
  | .movs h hold d a => some { guarded h 0x05#6 0x02#6 with hold := hold.enc, dst := encS d, a := a.enc }
  | .bcast o => some (({ guarded o.h 0x05#6 0x03#6 with hold := o.hold.enc, dst := o.d, a := o.a.enc }).withB o.b)
  | .rdlane h la hold d a b => some (({ guarded h 0x05#6 0x04#6 with la := la, hold := hold.enc, dst := encS d, a := a.enc }).withB b)
  | .wrlane o => some (({ guarded o.h 0x05#6 0x05#6 with hold := o.hold.enc, dst := o.d, a := o.a.enc }).withB o.b)
  | .shfl h la hold d a b m => some { guarded h 0x05#6 0x06#6 with la := la, hold := hold.enc, dst := d, a := a.enc, b := b.enc, c := m.enc }
  | .nmov o => some (({ guarded o.h 0x05#6 0x07#6 with hold := o.hold.enc, dst := o.d, a := o.a.enc }).withB o.b)
  | .movm h hold a => some { guarded h 0x05#6 0x08#6 with hold := hold.enc, a := a.enc }
  | .rdsp h d c => some { guarded h 0x05#6 0x09#6 with dst := d.enc, a := c.enc }
  | .icmp o => some { guarded o.h 0x06#6 0x00#6 with hold := o.hold.enc, dst := encP o.d, a := o.a.enc, b := o.b.enc, c := o.cc.enc }
  | .icmpu o => some { guarded o.h 0x06#6 0x01#6 with hold := o.hold.enc, dst := encP o.d, a := o.a.enc, b := o.b.enc, c := o.cc.enc }
  | .icmp64 o u => some { guarded o.h 0x06#6 0x02#6 with hold := o.hold.enc, dst := encP o.d, a := o.a.enc, b := o.b.enc, c := o.cc.enc ||| (if u then 8#10 else 0#10) }
  | .scan h hold d a o e => some { guarded h 0x07#6 0x00#6 with hold := hold.enc, dst := d, a := a.enc, b := o.enc ||| (if e then 0x10#10 else 0#10) }
  | .gred h hold d a o => some { guarded h 0x07#6 0x01#6 with hold := hold.enc, dst := d.enc, a := a.enc, b := o.enc }
  | .compact h hold d a p => some { guarded h 0x07#6 0x02#6 with hold := hold.enc, dst := d, a := a.enc, b := encN p }
  | .isect h hold d a b => some { guarded h 0x07#6 0x03#6 with hold := hold.enc, dst := d, a := a.enc, b := b.enc }
  | .mpath h hold d a b c => some { guarded h 0x07#6 0x04#6 with hold := hold.enc, dst := d, a := a.enc, b := b.enc, c := c.enc }
  | .fadd o => some (({ guarded o.h 0x08#6 0x00#6 with dst := encF o.w o.d, a := o.a.enc }).withB o.b)
  | .fsub o => some (({ guarded o.h 0x08#6 0x01#6 with dst := encF o.w o.d, a := o.a.enc }).withB o.b)
  | .fmul o => some (({ guarded o.h 0x08#6 0x02#6 with dst := encF o.w o.d, a := o.a.enc }).withB o.b)
  | .fdiv la o => some (({ guarded o.h 0x08#6 0x03#6 with la := la, dst := encF o.w o.d, a := o.a.enc }).withB o.b)
  | .fdivx la o => some { guarded o.h 0x08#6 0x04#6 with la := la, dst := encF o.w o.d, a := o.a.enc, b := o.b.enc, c := encN o.p }
  | .ffma o => some { guarded o.h 0x08#6 0x05#6 with dst := encF o.w o.d, a := o.a.enc, b := o.b.enc, c := o.c.enc }
  | .fsqr o => some { guarded o.h 0x08#6 0x06#6 with dst := encF o.w o.d, a := o.a.enc }
  | .fsqrt la o => some { guarded o.h 0x08#6 0x07#6 with la := la, dst := encF o.w o.d, a := o.a.enc }
  | .fmin o => some (({ guarded o.h 0x08#6 0x08#6 with dst := encF o.w o.d, a := o.a.enc }).withB o.b)
  | .fmax o => some (({ guarded o.h 0x08#6 0x09#6 with dst := encF o.w o.d, a := o.a.enc }).withB o.b)
  | .fabs o => some { guarded o.h 0x08#6 0x0A#6 with dst := encF o.w o.d, a := o.a.enc }
  | .fneg o => some { guarded o.h 0x08#6 0x0B#6 with dst := encF o.w o.d, a := o.a.enc }
  | .fpown o n => some { guarded o.h 0x08#6 0x0C#6 with dst := encF o.w o.d, a := o.a.enc, c := n }
  | .fexp2 la o => some { guarded o.h 0x08#6 0x0D#6 with la := la, dst := encF o.w o.d, a := o.a.enc }
  | .flog2 la o => some { guarded o.h 0x08#6 0x0E#6 with la := la, dst := encF o.w o.d, a := o.a.enc }
  | .fhull o => some (({ guarded o.h 0x09#6 0x00#6 with dst := encF o.w o.d, a := o.a.enc }).withB o.b)
  | .fisect o => some (({ guarded o.h 0x09#6 0x01#6 with dst := encF o.w o.d, a := o.a.enc }).withB o.b)
  | .fmid o => some { guarded o.h 0x09#6 0x02#6 with dst := encF o.w o.d, a := o.a.enc }
  | .frad o => some { guarded o.h 0x09#6 0x03#6 with dst := encF o.w o.d, a := o.a.enc }
  | .fwid o => some { guarded o.h 0x09#6 0x04#6 with dst := encF o.w o.d, a := o.a.enc }
  | .fmag o => some { guarded o.h 0x09#6 0x05#6 with dst := encF o.w o.d, a := o.a.enc }
  | .fmig o => some { guarded o.h 0x09#6 0x06#6 with dst := encF o.w o.d, a := o.a.enc }
  | .finf o => some { guarded o.h 0x09#6 0x07#6 with dst := encF o.w o.d, a := o.a.enc }
  | .fsup o => some { guarded o.h 0x09#6 0x08#6 with dst := encF o.w o.d, a := o.a.enc }
  | .fmake o => some (({ guarded o.h 0x09#6 0x09#6 with hold := o.hold.enc, dst := encF o.w o.d, a := o.a.enc }).withB o.b)
  | .fpoint o => some { guarded o.h 0x09#6 0x0A#6 with hold := o.hold.enc, dst := encF o.w o.d, a := o.a.enc }
  | .fcmp h d a b cc w => some { guarded h 0x0A#6 0x00#6 with dst := encP d, a := a.enc, b := b.enc, c := cc.enc ||| (if w = .d then 8#10 else 0#10) }
  | .fsubset o => some { guarded o.h 0x0A#6 0x01#6 with hold := o.hold.enc, dst := encP o.d, a := o.a.enc, b := o.b.enc, c := o.w.enc }
  | .finterior o => some { guarded o.h 0x0A#6 0x02#6 with hold := o.hold.enc, dst := encP o.d, a := o.a.enc, b := o.b.enc, c := o.w.enc }
  | .fdisj o => some { guarded o.h 0x0A#6 0x03#6 with hold := o.hold.enc, dst := encP o.d, a := o.a.enc, b := o.b.enc, c := o.w.enc }
  | .fcontains o => some { guarded o.h 0x0A#6 0x04#6 with hold := o.hold.enc, dst := encP o.d, a := o.a.enc, b := o.b.enc, c := o.w.enc }
  | .fclass h d a w => some { guarded h 0x0A#6 0x05#6 with dst := d.enc, a := a.enc, c := w.enc }
  | .fwiden h d a => some { guarded h 0x0B#6 0x00#6 with dst := d.enc, a := a.enc }
  | .fnarrow h d a => some { guarded h 0x0B#6 0x01#6 with dst := d.enc, a := a.enc }
  | .fcvti h d a m w => some { guarded h 0x0B#6 0x02#6 with dst := d.enc, a := a.enc, c := m.enc ||| (if w = .d then 0x10#10 else 0#10) }
  | .icvtf h hold d a u w => some { guarded h 0x0B#6 0x03#6 with hold := hold.enc, dst := d.enc, a := a.enc, c := w.enc ||| (if u then 2#10 else 0#10) }
  | .fcvtbf h d a b m => some { guarded h 0x0B#6 0x04#6 with dst := d.enc, a := a.enc, b := b.enc, c := m.enc }
  | .fpack h hold d a k => some { guarded h 0x0B#6 0x05#6 with hold := hold.enc, dst := d, a := a.enc, c := encK k }
  | .funpack h hold d a b k => some { guarded h 0x0B#6 0x06#6 with hold := hold.enc, dst := d, a := a.enc, b := b.enc, c := encK k }
  | .ftomrad h d a w => some { guarded h 0x0B#6 0x07#6 with dst := d.enc, a := a.enc, c := w.enc }
  | .ffrommrad h hold d a w => some { guarded h 0x0B#6 0x08#6 with hold := hold.enc, dst := d.enc, a := a.enc, c := w.enc }
  | .ftrunc h hold d a f => some { guarded h 0x0B#6 0x09#6 with hold := hold.enc, dst := d.enc, a := a.enc, c := encBit f }
  | .split h d s => some { guarded h 0x0C#6 0x00#6 with dst := encP d, c := encN s }
  | .spawn h d a s => some { guarded h 0x0C#6 0x01#6 with dst := encP d, a := a.enc, c := encN s }
  | .take h d s => some { guarded h 0x0C#6 0x02#6 with dst := encP d, c := encN s }
  | .tend h => some (guarded h 0x0C#6 0x03#6)
  | .poolq h d s => some { guarded h 0x0C#6 0x04#6 with dst := d.enc, c := s.enc }
  | .ld o => some { guarded o.h 0x0D#6 0x00#6 with la := o.la, hold := o.hold.enc, dst := o.d.enc, a := o.a.enc, b := o.b.enc, c := o.disp ++ o.w.enc }
  | .st o => some { guarded o.h 0x0D#6 0x01#6 with hold := o.hold.enc, a := o.a.enc, b := o.b.enc, c := o.disp ++ o.w.enc }
  | .lds o => some { guarded o.h 0x0D#6 0x02#6 with la := o.la, hold := o.hold.enc, dst := o.d.enc, a := o.a.enc, b := o.b.enc, c := o.disp ++ o.w.enc }
  | .sts o => some { guarded o.h 0x0D#6 0x03#6 with hold := o.hold.enc, a := o.a.enc, b := o.b.enc, c := o.disp ++ o.w.enc }
  | .ldk o => some { guarded o.h 0x0D#6 0x04#6 with la := o.la, hold := o.hold.enc, dst := o.d.enc, a := o.a.enc, b := o.b.enc, c := o.disp ++ o.w.enc }
  | .ldmrad o => some { guarded o.h 0x0D#6 0x05#6 with la := o.la, hold := o.hold.enc, dst := o.d.enc, a := o.a.enc, b := o.b.enc, c := o.disp ++ o.w.enc4 }
  | .stmrad o => some { guarded o.h 0x0D#6 0x06#6 with a := o.a.enc, b := o.b.enc, c := o.disp ++ o.w.enc4 }
  | .stp o => some { guarded o.h 0x0D#6 0x07#6 with a := o.a.enc, b := o.b.enc, c := o.disp ++ o.fmt.enc ++ o.mode.enc2 }
  | .pref o => some { guarded o.h 0x0D#6 0x08#6 with hold := o.hold.enc, a := o.a.enc, b := o.b.enc, c := o.disp ++ (if o.sc then 1#4 else 0#4) }
  | .atom o => some { guarded o.h 0x0E#6 0x00#6 with la := o.la, hold := o.hold.enc, dst := o.d.enc, a := o.a.enc, b := o.b.enc, c := o.op.enc ||| encX o.x }
  | .atomcas o => some { guarded o.h 0x0E#6 0x01#6 with la := o.la, dst := o.d.enc, a := o.a.enc, b := o.b.enc, c := encBit o.x }
  | .fatom o => some { guarded o.h 0x0E#6 0x02#6 with la := o.la, dst := o.d.enc, a := o.a.enc, b := o.b.enc, c := o.op.enc ||| encX (decide (o.w = .d)) }
  | .red o => some { guarded o.h 0x0E#6 0x03#6 with hold := o.hold.enc, a := o.a.enc, b := o.b.enc, c := o.op.enc ||| encX o.x }
  | .fred o => some { guarded o.h 0x0E#6 0x04#6 with a := o.a.enc, b := o.b.enc, c := o.op.enc ||| encX (decide (o.w = .d)) }
  | .xcopy o => some { guarded o.h 0x0F#6 0x00#6 with a := o.a.enc, b := o.b.enc, c := encN o.tag }
  | .xfill o => some { guarded o.h 0x0F#6 0x01#6 with a := o.a.enc, b := o.b.enc, c := encN o.tag }
  | .xwait h d a l => some { guarded h 0x0F#6 0x02#6 with dst := encP d, a := a.enc, c := encBit l }
  | .xtest h d a => some { guarded h 0x0F#6 0x03#6 with dst := d.enc, a := a.enc }
  | .xclear h a => some { guarded h 0x0F#6 0x04#6 with a := a.enc }
  | .bar h hold a i => some { guarded h 0x10#6 0x00#6 with hold := hold.enc, a := a.enc, c := encN i }
  | .barc h i => some { guarded h 0x10#6 0x01#6 with c := encN i }
  | .bara h hold d a i => some { guarded h 0x10#6 0x02#6 with hold := hold.enc, dst := d.enc, a := a.enc, c := encN i }
  | .barw h hold a i => some { guarded h 0x10#6 0x03#6 with hold := hold.enc, a := a.enc, c := encN i }
  | .qmap h k q a b => some { guarded h 0x10#6 0x04#6 with a := a.enc, b := b.enc, c := k.enc ||| encN q }
  | .qtry h d q pop => some { guarded h 0x10#6 0x05#6 with dst := encP d, c := encN q ||| encX pop }
  | .waitv h hold d a b => some (({ guarded h 0x10#6 0x06#6 with hold := hold.enc, dst := encP d, a := a.enc }).withB b)
  | .mma o => some { guarded o.h 0x11#6 0x00#6 with la := o.la, dst := encZ o.z, a := o.a.enc, b := o.b.enc, c := 0#1 ++ o.slot ++ o.dep.enc ++ o.fmt.enc }
  | .mmax o => some { guarded o.h 0x11#6 0x01#6 with la := o.la, dst := encZ o.z, a := o.a.enc, b := o.b.enc, c := 0#1 ++ o.slot ++ o.dep.enc ++ o.fmt.enc }
  | .zclr h z w => some { guarded h 0x11#6 0x02#6 with dst := encZ z, c := w.enc }
  | .zld h la z a w => some { guarded h 0x11#6 0x03#6 with la := la, dst := encZ z, a := a.enc, c := w.enc }
  | .zst h z a w => some { guarded h 0x11#6 0x04#6 with dst := encZ z, a := a.enc, c := w.enc }
  | .zget h la d z w => some { guarded h 0x11#6 0x05#6 with la := la, dst := d, a := encN z, c := w.enc }
  | .zput h z a w => some { guarded h 0x11#6 0x06#6 with dst := encZ z, a := a.enc, c := w.enc }
  | .scld h s p => some (({ guarded h 0x11#6 0x07#6 with dst := encN8 s }).withPart p)
  | .seal o => some { guarded o.h 0x12#6 0x00#6 with la := o.la, hold := o.hold.enc, dst := encP o.d, a := o.a.enc, b := o.b.enc, c := o.c.enc }
  | .peek o => some { guarded o.h 0x12#6 0x01#6 with la := o.la, hold := o.hold.enc, dst := encP o.d, a := o.a.enc, b := o.b.enc, c := o.c.enc }
  | .reopen h la hold d a c => some { guarded h 0x12#6 0x02#6 with la := la, hold := hold.enc, dst := encP d, a := a.enc, c := c.enc }
  | .cinit h hold a c => some { guarded h 0x12#6 0x03#6 with hold := hold.enc, a := a.enc, c := c.enc }
  | .ktable h s a => some { guarded h 0x13#6 0x00#6 with a := a.enc, c := encN s }
  | .kstore h hold s a b => some { guarded h 0x13#6 0x01#6 with hold := hold.enc, a := a.enc, b := b.enc, c := encN s }
  | .ksign h la d a s => some { guarded h 0x13#6 0x02#6 with la := la, dst := d.enc, a := a.enc, c := encN s }
  | .kgather h d a b s t => some { guarded h 0x13#6 0x03#6 with dst := encP d, a := a.enc, b := b.enc, c := 0#2 ++ s ++ t }
  | .kclear h hold b l s t => some { guarded h 0x13#6 0x04#6 with hold := hold.enc, b := b.enc, c := l ++ s ++ t }
  | .dqnext h hold a t => some { guarded h 0x14#6 0x00#6 with hold := hold.enc, a := a.enc, c := encN t }
  | .dqdone h hold a => some { guarded h 0x14#6 0x01#6 with hold := hold.enc, a := a.enc }
  | .devent h hold a => some { guarded h 0x14#6 0x02#6 with hold := hold.enc, a := a.enc }
  | .dwait h hold d a b => some (({ guarded h 0x14#6 0x03#6 with hold := hold.enc, dst := encP d, a := a.enc }).withB b)
  | .tret b => some (bare b 0x15#6 0x00#6)
  | .mfsr h d r => some { guarded h 0x15#6 0x01#6 with dst := d.enc, c := r.enc }
  | .mtsr h r a => some { guarded h 0x15#6 0x02#6 with a := a.enc, c := r.enc }
  | .tlbf h a => some { guarded h 0x15#6 0x03#6 with a := a.enc }
  | .tlbi h hold a b => some (({ guarded h 0x15#6 0x04#6 with hold := hold.enc, a := a.enc }).withB b)
  | .probe h d a => some { guarded h 0x15#6 0x05#6 with dst := d.enc, a := a.enc }
  | .halt h im => some ((guarded h 0x15#6 0x06#6).withImm im)
  | _ => none

/-- The Control words by MIN (R120); fields that must be zero are checked afterwards. -/
def parseControl (F : Fields) : Option Instr :=
  match F.min.toNat with
  | 0x00 => some (.bra F.bnd F.off38)
  | 0x01 => some (.brp F.bnd F.gp (F.off38.extractLsb' 19 19) (F.off38.extractLsb' 0 19))
  | 0x02 => some (.brx F.bnd F.srcA)
  | 0x03 => some (.call F.bnd F.off38)
  | 0x04 => some (.ret F.bnd)
  | 0x05 => some (.div F.bnd F.off38)
  | 0x06 => some (.join F.bnd)
  | 0x07 => some (.loop F.bnd F.srcA F.imm)
  | 0x08 => some (.exit F.hd)
  | 0x09 => some (.yield F.hd)
  | 0x0A => some (.trap F.hd F.imm)
  | 0x0B => some (.brk F.hd F.imm)
  | _ => none

/-- The Predicate words by MIN (R127); fields that must be zero are checked afterwards. -/
def parsePredicate (F : Fields) : Option Instr :=
  match F.min.toNat with
  | 0x00 => some (.pand ⟨F.hd, F.dstP, lowN 3 F.sa, lowN 3 F.sb⟩)
  | 0x01 => some (.por ⟨F.hd, F.dstP, lowN 3 F.sa, lowN 3 F.sb⟩)
  | 0x02 => some (.pxor ⟨F.hd, F.dstP, lowN 3 F.sa, lowN 3 F.sb⟩)
  | 0x03 => some (.pnot ⟨F.hd, F.dstP, lowN 3 F.sa⟩)
  | 0x04 => some (.pknown ⟨F.hd, F.dstP, lowN 3 F.sa⟩)
  | 0x05 => (bitOf F.sb).map (.presolve ⟨F.hd, F.dstP, lowN 3 F.sa⟩)
  | 0x06 => (Tri.dec F.sa).map (.pset F.hd F.dstP)
  | 0x07 => some (.pmovv F.hd F.dst (lowN 3 F.sa))
  | 0x08 => some (.pmovp F.hd F.holdV F.dstP F.srcA)
  | 0x09 => some (.pany ⟨F.hd, F.dstP, lowN 3 F.sa⟩)
  | 0x0A => some (.pall ⟨F.hd, F.dstP, lowN 3 F.sa⟩)
  | 0x0B => (Tri.dec F.sb).map fun v => .pcount ⟨F.hd, F.dstG true, lowN 3 F.sa, v⟩
  | 0x0C => (Tri.dec F.sb).map fun v => .pmask ⟨F.hd, F.dstG true, lowN 3 F.sa, v⟩
  | _ => none

/-- The Integer words by MIN (R128); fields that must be zero are checked afterwards. -/
def parseInteger (F : Fields) : Option Instr :=
  match F.min.toNat with
  | 0x00 => some (.iadd ⟨F.hd, F.holdV, F.dstG (F.srcA.uniform && F.srcBK.uniform), F.srcA, F.srcBK⟩)
  | 0x01 => some (.isub ⟨F.hd, F.holdV, F.dstG (F.srcA.uniform && F.srcBK.uniform), F.srcA, F.srcBK⟩)
  | 0x02 => some (.iaddc ⟨F.hd, F.holdV, F.dstG (F.srcA.uniform && F.srcB.uniform && F.srcC.uniform), F.srcA, F.srcB, F.srcC⟩)
  | 0x03 => some (.isubb ⟨F.hd, F.holdV, F.dstG (F.srcA.uniform && F.srcB.uniform && F.srcC.uniform), F.srcA, F.srcB, F.srcC⟩)
  | 0x04 => some (.ineg ⟨F.hd, F.holdV, F.dstG F.srcA.uniform, F.srcA⟩)
  | 0x05 => some (.iabs ⟨F.hd, F.holdV, F.dstG F.srcA.uniform, F.srcA⟩)
  | 0x06 => some (.imin ⟨F.hd, F.holdV, F.dstG (F.srcA.uniform && F.srcBK.uniform), F.srcA, F.srcBK⟩)
  | 0x07 => some (.imax ⟨F.hd, F.holdV, F.dstG (F.srcA.uniform && F.srcBK.uniform), F.srcA, F.srcBK⟩)
  | 0x08 => some (.iminu ⟨F.hd, F.holdV, F.dstG (F.srcA.uniform && F.srcBK.uniform), F.srcA, F.srcBK⟩)
  | 0x09 => some (.imaxu ⟨F.hd, F.holdV, F.dstG (F.srcA.uniform && F.srcBK.uniform), F.srcA, F.srcBK⟩)
  | 0x0A => some (.and ⟨F.hd, F.holdV, F.dstG (F.srcA.uniform && F.srcBK.uniform), F.srcA, F.srcBK⟩)
  | 0x0B => some (.or ⟨F.hd, F.holdV, F.dstG (F.srcA.uniform && F.srcBK.uniform), F.srcA, F.srcBK⟩)
  | 0x0C => some (.xor ⟨F.hd, F.holdV, F.dstG (F.srcA.uniform && F.srcBK.uniform), F.srcA, F.srcBK⟩)
  | 0x0D => some (.andn ⟨F.hd, F.holdV, F.dstG (F.srcA.uniform && F.srcBK.uniform), F.srcA, F.srcBK⟩)
  | 0x0E => some (.not ⟨F.hd, F.holdV, F.dstG F.srcA.uniform, F.srcA⟩)
  | 0x0F => some (.sel ⟨F.hd, F.holdV, F.dstG (F.srcA.uniform && F.srcB.uniform && F.srcC.uniform), F.srcA, F.srcB, F.srcC⟩)
  | 0x10 => some (.imul ⟨F.hd, F.holdV, F.dstG (F.srcA.uniform && F.srcBK.uniform), F.srcA, F.srcBK⟩)
  | 0x11 => some (.imulhi ⟨F.hd, F.holdV, F.dstG (F.srcA.uniform && F.srcBK.uniform), F.srcA, F.srcBK⟩)
  | 0x12 => some (.imulhiu ⟨F.hd, F.holdV, F.dstG (F.srcA.uniform && F.srcBK.uniform), F.srcA, F.srcBK⟩)
  | 0x13 => some (.imad ⟨F.hd, F.holdV, F.dstG (F.srcA.uniform && F.srcB.uniform && F.srcC.uniform), F.srcA, F.srcB, F.srcC⟩)
  | 0x14 => some (.imulw ⟨F.hd, F.holdV, F.dstG (F.srcA.uniform && F.srcBK.uniform), F.srcA, F.srcBK⟩)
  | 0x15 => some (.lea ⟨F.hd, F.holdV, F.dstG (F.srcA.uniform && F.srcB.uniform), F.srcA, F.srcB, lowN 3 F.sc⟩)
  | 0x16 => some (.iadd64 ⟨F.hd, F.holdV, F.dstG (F.srcA.uniform && F.srcBK.uniform), F.srcA, F.srcBK⟩)
  | 0x17 => some (.isub64 ⟨F.hd, F.holdV, F.dstG (F.srcA.uniform && F.srcBK.uniform), F.srcA, F.srcBK⟩)
  | _ => none

/-- The Immediate words by MIN (R130); fields that must be zero are checked afterwards. -/
def parseImmediate (F : Fields) : Option Instr :=
  match F.min.toNat with
  | 0x00 => some (.iaddi ⟨F.hd, F.holdV, F.dstG F.srcA.uniform, F.srcA, F.imm⟩)
  | 0x01 => some (.andi ⟨F.hd, F.holdV, F.dstG F.srcA.uniform, F.srcA, F.imm⟩)
  | 0x02 => some (.ori ⟨F.hd, F.holdV, F.dstG F.srcA.uniform, F.srcA, F.imm⟩)
  | 0x03 => some (.xori ⟨F.hd, F.holdV, F.dstG F.srcA.uniform, F.srcA, F.imm⟩)
  | 0x04 => some (.movi F.hd (F.dstG true) F.imm)
  | 0x05 => some (.movhi ⟨F.hd, F.holdV, F.dstG F.srcA.uniform, F.srcA, F.imm⟩)
  | 0x06 => some (.imini ⟨F.hd, F.holdV, F.dstG F.srcA.uniform, F.srcA, F.imm⟩)
  | 0x07 => some (.imaxi ⟨F.hd, F.holdV, F.dstG F.srcA.uniform, F.srcA, F.imm⟩)
  | _ => none

/-- The Bit words by MIN (R131); fields that must be zero are checked afterwards. -/
def parseBit (F : Fields) : Option Instr :=
  match F.min.toNat with
  | 0x00 => some (.shl ⟨F.hd, F.holdV, F.dstG (F.srcA.uniform && F.srcBK.uniform), F.srcA, F.srcBK⟩)
  | 0x01 => some (.shr ⟨F.hd, F.holdV, F.dstG (F.srcA.uniform && F.srcBK.uniform), F.srcA, F.srcBK⟩)
  | 0x02 => some (.sar ⟨F.hd, F.holdV, F.dstG (F.srcA.uniform && F.srcBK.uniform), F.srcA, F.srcBK⟩)
  | 0x03 => some (.rot ⟨F.hd, F.holdV, F.dstG (F.srcA.uniform && F.srcBK.uniform), F.srcA, F.srcBK⟩)
  | 0x04 => some (.shf ⟨F.hd, F.holdV, F.dstG (F.srcA.uniform && F.srcB.uniform && F.srcC.uniform), F.srcA, F.srcB, F.srcC⟩)
  | 0x05 => some (.bfx ⟨F.hd, F.holdV, F.dstG (F.srcA.uniform && F.srcB.uniform && F.srcC.uniform), F.srcA, F.srcB, F.srcC⟩)
  | 0x06 => some (.bfxu ⟨F.hd, F.holdV, F.dstG (F.srcA.uniform && F.srcB.uniform && F.srcC.uniform), F.srcA, F.srcB, F.srcC⟩)
  | 0x07 => some (.bfi ⟨F.hd, F.holdV, F.dstG (F.srcA.uniform && F.srcB.uniform && F.srcC.uniform), F.srcA, F.srcB, F.srcC⟩)
  | 0x08 => some (.popc ⟨F.hd, F.holdV, F.dstG F.srcA.uniform, F.srcA⟩)
  | 0x09 => some (.clz ⟨F.hd, F.holdV, F.dstG F.srcA.uniform, F.srcA⟩)
  | 0x0A => some (.brev ⟨F.hd, F.holdV, F.dstG F.srcA.uniform, F.srcA⟩)
  | _ => none

/-- The Move words by MIN (R133); fields that must be zero are checked afterwards. -/
def parseMove (F : Fields) : Option Instr :=
  match F.min.toNat with
  | 0x00 => parseMov F
  | 0x01 => some (.mov64 ⟨F.hd, F.holdV, F.dstG F.srcA.uniform, F.srcA⟩)
  | 0x02 => some (.movs F.hd F.holdV F.dstS F.srcA)
  | 0x03 => some (.bcast ⟨F.hd, F.holdV, F.dst, F.srcA, F.srcBK⟩)
  | 0x04 => some (.rdlane F.hd F.la F.holdV F.dstS F.srcA F.srcBK)
  | 0x05 => some (.wrlane ⟨F.hd, F.holdV, F.dst, F.srcA, F.srcBK⟩)
  | 0x06 => (ShflMode.dec F.sc).map (.shfl F.hd F.la F.holdV F.dst F.srcA F.srcB)
  | 0x07 => some (.nmov ⟨F.hd, F.holdV, F.dst, F.srcA, F.srcBK⟩)
  | 0x08 => some (.movm F.hd F.holdV F.srcA)
  | 0x09 => (Special.dec F.sa).map fun c => .rdsp F.hd (F.dstG (decide (c ≠ .laneid))) c
  | _ => none

/-- The Compare words by MIN (R139); fields that must be zero are checked afterwards. -/
def parseCompare (F : Fields) : Option Instr :=
  match F.min.toNat with
  | 0x00 => (Cond.dec F.sc).map fun cc => .icmp ⟨F.hd, F.holdV, F.dstP, F.srcA, F.srcB, cc⟩
  | 0x01 => (Cond.dec F.sc).map fun cc => .icmpu ⟨F.hd, F.holdV, F.dstP, F.srcA, F.srcB, cc⟩
  | 0x02 => (Cond.dec (F.sc &&& 0x3F7#10)).map fun cc => .icmp64 ⟨F.hd, F.holdV, F.dstP, F.srcA, F.srcB, cc⟩ (F.sc.getLsbD 3)
  | _ => none

/-- The Lane words by MIN (R140); fields that must be zero are checked afterwards. -/
def parseLane (F : Fields) : Option Instr :=
  match F.min.toNat with
  | 0x00 => (LaneOp.dec (F.sb &&& 0x3EF#10)).map fun o => .scan F.hd F.holdV F.dst F.srcA o (F.sb.getLsbD 4)
  | 0x01 => (GredOp.dec F.sb).map (.gred F.hd F.holdV (F.dstG true) F.srcA)
  | 0x02 => some (.compact F.hd F.holdV F.dst F.srcA (lowN 3 F.sb))
  | 0x03 => some (.isect F.hd F.holdV F.dst F.srcA F.srcB)
  | 0x04 => some (.mpath F.hd F.holdV F.dst F.srcA F.srcB F.srcC)
  | _ => none

/-- The IntervalArith words by MIN (R149); fields that must be zero are checked afterwards. -/
def parseIntervalArith (F : Fields) : Option Instr :=
  match F.min.toNat with
  | 0x00 => some (.fadd ⟨F.hd, F.wBit, F.dstF (F.srcA.uniform && F.srcBK.uniform), F.srcA, F.srcBK⟩)
  | 0x01 => some (.fsub ⟨F.hd, F.wBit, F.dstF (F.srcA.uniform && F.srcBK.uniform), F.srcA, F.srcBK⟩)
  | 0x02 => some (.fmul ⟨F.hd, F.wBit, F.dstF (F.srcA.uniform && F.srcBK.uniform), F.srcA, F.srcBK⟩)
  | 0x03 => some (.fdiv F.la ⟨F.hd, F.wBit, F.dstF (F.srcA.uniform && F.srcBK.uniform), F.srcA, F.srcBK⟩)
  | 0x04 => some (.fdivx F.la ⟨F.hd, F.wBit, F.dstF (F.srcA.uniform && F.srcB.uniform), lowN 3 F.sc, F.srcA, F.srcB⟩)
  | 0x05 => some (.ffma ⟨F.hd, F.wBit, F.dstF (F.srcA.uniform && F.srcB.uniform && F.srcC.uniform), F.srcA, F.srcB, F.srcC⟩)
  | 0x06 => some (.fsqr ⟨F.hd, F.wBit, F.dstF F.srcA.uniform, F.srcA⟩)
  | 0x07 => some (.fsqrt F.la ⟨F.hd, F.wBit, F.dstF F.srcA.uniform, F.srcA⟩)
  | 0x08 => some (.fmin ⟨F.hd, F.wBit, F.dstF (F.srcA.uniform && F.srcBK.uniform), F.srcA, F.srcBK⟩)
  | 0x09 => some (.fmax ⟨F.hd, F.wBit, F.dstF (F.srcA.uniform && F.srcBK.uniform), F.srcA, F.srcBK⟩)
  | 0x0A => some (.fabs ⟨F.hd, F.wBit, F.dstF F.srcA.uniform, F.srcA⟩)
  | 0x0B => some (.fneg ⟨F.hd, F.wBit, F.dstF F.srcA.uniform, F.srcA⟩)
  | 0x0C => some (.fpown ⟨F.hd, F.wBit, F.dstF F.srcA.uniform, F.srcA⟩ F.sc)
  | 0x0D => some (.fexp2 F.la ⟨F.hd, F.wBit, F.dstF F.srcA.uniform, F.srcA⟩)
  | 0x0E => some (.flog2 F.la ⟨F.hd, F.wBit, F.dstF F.srcA.uniform, F.srcA⟩)
  | _ => none

/-- The IntervalSet words by MIN (R154); fields that must be zero are checked afterwards. -/
def parseIntervalSet (F : Fields) : Option Instr :=
  match F.min.toNat with
  | 0x00 => some (.fhull ⟨F.hd, F.wBit, F.dstF (F.srcA.uniform && F.srcBK.uniform), F.srcA, F.srcBK⟩)
  | 0x01 => some (.fisect ⟨F.hd, F.wBit, F.dstF (F.srcA.uniform && F.srcBK.uniform), F.srcA, F.srcBK⟩)
  | 0x02 => some (.fmid ⟨F.hd, F.wBit, F.dstF F.srcA.uniform, F.srcA⟩)
  | 0x03 => some (.frad ⟨F.hd, F.wBit, F.dstF F.srcA.uniform, F.srcA⟩)
  | 0x04 => some (.fwid ⟨F.hd, F.wBit, F.dstF F.srcA.uniform, F.srcA⟩)
  | 0x05 => some (.fmag ⟨F.hd, F.wBit, F.dstF F.srcA.uniform, F.srcA⟩)
  | 0x06 => some (.fmig ⟨F.hd, F.wBit, F.dstF F.srcA.uniform, F.srcA⟩)
  | 0x07 => some (.finf ⟨F.hd, F.wBit, F.dstF F.srcA.uniform, F.srcA⟩)
  | 0x08 => some (.fsup ⟨F.hd, F.wBit, F.dstF F.srcA.uniform, F.srcA⟩)
  | 0x09 => some (.fmake ⟨F.hd, F.holdV, F.wBit, F.dstF (F.srcA.uniform && F.srcBK.uniform), F.srcA, F.srcBK⟩)
  | 0x0A => some (.fpoint ⟨F.hd, F.holdV, F.wBit, F.dstF F.srcA.uniform, F.srcA⟩)
  | _ => none

/-- The IntervalCompare words by MIN (R155); fields that must be zero are checked afterwards. -/
def parseIntervalCompare (F : Fields) : Option Instr :=
  match F.min.toNat with
  | 0x00 => (Cond.dec (F.sc &&& 0x3F7#10)).map fun cc => .fcmp F.hd F.dstP F.srcA F.srcB cc (if F.sc.getLsbD 3 then .d else .s)
  | 0x01 => (FW.dec F.sc).map fun lw => .fsubset ⟨F.hd, F.holdV, F.dstP, F.srcA, F.srcB, lw⟩
  | 0x02 => (FW.dec F.sc).map fun lw => .finterior ⟨F.hd, F.holdV, F.dstP, F.srcA, F.srcB, lw⟩
  | 0x03 => (FW.dec F.sc).map fun lw => .fdisj ⟨F.hd, F.holdV, F.dstP, F.srcA, F.srcB, lw⟩
  | 0x04 => (FW.dec F.sc).map fun lw => .fcontains ⟨F.hd, F.holdV, F.dstP, F.srcA, F.srcB, lw⟩
  | 0x05 => (FW.dec F.sc).map (.fclass F.hd (F.dstG F.srcA.uniform) F.srcA)
  | _ => none

/-- The Conversion words by MIN (R157); fields that must be zero are checked afterwards. -/
def parseConversion (F : Fields) : Option Instr :=
  match F.min.toNat with
  | 0x00 => some (.fwiden F.hd (F.dstG F.srcA.uniform) F.srcA)
  | 0x01 => some (.fnarrow F.hd (F.dstG F.srcA.uniform) F.srcA)
  | 0x02 => (CvtMode.dec (F.sc &&& 0x3EF#10)).map fun m => .fcvti F.hd (F.dstG F.srcA.uniform) F.srcA m (if F.sc.getLsbD 4 then .d else .s)
  | 0x03 => (FW.dec (F.sc &&& 0x3FD#10)).map (.icvtf F.hd F.holdV (F.dstG F.srcA.uniform) F.srcA (F.sc.getLsbD 1))
  | 0x04 => (PtMode.dec F.sc).map (.fcvtbf F.hd (F.dstG (F.srcA.uniform && F.srcB.uniform)) F.srcA F.srcB)
  | 0x05 => (decK F.sc).map (.fpack F.hd F.holdV F.dst F.srcA)
  | 0x06 => (decK F.sc).map (.funpack F.hd F.holdV F.dst F.srcA F.srcB)
  | 0x07 => (FW.dec F.sc).map (.ftomrad F.hd (F.dstG F.srcA.uniform) F.srcA)
  | 0x08 => (FW.dec F.sc).map (.ffrommrad F.hd F.holdV (F.dstG F.srcA.uniform) F.srcA)
  | 0x09 => (bitOf F.sc).map (.ftrunc F.hd F.holdV (F.dstG F.srcA.uniform) F.srcA)
  | _ => none

/-- The Fork words by MIN (R166); fields that must be zero are checked afterwards. -/
def parseFork (F : Fields) : Option Instr :=
  match F.min.toNat with
  | 0x00 => some (.split F.hd F.dstP (lowN 3 F.sc))
  | 0x01 => some (.spawn F.hd F.dstP F.srcA (lowN 3 F.sc))
  | 0x02 => some (.take F.hd F.dstP (lowN 3 F.sc))
  | 0x03 => some (.tend F.hd)
  | 0x04 => (PoolSel.dec F.sc).map (.poolq F.hd (F.dstG true))
  | _ => none

/-- The LoadStore words by MIN (R209); fields that must be zero are checked afterwards. -/
def parseLoadStore (F : Fields) : Option Instr :=
  match F.min.toNat with
  | 0x00 => (LdW.dec F.mod4).map fun lw => .ld ⟨F.hd, F.la, F.holdV, F.dstG (F.srcA.uniform && F.srcB.uniform), F.srcA, F.srcB, lw, F.disp⟩
  | 0x01 => (StW.dec F.mod4).map fun lw => .st ⟨F.hd, F.holdV, F.srcA, F.srcB, lw, F.disp⟩
  | 0x02 => (LdW.dec F.mod4).map fun lw => .lds ⟨F.hd, F.la, F.holdV, F.dstG (F.srcA.uniform && F.srcB.uniform), F.srcA, F.srcB, lw, F.disp⟩
  | 0x03 => (StW.dec F.mod4).map fun lw => .sts ⟨F.hd, F.holdV, F.srcA, F.srcB, lw, F.disp⟩
  | 0x04 => (LdW.dec F.mod4).map fun lw => .ldk ⟨F.hd, F.la, F.holdV, F.dstG (F.srcA.uniform && F.srcB.uniform), F.srcA, F.srcB, lw, F.disp⟩
  | 0x05 => (FW.dec4 F.mod4).map fun lw => .ldmrad ⟨F.hd, F.la, F.holdV, F.dstG (F.srcA.uniform && F.srcB.uniform), F.srcA, F.srcB, lw, F.disp⟩
  | 0x06 => (FW.dec4 F.mod4).map fun lw => .stmrad ⟨F.hd, F.srcA, F.srcB, lw, F.disp⟩
  | 0x07 => (PtMode.dec2 (F.sc.extractLsb' 0 2)).map fun m => .stp ⟨F.hd, F.srcA, F.srcB, m, StpFmt.dec (F.sc.extractLsb' 2 2), F.disp⟩
  | 0x08 => if F.mod4 = 0 then some (.pref ⟨F.hd, F.holdV, F.srcA, F.srcB, false, F.disp⟩) else if F.mod4 = 1 then some (.pref ⟨F.hd, F.holdV, F.srcA, F.srcB, true, F.disp⟩) else none
  | _ => none

/-- The Atomic words by MIN (R218); fields that must be zero are checked afterwards. -/
def parseAtomic (F : Fields) : Option Instr :=
  match F.min.toNat with
  | 0x00 => (AtomOp.dec (F.sc &&& 0x3EF#10)).map fun p => .atom ⟨F.hd, F.la, F.holdV, F.dstG (F.srcA.uniform && F.srcB.uniform), F.srcA, F.srcB, p, F.sc.getLsbD 4⟩
  | 0x01 => (bitOf F.sc).map fun x => .atomcas ⟨F.hd, F.la, F.dstG (F.srcA.uniform && F.srcB.uniform), F.srcA, F.srcB, x⟩
  | 0x02 => (FAtomOp.dec (F.sc &&& 0x3EF#10)).map fun p => .fatom ⟨F.hd, F.la, F.dstG (F.srcA.uniform && F.srcB.uniform), F.srcA, F.srcB, p, if F.sc.getLsbD 4 then .d else .s⟩
  | 0x03 => (LaneOp.dec (F.sc &&& 0x3EF#10)).map fun p => .red ⟨F.hd, F.holdV, F.srcA, F.srcB, p, F.sc.getLsbD 4⟩
  | 0x04 => (FAtomOp.dec (F.sc &&& 0x3EF#10)).map fun p => .fred ⟨F.hd, F.srcA, F.srcB, p, if F.sc.getLsbD 4 then .d else .s⟩
  | _ => none

/-- The Engine words by MIN (R225); fields that must be zero are checked afterwards. -/
def parseEngine (F : Fields) : Option Instr :=
  match F.min.toNat with
  | 0x00 => some (.xcopy ⟨F.hd, F.srcA, F.srcB, lowN 6 F.sc⟩)
  | 0x01 => some (.xfill ⟨F.hd, F.srcA, F.srcB, lowN 6 F.sc⟩)
  | 0x02 => (bitOf F.sc).map (.xwait F.hd F.dstP F.srcA)
  | 0x03 => some (.xtest F.hd (F.dstG true) F.srcA)
  | 0x04 => some (.xclear F.hd F.srcA)
  | _ => none

/-- The Sync words by MIN (R231); fields that must be zero are checked afterwards. -/
def parseSync (F : Fields) : Option Instr :=
  match F.min.toNat with
  | 0x00 => some (.bar F.hd F.holdV F.srcA (lowN 4 F.sc))
  | 0x01 => some (.barc F.hd (lowN 2 F.sc))
  | 0x02 => some (.bara F.hd F.holdV (F.dstG true) F.srcA (lowN 4 F.sc))
  | 0x03 => some (.barw F.hd F.holdV F.srcA (lowN 4 F.sc))
  | 0x04 => (QKind.dec (F.sc &&& 0x3F0#10)).map fun k => .qmap F.hd k (lowN 4 F.sc) F.srcA F.srcB
  | 0x05 => (if F.sc &&& 0x3E0#10 = 0#10 then some (.qtry F.hd F.dstP (lowN 4 F.sc) (F.sc.getLsbD 4)) else none)
  | 0x06 => some (.waitv F.hd F.holdV F.dstP F.srcA F.srcBK)
  | _ => none

/-- The Matrix words by MIN (R241); fields that must be zero are checked afterwards. -/
def parseMatrix (F : Fields) : Option Instr :=
  match F.min.toNat with
  | 0x00 => (MDep.dec (F.sc.extractLsb' 4 2)).bind fun p => (MFmt.dec F.mod4).map fun f => .mma ⟨F.hd, F.la, F.dstZ, F.srcA, F.srcB, F.sc.extractLsb' 6 3, p, f⟩
  | 0x01 => (MDep.dec (F.sc.extractLsb' 4 2)).bind fun p => (MFmt.dec F.mod4).map fun f => .mmax ⟨F.hd, F.la, F.dstZ, F.srcA, F.srcB, F.sc.extractLsb' 6 3, p, f⟩
  | 0x02 => (FW.dec F.sc).map (.zclr F.hd F.dstZ)
  | 0x03 => (FW.dec F.sc).map (.zld F.hd F.la F.dstZ F.srcA)
  | 0x04 => (FW.dec F.sc).map (.zst F.hd F.dstZ F.srcA)
  | 0x05 => (FW.dec F.sc).map (.zget F.hd F.la F.dst (lowN 6 F.sa))
  | 0x06 => (FW.dec F.sc).map (.zput F.hd F.dstZ F.srcA)
  | 0x07 => (F.scldPart).map (.scld F.hd (F.dst.setWidth 3))
  | _ => none

/-- The Seal words by MIN (R260); fields that must be zero are checked afterwards. -/
def parseSeal (F : Fields) : Option Instr :=
  match F.min.toNat with
  | 0x00 => some (.seal ⟨F.hd, F.la, F.holdV, F.dstP, F.srcA, F.srcB, F.srcC⟩)
  | 0x01 => some (.peek ⟨F.hd, F.la, F.holdV, F.dstP, F.srcA, F.srcB, F.srcC⟩)
  | 0x02 => some (.reopen F.hd F.la F.holdV F.dstP F.srcA F.srcC)
  | 0x03 => some (.cinit F.hd F.holdV F.srcA F.srcC)
  | _ => none

/-- The Cove words by MIN (R276); fields that must be zero are checked afterwards. -/
def parseCove (F : Fields) : Option Instr :=
  match F.min.toNat with
  | 0x00 => some (.ktable F.hd (lowN 2 F.sc) F.srcA)
  | 0x01 => some (.kstore F.hd F.holdV (lowN 2 F.sc) F.srcA F.srcB)
  | 0x02 => some (.ksign F.hd F.la (F.dstG true) F.srcA (lowN 2 F.sc))
  | 0x03 => some (.kgather F.hd F.dstP F.srcA F.srcB (F.sc.extractLsb' 6 2) (lowN 6 F.sc))
  | 0x04 => some (.kclear F.hd F.holdV F.srcB (F.sc.extractLsb' 8 2) (F.sc.extractLsb' 6 2) (lowN 6 F.sc))
  | _ => none

/-- The Distributor words by MIN (R315); fields that must be zero are checked afterwards. -/
def parseDistributor (F : Fields) : Option Instr :=
  match F.min.toNat with
  | 0x00 => some (.dqnext F.hd F.holdV F.srcA (lowN 6 F.sc))
  | 0x01 => some (.dqdone F.hd F.holdV F.srcA)
  | 0x02 => some (.devent F.hd F.holdV F.srcA)
  | 0x03 => some (.dwait F.hd F.holdV F.dstP F.srcA F.srcBK)
  | _ => none

/-- The System words by MIN (R330); fields that must be zero are checked afterwards. -/
def parseSystem (F : Fields) : Option Instr :=
  match F.min.toNat with
  | 0x00 => some (.tret F.bnd)
  | 0x01 => (SysReg.dec F.sc).map (.mfsr F.hd (F.dstG true))
  | 0x02 => (SysReg.dec F.sc).map fun r => .mtsr F.hd r F.srcA
  | 0x03 => some (.tlbf F.hd F.srcA)
  | 0x04 => some (.tlbi F.hd F.holdV F.srcA F.srcBK)
  | 0x05 => some (.probe F.hd (F.dstG F.srcA.uniform) F.srcA)
  | 0x06 => some (.halt F.hd F.imm)
  | _ => none


/-- The instruction a full word's MAJ and MIN name (R100). -/
def parseWord (F : Fields) : Option Instr :=
  match F.maj.toNat with
  | 0x00 => parseControl F
  | 0x01 => parsePredicate F
  | 0x02 => parseInteger F
  | 0x03 => parseImmediate F
  | 0x04 => parseBit F
  | 0x05 => parseMove F
  | 0x06 => parseCompare F
  | 0x07 => parseLane F
  | 0x08 => parseIntervalArith F
  | 0x09 => parseIntervalSet F
  | 0x0A => parseIntervalCompare F
  | 0x0B => parseConversion F
  | 0x0C => parseFork F
  | 0x0D => parseLoadStore F
  | 0x0E => parseAtomic F
  | 0x0F => parseEngine F
  | 0x10 => parseSync F
  | 0x11 => parseMatrix F
  | 0x12 => parseSeal F
  | 0x13 => parseCove F
  | 0x14 => parseDistributor F
  | 0x15 => parseSystem F
  | _ => none

/-- How many MIN codes each class has (R100). -/
def minCount (maj : BitVec 6) : Nat :=
  [12, 13, 24, 8, 11, 10, 3, 5, 15, 11, 6, 10, 5, 9, 5, 5, 7, 8, 4, 5, 4, 7].getD maj.toNat 0

/-- The name of a refusal by the fields (R103). -/
def fieldError (F G : Fields) : DecodeError :=
  if F.la ≠ G.la then .badLookahead
  else if F.hold ≠ G.hold then .badHoldField
  else if F.gp ≠ G.gp ∨ F.gs ≠ G.gs then .badGuard
  else if F.k ≠ G.k then .badWindow
  else if F.dst ≠ G.dst then .badDestination
  else .unusedField

/-- The name of a refusal by WellFormed. -/
def wfError (i : Instr) : DecodeError :=
  match i.form with
  | some f => if !f.dst.ok then .badDestination else if !f.okHold then .badHold else .badOther
  | none => .badOther

/-- A full word (R76). -/
def decodeFields (F : Fields) : Except DecodeError Instr :=
  match parseWord F with
  | none =>
    if 0x16 ≤ F.maj.toNat then .error .unassignedMajor
    else if minCount F.maj ≤ F.min.toNat then .error .unassignedMinor
    else .error .unassignedModifier
  | some i =>
    if i.wf then
      match encodeFields i with
      | some G => if G = F then .ok i else .error (fieldError F G)
      | none => .error .unusedField
    else .error (wfError i)

/-! ## The pair word (R97 to R99) -/

/-- op7 codes (R98). -/
def PairOp.enc : PairOp → BitVec 7
  | .mov => 0 | .iadd => 1 | .isub => 2 | .and => 3 | .or => 4 | .xor => 5 | .shl => 6 | .shr => 7 | .sar => 8
  | .imin => 9 | .imax => 10 | .imul => 11 | .fadd => 12 | .fsub => 13 | .fmul => 14 | .fmin => 15 | .fmax => 16
  | .fhull => 17 | .fneg => 18 | .fabs => 19
def PairOp.dec (x : BitVec 7) : Option PairOp :=
  match x.toNat with
  | 0 => some .mov | 1 => some .iadd | 2 => some .isub | 3 => some .and | 4 => some .or | 5 => some .xor
  | 6 => some .shl | 7 => some .shr | 8 => some .sar | 9 => some .imin | 10 => some .imax | 11 => some .imul
  | 12 => some .fadd | 13 => some .fsub | 14 => some .fmul | 15 => some .fmin | 16 => some .fmax | 17 => some .fhull
  | 18 => some .fneg | 19 => some .fabs | _ => none

/-- SK and src of a half (R97). -/
def PairSrc.enc : PairSrc → BitVec 9
  | .v n => 0#1 ++ n
  | .s n => 1#1 ++ n.setWidth 8
def PairSrc.dec (x : BitVec 9) : Option PairSrc :=
  if x.getLsbD 8 then
    if x.extractLsb' 6 2 = 0#2 then some (.s (x.setWidth 6)) else none
  else some (.v (x.setWidth 8))

/-- The 31 bits of a half (R97). -/
def Half.enc (x : Half) : BitVec 31 :=
  x.op.enc ++ (x.d ++ (x.src.enc ++ (x.g.pred ++ (x.g.sense ++ 0#2))))

def Half.dec (x : BitVec 31) : Option Half :=
  match PairOp.dec (x.extractLsb' 24 7), PairSrc.dec (x.extractLsb' 7 9) with
  | some op, some src =>
    let h : Half := ⟨op, x.extractLsb' 16 8, src, Guard.dec (x.extractLsb' 4 3) (x.extractLsb' 2 2)⟩
    if h.enc = x then some h else none
  | _, _ => none

/-- A pair word (R97, R99). -/
def decodePair (w : DWord) : Except DecodeError Instr :=
  match Half.dec (w.extractLsb' 31 31), Half.dec (w.extractLsb' 0 31) with
  | some hi, some lo =>
    if (Instr.pairWord (w.getLsbD 63) hi lo).wf then .ok (.pairWord (w.getLsbD 63) hi lo) else .error .badPairWord
  | _, _ => .error .badPairHalf

/-- The decoder of one instruction word (R74). -/
def decode (w : DWord) : Except DecodeError Instr :=
  if w.getLsbD 62 then decodePair w else decodeFields (Fields.ofWord w)

/-- Little-endian joining of bytes (R48). -/
def leNat : List Byte → Nat
  | [] => 0
  | x :: xs => x.toNat + 256 * leNat xs

/-- Little-endian bytes of a number (R48). -/
def leBytes : Nat → Nat → List Byte
  | 0, _ => []
  | n + 1, x => BitVec.ofNat 8 x :: leBytes n (x / 256)

/-- Decoding from bytes: an instruction and the rest (R74). -/
def decodeBytes (l : List Byte) : Except DecodeError (Instr × List Byte) :=
  if l.length < 8 then .error .truncated
  else (decode (BitVec.ofNat 64 (leNat (l.take 8)))).map fun i => (i, l.drop 8)

/-! ## The encoder -/

/-- The word of a well-formed instruction; none for any other term. -/
def encode (i : Instr) : Option DWord :=
  if i.wf then
    match i with
    | .pairWord b hi lo => some (bit1 b ++ (1#1 ++ (hi.enc ++ lo.enc)))
    | j => (encodeFields j).map Fields.word
  else none

/-- The instruction whose bits are `w`, numbered as spec/opcode_table.json numbers them: one 64-bit word. -/
def decodeTableWord (nbits w : Nat) : Option Instr :=
  match decodeBytes (leBytes 8 (w % 2 ^ min nbits 64)) with
  | .ok (i, []) => some i
  | _ => none

end Sys2Proof
end

