-- ==== Sys2Proof/Config.lean ====
section
/-!
DEFINITION. What an implementation fixes and the specification leaves open. Every constant here is opaque and has no
body, so nothing can be proved about its value: the free values of the model (notes/assumptions).
-/
namespace Sys2Proof.Config

/-- S6 to S63 at kernel entry are undefined (R109): register, and the machine's count of free values. Log entry 2. -/
opaque entryS : Nat → Nat → Word

/-- How far outward FEXP2 puts a bound, by width, side and operand image; used modulo 3 (R51, R152). Log entry 3. -/
opaque exp2Slack : Bool → Bool → Nat → Nat

/-- How far outward FLOG2 puts a bound (R51, R152). Log entry 3. -/
opaque log2Slack : Bool → Bool → Nat → Nat

/-- Words of a gathered page at or beyond COUNT (R274). Log entry 4. -/
opaque gatherByte : Nat → Byte

/-- Whether a remote access that timed out had been performed (R361). Log entry 5. -/
opaque timedOutPerformed : Nat → Bool

/-- Module sensors (R351): power, junction and inlet temperatures. Log entry 6. -/
opaque sense : Nat → Word

/-- Whether a constant read of a word that was stored to after its line was cached returns the value after the store (R84):
by the machine's clock and the word's place. Log entry 8. -/
opaque constFresh : Nat → Nat → Bool

/-- Whether a warm reset fails to write a line back, by the count of free values and the line (R378). Log entry 120. -/
opaque writeBackFails : Nat → Nat → Bool

/-- How a LIMIT message names a limit: 0 MGMT.POWERCAP, 1 power, 2 junction, 3 inlet (R357, R374). Log entry 121. -/
opaque limitCode : Nat → Word

/-- Credits of a link for a class (R360). Log entry 117. -/
opaque linkCredits : Nat → Nat → Nat

/-- Values the specification leaves open with no other name: a fresh one for each count. Log entry 7. -/
opaque openWord : Nat → Word

end Sys2Proof.Config
end

