-- ==== Sys2Proof/Machine/Fp.lean ====
section
/-!
DEFINITION. Extended reals, the binary formats and their roundings (R47, R50, R51, R60, R73): values are exact rationals
until one rounding.
-/
namespace Sys2Proof.Machine

/-- A real or an infinity. -/
inductive Ext where
  | ninf
  | fin (q : Rat)
  | pinf
deriving DecidableEq, Repr

/-- A point: a NaN or an extended real; zeros have no sign (R49). -/
inductive Pt where
  | nan
  | num (x : Ext)
deriving DecidableEq, Repr

/-- A binary interchange format: fraction bits and exponent bits. -/
structure Fmt where
  frac : Nat
  ebits : Nat
deriving DecidableEq, Repr

def b32 : Fmt := ⟨23, 8⟩
def b64 : Fmt := ⟨52, 11⟩
def bf16 : Fmt := ⟨7, 8⟩

def Fmt.bias (f : Fmt) : Nat := 2 ^ (f.ebits - 1) - 1
def Fmt.emax (f : Fmt) : Nat := 2 ^ f.ebits - 1
def Fmt.bits (f : Fmt) : Nat := 1 + f.ebits + f.frac

/-- 2 to an integer power. -/
def pow2 (e : Int) : Rat := if 0 ≤ e then ((2 ^ e.toNat : Nat) : Rat) else mkRat 1 (2 ^ (-e).toNat)

def absQ (q : Rat) : Rat := if q < 0 then -q else q

/-- ⌊log₂ q⌋ of a positive rational. -/
def floorLog2 (q : Rat) : Int :=
  let e : Int := (q.num.natAbs.log2 : Int) - (q.den.log2 : Int)
  if pow2 (e + 1) ≤ q then e + 1 else if pow2 e ≤ q then e else e - 1

/-- The largest finite value (R51). -/
def Fmt.max (f : Fmt) : Rat := ((2 ^ (f.frac + 1) - 1 : Nat) : Rat) * pow2 ((f.bias : Int) - f.frac)

/-- The unit in the last place at a nonzero value, not below the subnormals' (R51). -/
def Fmt.ulpExp (f : Fmt) (q : Rat) : Int := Max.max (floorLog2 (absQ q)) (1 - (f.bias : Int)) - f.frac

/-- The rounding directions of R73. -/
inductive Rnd where
  | rd | ru | rn
deriving DecidableEq, Repr

/-- Nearest integer, ties to even. -/
def roundEven (q : Rat) : Int :=
  let n := q.floor
  let r := q - (n : Rat)
  if r < mkRat 1 2 then n else if mkRat 1 2 < r then n + 1 else if n % 2 = 0 then n else n + 1

def Rnd.int : Rnd → Rat → Int
  | .rd, q => q.floor
  | .ru, q => -((-q).floor)
  | .rn, q => roundEven q

/-- One rounding of an exact real to a format (R51, R73). -/
def Fmt.round (f : Fmt) (m : Rnd) (q : Rat) : Ext :=
  if q = 0 then .fin 0
  else
    let u := pow2 (f.ulpExp q)
    let r := (m.int (q / u) : Rat) * u
    if f.max < r then (if m = .rd then .fin f.max else .pinf)
    else if r < -f.max then (if m = .ru then .fin (-f.max) else .ninf)
    else .fin r

def Fmt.roundE (f : Fmt) (m : Rnd) : Ext → Ext
  | .fin q => f.round m q
  | x => x

/-- The canonical quiet NaN (R56). -/
def Fmt.qnan (f : Fmt) : Nat := f.emax * 2 ^ f.frac + 2 ^ (f.frac - 1)
def Fmt.infImage (f : Fmt) : Nat := f.emax * 2 ^ f.frac
def Fmt.signImage (f : Fmt) : Nat := 2 ^ (f.ebits + f.frac)

/-- The image of a value the format represents; zero as +0 (R50). -/
def Fmt.enc (f : Fmt) : Ext → Nat
  | .pinf => f.infImage
  | .ninf => f.signImage + f.infImage
  | .fin q =>
    if q = 0 then 0
    else
      let e := f.ulpExp q
      let m := (absQ q / pow2 e).floor.toNat
      let body := if m < 2 ^ f.frac then m else (e + f.frac + f.bias).toNat * 2 ^ f.frac + (m - 2 ^ f.frac)
      if q < 0 then f.signImage + body else body

def Fmt.encPt (f : Fmt) : Pt → Nat
  | .nan => f.qnan
  | .num x => f.enc x

/-- The value of an image; −0 is zero (R49). -/
def Fmt.dec (f : Fmt) (x : Nat) : Pt :=
  let s := x / f.signImage % 2
  let e := x / 2 ^ f.frac % 2 ^ f.ebits
  let m := x % 2 ^ f.frac
  if e = f.emax then
    if m = 0 then .num (if s = 1 then .ninf else .pinf) else .nan
  else
    let v : Rat := if e = 0 then (m : Rat) * pow2 (1 - (f.bias : Int) - f.frac)
                   else ((2 ^ f.frac + m : Nat) : Rat) * pow2 ((e : Int) - f.bias - f.frac)
    .num (.fin (if s = 1 then -v else v))

/-- Whether an image is a NaN. -/
def Fmt.isNan (f : Fmt) (x : Nat) : Bool :=
  decide (x / 2 ^ f.frac % 2 ^ f.ebits = f.emax) && decide (x % 2 ^ f.frac ≠ 0)

/-- Whether an image is a nonzero subnormal (R156). -/
def Fmt.isSub (f : Fmt) (x : Nat) : Bool :=
  decide (x / 2 ^ f.frac % 2 ^ f.ebits = 0) && decide (x % 2 ^ f.frac ≠ 0)

/-! ## Extended arithmetic -/

def Ext.le : Ext → Ext → Bool
  | .ninf, _ => true
  | _, .pinf => true
  | .fin a, .fin b => decide (a ≤ b)
  | _, _ => false

def Ext.lt (a b : Ext) : Bool := !(b.le a)
def Ext.min (a b : Ext) : Ext := if a.le b then a else b
def Ext.max (a b : Ext) : Ext := if a.le b then b else a

def Ext.neg : Ext → Ext
  | .ninf => .pinf
  | .fin q => .fin (-q)
  | .pinf => .ninf

def Ext.abs : Ext → Ext
  | .fin q => .fin (absQ q)
  | _ => .pinf

/-- A sum of two lower or of two upper bounds: no ∞ − ∞ arises (R150). -/
def Ext.add : Ext → Ext → Ext
  | .fin a, .fin b => .fin (a + b)
  | .ninf, _ => .ninf
  | _, .ninf => .ninf
  | _, _ => .pinf

def Ext.sgn : Ext → Int
  | .ninf => -1
  | .pinf => 1
  | .fin q => if q < 0 then -1 else if q = 0 then 0 else 1

/-- A product with 0 × ±∞ = 0 (R150). -/
def Ext.mul : Ext → Ext → Ext
  | .fin a, .fin b => .fin (a * b)
  | a, b =>
    let s := a.sgn * b.sgn
    if s = 0 then .fin 0 else if s < 0 then .ninf else .pinf

/-- A quotient by a nonzero bound; ±∞/±∞ is left out (R150). -/
def Ext.div : Ext → Ext → Option Ext
  | .fin a, .fin b => some (.fin (a / b))
  | .fin _, _ => some (.fin 0)
  | a, .fin b => some (if a.sgn * (if b < 0 then -1 else 1) < 0 then .ninf else .pinf)
  | _, _ => none

def Ext.zero : Ext := .fin 0
def Ext.isFin : Ext → Bool
  | .fin _ => true
  | _ => false

/-- The integer square root, by bits. -/
def isqrtGo (n : Nat) : Nat → Nat → Nat
  | 0, r => r
  | i + 1, r => isqrtGo n i (if (r + 2 ^ i) * (r + 2 ^ i) ≤ n then r + 2 ^ i else r)
def isqrt (n : Nat) : Nat := isqrtGo n (n.log2 / 2 + 1) 0

/-- The square root of a nonnegative rational rounded down or up (R150). -/
def Fmt.sqrt (f : Fmt) (up : Bool) (q : Rat) : Ext :=
  if q ≤ 0 then .fin 0
  else
    let e := floorLog2 q / 2
    let u := pow2 (Max.max e (1 - (f.bias : Int)) - f.frac)
    let x := q / (u * u)
    let k := isqrt x.floor.toNat
    let exact := decide ((k : Rat) * (k : Rat) = x)
    f.round (if up then .ru else .rd) (((if up && !exact then k + 1 else k : Nat) : Rat) * u)

/-! ## Enclosures of 2^x and log₂ x (R152) -/

/-- Fixed-point bits of the enclosures. -/
def elemBits : Nat := 256

/-- The product of 2^(2^-i) over the set bits of a fraction: lower and upper, scaled by 2^elemBits. -/
def exp2Go : Nat → Nat → Nat × Nat → Nat × Nat → Nat × Nat
  | 0, _, _, acc => acc
  | n + 1, bits, (rl, rh), (al, ah) =>
    let rl' := isqrt (rl * 2 ^ elemBits)
    let rh' := isqrt (rh * 2 ^ elemBits) + 1
    exp2Go n bits (rl', rh')
      (if bits.testBit n then (al * rl' / 2 ^ elemBits, ah * rh' / 2 ^ elemBits + 1) else (al, ah))

/-- A rational enclosure of 2^x. -/
def exp2Encl (x : Rat) : Rat × Rat :=
  let n := x.floor
  let f := x - (n : Rat)
  if f = 0 then (pow2 n, pow2 n)
  else if absQ x < pow2 (-60) then (if 0 < x then (1, 1 + x) else (1 + x, 1))
  else
    let k := f.den.log2
    let r := exp2Go k f.num.toNat (2 * 2 ^ elemBits, 2 * 2 ^ elemBits) (2 ^ elemBits, 2 ^ elemBits)
    (mkRat r.1 (2 ^ elemBits) * pow2 n, mkRat r.2 (2 ^ elemBits) * pow2 n)

/-- Bits of log₂ of a number in [1, 2) by repeated squaring: the bits found so far and how many are certain. -/
def log2Go : Nat → Nat → Nat → Nat → Nat → Nat × Nat
  | 0, _, _, acc, n => (acc, n)
  | k + 1, lo, hi, acc, n =>
    let sc := 2 ^ (3 * elemBits)
    let lo2 := lo * lo / sc
    let hi2 := hi * hi / sc + 1
    if 2 * sc ≤ lo2 then log2Go k (lo2 / 2) (hi2 / 2 + 1) (2 * acc + 1) (n + 1)
    else if hi2 < 2 * sc then log2Go k lo2 hi2 (2 * acc) (n + 1)
    else (acc, n)

/-- A rational enclosure of log₂ q for positive q. -/
def log2Encl (q : Rat) : Rat × Rat :=
  let e := floorLog2 q
  let m := q / pow2 e
  if m = 1 then ((e : Rat), (e : Rat))
  else
    let sc := 2 ^ (3 * elemBits)
    let l := (m * (sc : Rat)).floor.toNat
    let r := log2Go 200 l (l + 1) 0 0
    ((e : Rat) + mkRat r.1 (2 ^ r.2), (e : Rat) + mkRat (r.1 + 1) (2 ^ r.2))

/-- The next representable value below or above, k times. -/
def Fmt.stepOut (f : Fmt) (up : Bool) : Nat → Ext → Ext
  | 0, x => x
  | k + 1, x =>
    match x with
    | .fin q =>
      let d := if q = 0 then pow2 (1 - (f.bias : Int) - f.frac) else pow2 (f.ulpExp q - 1)
      let d := if q = 0 ∨ f.ulpExp q = 1 - (f.bias : Int) - f.frac then pow2 (1 - (f.bias : Int) - f.frac) else d
      f.stepOut up k (if up then f.round .ru (q + d) else f.round .rd (q - d))
    | y => y

/-- A bound from its enclosure: rounded outward, then moved outward by a free amount within 2 ulp (R51). -/
def Fmt.outward (f : Fmt) (up : Bool) (slack : Nat) (encl : Rat × Rat) : Ext :=
  if encl.1 = encl.2 then f.round (if up then .ru else .rd) encl.1
  else if up then
    f.stepOut true (slack % (if f.round .ru encl.1 = f.round .ru encl.2 then 3 else 2)) (f.round .ru encl.2)
  else
    f.stepOut false (slack % (if f.round .rd encl.1 = f.round .rd encl.2 then 3 else 2)) (f.round .rd encl.1)

end Sys2Proof.Machine
end

