-- ==== Sys2Proof/Machine/Ival.lean ====
section
/-!
DEFINITION. Intervals as sets (R49), the operations of R51 to R59 and R149 to R156 on them, the point conversions
(R55 to R57), BF16 and BFPk (R60 to R62), midpoint-radius forms (R63 to R66), and the summation order (R67 to R71).
-/
namespace Sys2Proof.Machine

/-- A set of reals an interval can denote (R49). -/
inductive Ival where
  | empty
  | mk (lo hi : Ext)
deriving DecidableEq, Repr

/-- The format of an interval width (R47). -/
def fmtOf : FW → Fmt
  | .s => b32
  | .d => b64

/-- The set a pair of points denotes (R49). -/
def Ival.ofPts : Pt → Pt → Ival
  | .num lo, .num hi => if lo.le hi && decide (lo ≠ .pinf) && decide (hi ≠ .ninf) then .mk lo hi else .empty
  | _, _ => .empty

def Ival.entire : Ival := .mk .ninf .pinf
def Ival.point (q : Rat) : Ival := .mk (.fin q) (.fin q)

/-- The lower and upper images (R50). -/
def Ival.images (f : Fmt) : Ival → Nat × Nat
  | .empty => (f.enc .pinf, f.enc .ninf)
  | .mk lo hi => (f.enc lo, f.enc hi)

def Ival.ofImages (f : Fmt) (lo hi : Nat) : Ival := .ofPts (f.dec lo) (f.dec hi)

/-- Rounding of exact bounds, outward (R51). -/
def Ival.round (f : Fmt) (lo hi : Ext) : Ival := .mk (f.roundE .rd lo) (f.roundE .ru hi)

/-- Lift to operands that are not Empty (R52). -/
def Ival.op1 (g : Ext → Ext → Ival) : Ival → Ival
  | .mk a b => g a b
  | .empty => .empty
def Ival.op2 (g : Ext → Ext → Ext → Ext → Ival) : Ival → Ival → Ival
  | .mk a b, .mk c d => g a b c d
  | _, _ => .empty

/-- FADD and FSUB (R150). -/
def Ival.add (f : Fmt) : Ival → Ival → Ival := Ival.op2 fun a b c d => .round f (a.add c) (b.add d)
def Ival.neg : Ival → Ival := Ival.op1 fun a b => .mk b.neg a.neg
def Ival.sub (f : Fmt) : Ival → Ival → Ival := Ival.op2 fun a b c d => .round f (a.add d.neg) (b.add c.neg)

/-- The least and greatest of the four products of bounds (R150). -/
def mulBounds (a b c d : Ext) : Ext × Ext :=
  let p := a.mul c
  let q := a.mul d
  let r := b.mul c
  let t := b.mul d
  (Ext.min (Ext.min p q) (Ext.min r t), Ext.max (Ext.max p q) (Ext.max r t))

def Ival.mul (f : Fmt) : Ival → Ival → Ival :=
  Ival.op2 fun a b c d => .round f (mulBounds a b c d).1 (mulBounds a b c d).2

def Ival.fma (f : Fmt) (x y z : Ival) : Ival :=
  match x, y, z with
  | .mk a b, .mk c d, .mk l h => .round f ((mulBounds a b c d).1.add l) ((mulBounds a b c d).2.add h)
  | _, _, _ => .empty

/-- FMIG and FMAG of bounds (R154). -/
def migE (a b : Ext) : Ext := if a.le .zero && Ext.zero.le b then .zero else Ext.min a.abs b.abs
def magE (a b : Ext) : Ext := Ext.max a.abs b.abs

def Ival.sqr (f : Fmt) : Ival → Ival :=
  Ival.op1 fun a b => .round f ((migE a b).mul (migE a b)) ((magE a b).mul (magE a b))

def Ival.abs : Ival → Ival := Ival.op1 fun a b => .mk (migE a b) (magE a b)

/-- The part of an interval in [0, +∞]. -/
def Ival.nonneg : Ival → Ival :=
  Ival.op1 fun a b => if b.lt .zero then .empty else .mk (Ext.max a .zero) b

def sqrtE (f : Fmt) (up : Bool) : Ext → Ext
  | .fin q => f.sqrt up q
  | x => x

def Ival.sqrt (f : Fmt) (x : Ival) : Ival :=
  Ival.op1 (fun a b => .mk (sqrtE f false a) (sqrtE f true b)) x.nonneg

def Ival.min : Ival → Ival → Ival := Ival.op2 fun a b c d => .mk (Ext.min a c) (Ext.min b d)
def Ival.max : Ival → Ival → Ival := Ival.op2 fun a b c d => .mk (Ext.max a c) (Ext.max b d)

/-- A quotient by a nonzero bound, rounded (R150); a quotient with an infinite divisor is 0. -/
def quot (f : Fmt) (m : Rnd) (a b : Ext) : Ext := ((a.div b).map (f.roundE m)).getD .zero

/-- The pieces of the quotient set, lower first (R53, R150). -/
def Ival.quotients (f : Fmt) : Ival → Ival → List Ival
  | .mk a b, .mk c e =>
    if c = .zero ∧ e = .zero then []
    else if a = .zero ∧ b = .zero then [.point 0]
    else if Ext.zero.lt c || e.lt .zero then
      let l := [a.div c, a.div e, b.div c, b.div e].filterMap id
      match l with
      | [] => [.empty]
      | x :: r => [.round f (r.foldl Ext.min x) (r.foldl Ext.max x)]
    else
      let up := Ival.mk
      let n := b.lt .zero
      let p := Ext.zero.lt a
      if n then
        if c = .zero then [up .ninf (quot f .ru b e)]
        else if e = .zero then [up (quot f .rd b c) .pinf]
        else [up .ninf (quot f .ru b e), up (quot f .rd b c) .pinf]
      else if p then
        if c = .zero then [up (quot f .rd a e) .pinf]
        else if e = .zero then [up .ninf (quot f .ru a c)]
        else [up .ninf (quot f .ru a c), up (quot f .rd a e) .pinf]
      else if a.lt .zero && Ext.zero.lt b then [.entire]
      else if c.lt .zero && Ext.zero.lt e then [.entire]
      else if b = .zero then (if c = .zero then [up .ninf .zero] else [up .zero .pinf])
      else (if c = .zero then [up .zero .pinf] else [up .ninf .zero])
  | _, _ => []

/-- FHULL (R154): an Empty operand is ignored. -/
def Ival.hull : Ival → Ival → Ival
  | .empty, y => y
  | x, .empty => x
  | .mk a b, .mk c d => .mk (Ext.min a c) (Ext.max b d)

def Ival.isect : Ival → Ival → Ival :=
  Ival.op2 fun a b c d => if (Ext.max a c).le (Ext.min b d) then .mk (Ext.max a c) (Ext.min b d) else .empty

/-- FDIV (R53). -/
def Ival.div (f : Fmt) (x y : Ival) : Ival := (x.quotients f y).foldl Ival.hull .empty

/-- FDIVX (R151): the pieces and the predicate code. -/
def Ival.divx (f : Fmt) (x y : Ival) : Ival × Ival × BitVec 2 :=
  match x.quotients f y with
  | [p] => (p, .empty, 0)
  | [p, q] => (p, q, 1)
  | _ => (.empty, .empty, 2)

/-- A power of a bound. -/
def powE (a : Ext) (n : Nat) : Ext :=
  match a with
  | .fin q => .fin (q ^ n)
  | .pinf => .pinf
  | .ninf => if n % 2 = 0 then .pinf else .ninf

/-- A reciprocal of a bound, an infinity at zero. -/
def recipE (z : Ext) : Ext → Ext
  | .fin q => if q = 0 then z else .fin (1 / q)
  | _ => .zero

/-- FPOWN (R153). -/
def Ival.pown (f : Fmt) (n : Int) : Ival → Ival :=
  Ival.op1 fun a b =>
    let m := n.natAbs
    if n = 0 then .point 1
    else if 0 < n then
      if m % 2 = 0 then .round f (powE (migE a b) m) (powE (magE a b) m) else .round f (powE a m) (powE b m)
    else if a = .zero ∧ b = .zero then .empty
    else if m % 2 = 0 then .round f (recipE .pinf (powE (magE a b) m)) (recipE .pinf (powE (migE a b) m))
    else if a.lt .zero && Ext.zero.lt b then .entire
    else if Ext.zero.le a then .round f (recipE .pinf (powE b m)) (recipE .pinf (powE a m))
    else .round f (recipE .ninf (powE b m)) (recipE .ninf (powE a m))

/-- One bound of FEXP2; a lower bound below the normal numbers is the nearest value below (R152); else the free part is
Config.exp2Slack (notes/assumptions/3, 103). -/
def exp2E (w : FW) (up : Bool) : Ext → Ext
  | .ninf => .zero
  | .pinf => .pinf
  | .fin q =>
    let f := fmtOf w
    let slack := Config.exp2Slack (decide (w = .d)) up (f.enc (.fin q))
    if ((f.bias + 1 : Nat) : Rat) ≤ q then (if up then .pinf else f.stepOut false (slack % 3) (.fin f.max))
    else if q < -((f.bias + f.frac : Nat) : Rat) then
      (if up then f.stepOut true (slack % 3) (f.round .ru (pow2 (1 - (f.bias : Int) - f.frac))) else .zero)
    else if !up && decide (q < 1 - ((f.bias : Nat) : Rat)) then Ext.max (f.round .rd (exp2Encl q).1) .zero
    else
      let r := f.outward up slack (exp2Encl q)
      if up then r else Ext.max r .zero

def Ival.exp2 (w : FW) : Ival → Ival := Ival.op1 fun a b => .mk (exp2E w false a) (exp2E w true b)

/-- One bound of FLOG2 (R152); the free part is Config.log2Slack. -/
def log2E (w : FW) (up : Bool) : Ext → Ext
  | .fin q =>
    if q ≤ 0 then .ninf
    else (fmtOf w).outward up (Config.log2Slack (decide (w = .d)) up ((fmtOf w).enc (.fin q))) (log2Encl q)
  | x => x

def Ival.log2 (w : FW) (x : Ival) : Ival :=
  Ival.op1 (fun a b => if b = .zero then .empty else .mk (log2E w false a) (log2E w true b)) x.nonneg

/-! ## Measures and points (R56, R57, R154) -/

/-- The midpoint (R56). -/
def Ival.mid (f : Fmt) : Ival → Pt
  | .empty => .nan
  | .mk (.fin a) (.fin b) => .num (f.round .rn ((a + b) / 2))
  | .mk .ninf .pinf => .num .zero
  | .mk .ninf _ => .num (.fin (-f.max))
  | .mk _ _ => .num (.fin f.max)

/-- The exact value of a width, infinite if unbounded. -/
def subE (a b : Ext) : Ext :=
  match a, b with
  | .fin x, .fin y => .fin (x - y)
  | _, _ => .pinf

def Ival.rad (f : Fmt) (x : Ival) : Pt :=
  match x, x.mid f with
  | .mk (.fin a) (.fin b), .num (.fin m) => .num (f.round .ru (if m - a ≤ b - m then b - m else m - a))
  | .empty, _ => .nan
  | _, _ => .num .pinf

def Ival.wid (f : Fmt) : Ival → Pt
  | .mk a b => .num (f.roundE .ru (subE b a))
  | .empty => .nan

def Ival.mag : Ival → Pt
  | .mk a b => .num (magE a b)
  | .empty => .nan
def Ival.mig : Ival → Pt
  | .mk a b => .num (migE a b)
  | .empty => .nan
def Ival.inf : Ival → Pt
  | .mk a _ => .num a
  | .empty => .num .pinf
def Ival.sup : Ival → Pt
  | .mk _ b => .num b
  | .empty => .num .ninf

/-- The interval of a point in a receiving format (R55). -/
def Ival.ofPt (f : Fmt) : Pt → Ival
  | .num (.fin q) => .mk (.fin q) (.fin q)
  | .num .pinf => .mk (.fin f.max) .pinf
  | .num .ninf => .mk .ninf (.fin (-f.max))
  | .nan => .entire

/-- Rounding of a point to a target format (R57, R73, R216). -/
def Pt.round (f : Fmt) (m : Rnd) : Pt → Pt
  | .num x => .num (f.roundE m x)
  | .nan => .nan

/-- A point taken from an interval of width w and narrowed to `t` (R57, R159, R216). -/
def Ival.take (w : FW) (t : Fmt) (m : PtMode) : Ival → Pt
  | .empty => .nan
  | .mk a b =>
    match m with
    | .lo => .num (t.roundE .rd a)
    | .hi => .num (t.roundE .ru b)
    | .mid => ((Ival.mk a b).mid (fmtOf w)).round t .rn

/-- Conversion between widths (R54, R252). -/
def Ival.conv (f : Fmt) : Ival → Ival := Ival.op1 fun a b => .round f a b

/-! ## Relations (R58, R59, R155) -/

/-- FCMP: T, F or U as 1, 0, 2 (R58). -/
def Ival.cmp (c : Cond) : Ival → Ival → BitVec 2
  | .mk a b, .mk x y =>
    let tri (t f : Bool) : BitVec 2 := if t then 1 else if f then 0 else 2
    let eq := decide (a = b) && decide (b = x) && decide (x = y)
    let ne := b.lt x || y.lt a
    match c with
    | .lt => tri (b.lt x) (y.le a)
    | .le => tri (b.le x) (y.lt a)
    | .gt => tri (y.lt a) (b.le x)
    | .ge => tri (y.le a) (b.lt x)
    | .eq => tri eq ne
    | .ne => tri ne eq
  | _, _ => 2

def Ival.subset : Ival → Ival → Bool
  | .empty, _ => true
  | _, .empty => false
  | .mk a b, .mk x y => x.le a && b.le y

def Ival.interior : Ival → Ival → Bool
  | .empty, _ => true
  | _, .empty => false
  | .mk a b, .mk x y =>
    (x.lt a || (decide (x = .ninf) && decide (a = .ninf))) && (b.lt y || (decide (b = .pinf) && decide (y = .pinf)))

def Ival.disj (x y : Ival) : Bool := decide (x.isect y = .empty)

def Ival.contains : Ival → Pt → Bool
  | .mk a b, .num (.fin q) => a.le (.fin q) && (Ext.fin q).le b
  | _, _ => false

/-- FCLASS of raw images (R156). -/
def classCode (f : Fmt) (lo hi : Nat) : Nat :=
  match Ival.ofImages f lo hi with
  | .empty => if lo = f.enc .pinf ∧ hi = f.enc .ninf then 0 else 1
  | .mk a b =>
    (match a, b with
      | .ninf, .pinf => 2
      | _, .pinf => 3
      | .ninf, _ => 4
      | _, _ => if a = b then 5 else 6)
    + (if a.le .zero && Ext.zero.le b then 8 else 0) + (if f.isSub lo || f.isSub hi then 16 else 0)

/-! ## Integers (R157, R158) -/

/-- FCVTI's integer, saturated to 32 bits (R158). -/
def cvtInt (w : FW) (m : CvtMode) : Ival → Word
  | .empty => 0x80000000
  | .mk a b =>
    let sat (x : Ext) (g : Rat → Int) : Word :=
      match x with
      | .ninf => 0x80000000
      | .pinf => 0x7FFFFFFF
      | .fin q =>
        let i := g q
        if i < -(2 ^ 31) then 0x80000000 else if 2 ^ 31 - 1 < i then 0x7FFFFFFF else BitVec.ofInt 32 i
    match m with
    | .floor => sat a Rat.floor
    | .ceil => sat b (fun q => -((-q).floor))
    | .rn => match (Ival.mk a b).mid (fmtOf w) with
      | .num x => sat x roundEven
      | .nan => 0x80000000

/-! ## BFPk (R61, R62, R160, R161) -/

/-- A k-bit two's-complement field of a bit string. -/
def mant (k : Nat) (str : Nat) (i : Nat) : Int :=
  let m := str / 2 ^ (k * i) % 2 ^ k
  if 2 ^ (k - 1) ≤ m then (m : Int) - (2 ^ k : Nat) else (m : Int)

/-- The point of a block element (R61); an invalid block reads as a NaN, hence Entire (R55). -/
def bfpPt (k e : Nat) (m : Int) : Pt :=
  if e = 255 then .nan else .num (.fin ((m : Rat) * pow2 ((e : Int) - 127 - (k - 1 : Nat))))

/-- FPACK: the exponent and the mantissa string of the active lanes' points (R160). -/
def bfpPack (k : Nat) (pts : List (Option Pt)) : Nat × Nat :=
  let vals := pts.map fun p => match p with
    | some (.num (.fin q)) => some (some q)
    | some _ => some none
    | none => none
  if vals.any (fun v => decide (v = some none)) then (255, 0)
  else
    let qs := vals.map fun v => match v with | some (some q) => q | _ => 0
    let m := qs.foldl (fun a q => if a < absQ q then absQ q else a) 0
    let e : Int := if m = 0 then 0 else floorLog2 m + 128
    if 254 < e then (255, 0)
    else
      let e := if e < 0 then 0 else e
      let top : Int := 2 ^ (k - 1)
      let ms := qs.map fun q =>
        let x := roundEven (q * pow2 ((k : Int) - 1 - (e - 127)))
        if x < -top then -top else if top - 1 < x then top - 1 else x
      (e.toNat, ms.zipIdx.foldl (fun (a : Nat) (p : Int × Nat) => a + (p.1 % (2 ^ k : Int)).toNat * 2 ^ (k * p.2)) 0)

/-! ## Midpoint-radius forms (R63 to R66) -/

/-- Fraction bits, bias and all-ones exponent of the stored midpoint (R65). -/
def mradFrac : FW → Nat
  | .s => 15
  | .d => 44

def mradFmt (w : FW) : Fmt := ⟨mradFrac w, (fmtOf w).ebits⟩

/-- The interval an MRAD image decodes to (R65). -/
def mradDec (w : FW) (x : Nat) : Ival :=
  let f := mradFmt w
  let c := x % 256
  let m := x / 256
  let e := m / 2 ^ f.frac % 2 ^ f.ebits
  let s := m / f.signImage % 2
  if e = f.emax ∧ s = 1 ∧ c = 254 then .empty
  else if e = f.emax ∨ c = 255 then .entire
  else
    match f.dec m with
    | .num (.fin mid) =>
      let rad := if c = 0 then 0 else pow2 ((Max.max e 1 : Nat) - (f.bias : Int) - f.frac + c - 64)
      .round (fmtOf w) (.fin (mid - rad)) (.fin (mid + rad))
    | _ => .entire

/-- The canonical MRAD images of Entire and Empty (R65). -/
def mradEntire (w : FW) : Nat := (mradFmt w).infImage * 256 + 255
def mradEmpty (w : FW) : Nat := ((mradFmt w).signImage + (mradFmt w).infImage) * 256 + 254

/-- The smallest radius code that covers `need` (R66). -/
def radCode (e : Int) (need : Rat) : Option Nat :=
  let k := floorLog2 need
  let up := if pow2 k = need then k else k + 1
  let c := Max.max (up - e + 64) 1
  if c ≤ 254 then some c.toNat else none

/-- Compression to an MRAD image (R66). -/
def mradEnc (w : FW) : Ival → Nat
  | .empty => mradEmpty w
  | .mk (.fin lo) (.fin hi) =>
    let f := mradFmt w
    let m := (lo + hi) / 2
    let r := (hi - lo) / 2
    match f.round .rn m with
    | .fin mid =>
      let img := f.enc (.fin mid)
      let e := img / 2 ^ f.frac % 2 ^ f.ebits
      let need := r + absQ (mid - m)
      if need = 0 then img * 256
      else match radCode ((Max.max e 1 : Nat) - (f.bias : Int) - f.frac) need with
        | some c => img * 256 + c
        | none => mradEntire w
    | _ => mradEntire w
  | _ => mradEntire w

/-! ## Summation order (R67 to R71) -/

/-- One level of the tree over present and absent terms (R67, R68). -/
def treeLevel {α : Type} (add : α → α → α) : List (Option α) → List (Option α)
  | a :: b :: r =>
    (match a, b with
      | some x, some y => some (add x y)
      | some x, none => some x
      | none, y => y) :: treeLevel add r
  | l => l

/-- The sum of one block of at most 32 positions (R67). -/
def blockSum {α : Type} (add : α → α → α) (l : List (Option α)) : Option α :=
  let l5 := treeLevel add (treeLevel add (treeLevel add (treeLevel add (treeLevel add
    (l ++ List.replicate (32 - l.length) none)))))
  (l5.headD none)

/-- The blocks of 32 positions of a list of terms. -/
def blocks {α : Type} : Nat → List α → List (List α)
  | 0, _ => []
  | n + 1, l => if l.isEmpty then [] else l.take 32 :: blocks n (l.drop 32)

/-- Block sums added to an accumulator in ascending order (R70). -/
def sumBlocks {α : Type} (add : α → α → α) (acc : Option α) (l : List (Option α)) : Option α :=
  (blocks (l.length + 1) l).foldl (fun a b =>
    match a, blockSum add b with
    | some x, some y => some (add x y)
    | none, y => y
    | x, none => x) acc

end Sys2Proof.Machine
end

