-- ==== Sys2Proof/Machine/State.lean ====
section
/-!
DEFINITION. The state of the machine: one package of the Ianibor (R2), as plain data. Sparse tables are lists of key and
value with keys strictly rising and no entry equal to what an unlisted key holds (`Store`). The docstring of a field
names the rule that gives it; INVENTORY.md lists the fields with their reset values.
-/
namespace Sys2Proof.Machine

/-- A sparse table: keys strictly rising, no entry equal to the table's default. -/
abbrev Store (α : Type) := List (Nat × α)

/-! ## Groups (R13 to R38, R325, R329) -/

/-- A register named by a word, for lookahead and write hazards (R88 to R91, R249). -/
inductive Reg where
  | v (n : Nat)
  | s (n : Nat)
  | p (n : Nat)
  | z (n : Nat)
deriving DecidableEq, Repr

/-- Deferred register writes: V register cells keyed 32 × register + lane, S registers, predicate cells keyed
32 × predicate + lane, tile words keyed 256 × tile + word, and tile formats (R87, R88). -/
structure Writes where
  v : List (Nat × Word) := []
  s : List (Nat × Word) := []
  p : List (Nat × BitVec 2) := []
  z : List (Nat × Word) := []
  zfmt : List (Nat × Bool) := []
deriving DecidableEq, Repr

/-- A long-latency result that may still be pending (R88): the registers, the values to be written, the window
positions left, the registers overwritten inside the window (R89), the replies outstanding, whether it is written, and
whether position n + 1 has been filled (an MMA of R91 fills it without waiting). Its number is the model's own, for the
events that complete it. -/
structure Pend where
  id : Nat := 0                   -- operation number, the model's own
  regs : List Reg
  writes : Writes
  left : Nat
  wrote : List Reg := []
  outstanding : Nat := 0
  engine : Bool := false
  remote : Bool := false
  bank : Bool := false             -- issued in handler mode (R325)
  done : Bool := false
  past : Bool := false
  lines : List (Nat × Nat) := []   -- the lines its lanes' data come from, for lost data (R328): lane, line
deriving DecidableEq, Repr

/-- A latch entry: 32 lane values and the position that deposited it (R94, R95). -/
structure Latch where
  vals : List Word
  pos : Nat
deriving DecidableEq, Repr

/-- A fetched word, or the fault of its fetch (R75): cause, DETAIL, and the table entry's address. -/
inductive Fetched where
  | word (w : DWord)
  | bad (c : Cause) (detail : BitVec 4) (pte : DWord)
deriving DecidableEq, Repr

/-- The reason a group stalls, with what clears it (R36, R366). A wait for earlier accesses carries the code it is charged
under, the lower of its own and another cause's. -/
inductive Stall where
  | lookahead
  | drain                          -- a TRET waits for pending registers (R93)
  | writewait
  | queue (q : Nat) (pop : Bool)
  | constant
  | divSpill
  | divRefill
  | barrier (id : Nat)
  | clusterBarrier (id : Nat)
  | barrierRepeat (id : Nat) (phase : Word) (cluster : Bool)
  | barrierValue (id : Nat) (a : Word)
  | monitor
  | tagWait (mask : DWord) (all : Bool)
  | tagIssue (tag : Nat)
  | rangelock (need reads : List (Bool × Nat × Nat))
  | engine
  | translate
  | tlbi
  | memorder (code : Nat)
  | pool
  | poolRefill (site : Nat)
  | distrib
deriving DecidableEq, Repr

/-- A finished walk that found a fault, delivered to the group when it re-executes (R335), or that met a lost line, whose data
its accesses then lack (R328). -/
structure WalkFault where
  page : Nat
  cause : Cause
  detail : BitVec 4
  pte : DWord
  fetch : Bool := false            -- of a fetch (R75)
  lost : Option Nat := none        -- the line lost to an error (R328)
deriving DecidableEq, Repr

/-- A write from outside that lands between runs of the owning group (R37, R178, R249): the bits of a register word that a mask
selects, or bytes of the state record. -/
inductive Inbound where
  | v (reg lane : Nat) (mask value : Word)
  | record (off : Nat) (data : List Byte)
deriving DecidableEq, Repr

/-- One group (R13). -/
structure Group where
  team : Nat                      -- handle of its team (R299)
  idx : Nat                       -- group index in the team (R15)
  pc : DWord                      -- R13
  mask : Word                     -- M, R16
  live : Word                     -- live lanes, R19
  h : Word                        -- task bits, R164
  s : Store Word := []            -- S0 to S63
  v : Store Word := []            -- V registers, key 32 × register + lane
  p : Store (BitVec 2) := []      -- P0 to P7, key 32 × predicate + lane (R20)
  hs : Store Word := []           -- handler bank S56 to S63, key 56 to 63 (R325)
  hp : Store (BitVec 2) := []     -- handler bank P6, P7, key 32 × predicate + lane (R325)
  hmode : Bool := false           -- R325
  stack : List (BitVec 128) := [] -- on-chip divergence stack, oldest first (R25, R26)
  spilled : Nat := 0              -- spilled lines (R26)
  unpopped : Option (List (BitVec 128) × Nat) := none -- of a pop under way: the on-chip entries before its refills, and the
                                  -- lines refilled (R26)
  latches : Store Latch := []     -- L0 to L2 (R94)
  lptr : Nat := 0                 -- deposit pointer (R94)
  pos : Nat := 0                  -- position in the run (R88, R95)
  pends : List Pend := []         -- oldest first (R88)
  unread : List (Nat × Reg) := [] -- operations with registers they have yet to read (R249) or to write (R282)
  tide : Nat                      -- tidemark, R188
  nbmode : BitVec 2 := 0          -- SYS.NBMODE, R29
  lease : BitVec 16 := 256        -- SYS.LEASE, R190
  tvec : DWord                    -- SYS.TVEC, R329
  tpc : DWord := 0                -- SYS.TPC
  tmask : Word := 0               -- SYS.TMASK
  tcause : DWord := 0             -- SYS.TCAUSE, R321
  taddr : Store DWord := []       -- SYS.TADDR by lane
  tpte : Store DWord := []        -- SYS.TPTE by lane
  tsave : DWord := 0              -- SYS.TSAVE, R324
  mcinfo : DWord := 0             -- SYS.MCINFO, R328
  mcaddr : DWord := 0             -- SYS.MCADDR
  ended : Bool := false           -- R19
  stall : Option Stall := none    -- R36
  ibuf : Option (List Fetched) := none  -- words of the next run, once fetched (R38)
  walkFaults : List WalkFault := []     -- R335
  trapped : Option TrapInfo := none     -- a trap waiting for pending registers (R324)
  doom : Option (Nat × List Byte) := none -- a double trap or HALT whose abort waits for room in the log: its report
                                  -- (R310, R326, R332)
  mcs : List (TrapInfo × DWord × DWord) := []  -- Machine Checks waiting for arbitration points, with MCINFO and MCADDR (R328)
  inbound : List Inbound := []    -- R37
  barHere : Bool := false         -- has arrived at the barrier it waits at (R238)
  lastBar : Option (Nat × Bool) := none -- barrier last arrived at, and whether cluster (R367)
  redo : Bool := false            -- re-execute the word at PC on resumption (R238)
  waitMon : Bool := false         -- WAITV or DWAIT holds a monitor entry (R201)
  waitPred : Option (Nat × Word) := none -- a waiting WAITV's predicate and lanes, for the U of a pre-emption (R238)
  reds : Nat := 0                 -- reductions not yet accepted (R195)
  rems : Nat := 0                 -- remote accesses not yet acknowledged (R180)
  xfers : Nat := 0                -- ZST and SCLD transfers, CINIT and appends not yet performed (R252, R254, R278)
  poolTry : Bool := false         -- the spill or refill its pool instruction waited for has been made (R41, R165)
deriving DecidableEq, Repr

/-! ## Teams (R13, R31, R40, R224, R232, R239, R277, R299) -/

/-- A barrier (R232): phase, count and mask of arrivals, the count c of the phase's first arrival, the largest tidemark
recorded, and that of the phase completed last and of all completed ones (R233). -/
structure Barrier where
  ph : Word := 0
  count : Nat := 0
  need : Option Nat := none
  arrived : Nat := 0               -- bit 32 × rank + group
  tide : Nat := 0
  rel : Nat := 0
  relMax : Nat := 0
deriving DecidableEq, Repr

/-- A queue register (R31): kind 0 unbound, 1 scalar, 2 vector. `times` are the push times of the entries held. -/
structure Queue where
  kind : Nat := 0
  base : Nat := 0
  depth : Nat := 0
  rd : Nat := 0
  wr : Nat := 0
  times : List Nat := []
deriving DecidableEq, Repr

inductive TagState where
  | clear | pending | set
deriving DecidableEq, Repr

/-- A completion tag (R224), with the Dense Fallbacks pending for it (R282): the index of each group that made such a gather,
none after a restore. -/
structure Tag where
  st : TagState := .clear
  time : Nat := 0
  denses : List (Option Nat) := []
deriving DecidableEq, Repr

/-- A cove slot (R277): descriptor address, image, and the translated page frames of its ranges. -/
structure CoveSlot where
  loaded : Bool := false
  addr : DWord := 0
  image : List Byte := []
  pages : List (Nat × Nat) := []
  stale : Bool := false
deriving DecidableEq, Repr

/-- A task in transit (R40, R163): its entry's bytes, with the tide time of its push. -/
structure Task where
  bytes : List Byte
  time : Nat
deriving DecidableEq, Repr

/-- A pooled or spilled task (R40): the entry of the pool or spill segment that holds it, and the time of its push. A program's
store to the entry's bytes counts (R163). -/
structure PoolEnt where
  ent : Nat
  time : Nat
  site : Nat := 0                  -- SITE as it was put there, for an entry that cannot be read
deriving DecidableEq, Repr

/-- Where a team is in its residence (R299, R311, R313, R368). -/
inductive Life where
  | run
  | saving (hart : Option Nat) (reason : Nat)
  | aborting (hart : Option Nat) (reason : Nat)
  | ending
deriving DecidableEq, Repr

/-- A resident team (R299); its handle is its key. -/
structure Team where
  pid : Nat                        -- its packet
  index : Nat                      -- linear team index (R14)
  rank : Nat                       -- cluster rank (R14)
  lead : Nat                       -- handle of rank 0 (R301)
  core : Nat                       -- core number of R301
  sbase : Nat                      -- scheduler base (R15)
  slots : List Nat                 -- group slot in its core of each group (R37, R347)
  regAt : List Nat                 -- first physical register of each group (R302)
  granule : Nat                    -- first granule (R302)
  tileAt : List Nat                -- tile blocks (R302)
  life : Life := .run
  stopped : Option StopTrigger := none
  dumped : Bool := false           -- the stop's dump is written (R368)
  bars : Store Barrier := []       -- 16 (R232)
  cbars : Store Barrier := []      -- 4, held by rank 0 (R234)
  queues : Store Queue := []       -- 16 (R31)
  tags : Store Tag := []           -- 64 (R224)
  tiles : Store Word := []         -- key 256 × tile + word (R239)
  tileD : List Bool := []          -- format of each tile, true for FP64 (R239)
  scaleBytes : Store Byte := []    -- key 1024 × slot + byte, held as exclusive or with 0x7F (R240)
  scales : Store Word := []        -- SCALE, held as exclusive or with 1.0 (R240)
  coves : Store CoveSlot := []     -- 4 (R277)
  pool : List PoolEnt := []        -- oldest first (R40); bytes in the scratchpad
  spill : List PoolEnt := []       -- spilled tasks, oldest first (R41); bytes in the arena
  steals : Word := 0               -- sites with a request outstanding (R165, R344)
  resvPool : Nat := 0              -- pool slots reserved (R43)
  resvSpill : Nat := 0             -- spill entries reserved (R43)
  code : Word := 0                 -- last DEVENT code (R305)
  early : Bool := false            -- a DEVENT was made (R305)
  report : Option (Nat × List Byte) := none -- message type and payload of a double trap or HALT (R326, R332)
  tileIn : List (Nat × Nat × List Byte) := []  -- writes to tiles that wait for the end of a run: tile, offset (R178, R347)
  olds : List Nat := []            -- handles of earlier residences, for answers that name them (R314)
deriving DecidableEq, Repr

/-! ## Memory (R175 to R203) -/

/-- The commutative state of a line (R195): operation, width, and the partials by die and address. -/
inductive RedOp where
  | int (o : LaneOp) (x : Bool)
  | flt (o : FAtomOp) (w : FW)
deriving DecidableEq, Repr

structure Comm where
  op : RedOp
  parts : List (Nat × Nat × Nat)   -- die, address, value accumulated
  time : Nat := 0                  -- the largest tidemark among the reducers (R185)
deriving DecidableEq, Repr

/-- A line's home state (R189, R194, R195). -/
structure Line where
  wts : Nat
  rts : Nat
  owner : Option Nat := none       -- core holding the write lease
  evicting : Bool := false         -- the owner is writing the dirty line back (R194)
  comm : Option Comm := none
deriving DecidableEq, Repr

/-- A leased copy in an L1 (R189, R192). -/
structure Copy where
  wts : Nat
  rts : Nat
  gen : BitVec 8
  data : List Byte
deriving DecidableEq, Repr

/-- A copy of a sealed cell (R265): image, era and decision time. -/
structure SealCopy where
  image : List Byte
  era : BitVec 8
  home : Nat                       -- package
  time : Nat
deriving DecidableEq, Repr

/-- A shelf cache slice (R191, R192). -/
structure Slice where
  mts : Nat := 0
  base : Nat := 0
  gen : BitVec 8 := 0
deriving DecidableEq, Repr

/-- A translation held in a TLB (R336): first page covered, level of the leaf, and the leaf entry. -/
structure Tlb where
  va : Nat
  level : Nat
  leaf : DWord
deriving DecidableEq, Repr

/-- What a walk found (R335). -/
inductive WalkResult where
  | leaf (t : Tlb)
  | fault (c : Cause) (detail : BitVec 4) (pte : DWord)
deriving DecidableEq, Repr

/-- A walk in flight (R335): the die, the page, the groups whose instructions or fetches wait, what it found, and the cores
whose groups may not join it, since one of them has made a TLBF of its page (R336). -/
structure Walk where
  die : Nat
  page : Nat
  groups : List Nat
  found : WalkResult
  seen : List (Nat × Nat × DWord)  -- non-leaf entries read: level, index prefix, entry
  fetchers : List Nat := []
  barred : List Nat := []
deriving DecidableEq, Repr

/-- A reply on its way to a core (R208): the group and pending entry it completes, and the copy it grants. -/
structure Reply where
  group : Nat
  core : Nat
  line : Nat
  slice : Nat
  copy : Option Copy
  pend : Option Nat
  holds : Bool := false            -- of SCLD: the group's next access waits for it (R254)
deriving DecidableEq, Repr

/-- A reduction on its way to a partial (R195). -/
structure RedFlight where
  group : Nat
  die : Nat
  op : RedOp
  addr : Nat
  value : Nat
  tide : Nat := 0                  -- the reducer's tidemark
deriving DecidableEq, Repr

/-- One lane's part of an atomic, a reduction or a seal operation: its place and its operands. -/
structure LaneAct where
  lane : Nat
  loc : Nat
  b : Nat
  n : Nat := 0
deriving DecidableEq, Repr

/-- A remote access awaiting its acknowledgement (R180): the group and its core, the address of the word, the word with
its active lanes and their parts, the first remote place, and the pending entry it completes. -/
structure Remote where
  group : Nat
  core : Nat
  pc : DWord
  word : Instr
  act : Word
  acts : List LaneAct
  addr : Nat
  pend : Option Nat
  links : List Nat := []           -- the links that carry its requests, each with a credit (R360)
deriving DecidableEq, Repr

/-- An entry of the range-lock table (R197): lines, direction, and the operation. -/
structure Lock where
  op : Nat
  dst : Bool
  first : Nat
  last : Nat
deriving DecidableEq, Repr

/-- One line transfer of an engine (R199): source and destination places, or a fill pattern. -/
structure Transfer where
  src : Option Nat
  dst : Nat
  len : Nat
  fill : Word := 0
deriving DecidableEq, Repr

/-- What an engine does: XCOPY, XFILL, a gather over a slot as it stood at issue (predicate, active lanes, output place,
capacity, signatures of the valid tables), or a clear of the buckets from `next` to `last`. -/
inductive EngineKind where
  | copy
  | fill
  | gather (slot : CoveSlot) (p : Nat) (act : Word) (dest cap : Nat) (sigs : List Nat)
  | clear (slot : CoveSlot) (table next last : Nat) (full : Bool)
deriving DecidableEq, Repr

/-- An engine operation in flight (R199, R228, R281, R283). -/
structure EngineOp where
  id : Nat
  group : Nat
  team : Nat
  tag : Nat
  kind : EngineKind
  todo : List Transfer
  time : Nat
  pages : List Nat
  pc : DWord := 0                  -- the address of its word, for MCINFO (R328)
deriving DecidableEq, Repr

/-- A monitor entry (R201): die, line, group, and the value the group last read. -/
structure Monitor where
  die : Nat
  line : Nat
  group : Nat
  value : Nat := 0
deriving DecidableEq, Repr

/-- A notice to a group whose monitored line was written (R201). -/
structure Notice where
  group : Nat
  time : Nat
deriving DecidableEq, Repr

/-- An era bump in flight (R266): the new era, the cell, the group and pending entry that wait for it, whether the home
holds the cell until it has completed (CINIT: R264), the cores still to drop copies, and the acknowledgements to come. -/
structure EraBump where
  era : BitVec 8
  pa : Nat
  group : Option Nat
  pend : Option Nat
  holds : Bool
  cores : List Nat
  acks : Nat
deriving DecidableEq, Repr

/-- A cove append in flight (R278, R279): the slot as it stood at issue, the table, its bucket, the token, and the tide
time reached. -/
structure Append where
  group : Nat
  slot : CoveSlot
  table : Nat
  sig : Nat
  token : Nat
  time : Nat
  pc : DWord := 0                  -- the address of its word, for MCINFO (R328)
deriving DecidableEq, Repr

/-- A steal request (R42, R43, R165): thief, site, reservation, the teams asked, and the tasks shipped. -/
structure Steal where
  thief : Nat
  site : Nat
  pool : Nat
  spill : Nat
  asked : List Nat := []
  shipped : Option (List Task) := none
deriving DecidableEq, Repr

/-- A TLBI or PKG.TLBINV in progress (R337, R352): the group that waits, and the engine operations waited for. -/
structure TlbiOp where
  group : Option Nat
  ops : List Nat
deriving DecidableEq, Repr

/-- An operation in a core's matrix engine (R248 to R250). -/
structure MatOp where
  id : Nat
  group : Nat
  word : Instr
  pc : DWord
  active : Word
  locs : List Nat
  time : Nat
  frags : List (Nat × Word) := []
  started : Bool := false
  pend : Option Nat := none
  x : Word := 0                    -- the SCALE operand of SCLD
deriving DecidableEq, Repr

/-- An entry of a debug table (R365). -/
structure DebugEntry where
  queue : Nat
  pc : DWord
  reason : Nat
  count : Nat
deriving DecidableEq, Repr

/-- One core (R3, R182, R364). -/
structure Core where
  carve : Nat := 0                 -- code 0 to 4 (R182, R296)
  fenced : Bool := false
  selfTestFail : Bool := false
  age : List (List Nat) := [[], [], [], []]  -- groups of each scheduler, first in age order first (R38)
  tlb : List Tlb := []             -- R336
  l1 : Store Copy := []            -- R189
  heard : Store Slice := []        -- base and generation last heard from each slice (R192)
  sealed : Store SealCopy := []    -- R265
  consts : Store (List Byte) := [] -- constant cache lines (R83)
  asleep : Option (List (BitVec 8) × BitVec 8) := none  -- recorded generations and era (R193)
  engine : List MatOp := []        -- R250
  soft : Nat := 0                  -- corrected soft errors (R376)
  table : Store DebugEntry := []   -- R365
  tabWr : DWord := 0
  tabRd : DWord := 0
  trcWr : DWord := 0
  trcRd : DWord := 0
  lost : DWord := 0
  hist : Store DWord := []         -- key 16 × scheduler + bin (R364)
  stopCtl : DWord := 0             -- CORE.STOP: stopped handle and STOPPED (R364)
  sampleAt : Nat := 0              -- scheduler of the next sample (R367)
deriving DecidableEq, Repr

/-- One die: walks are in `State.walks`; its walk cache (R336). -/
structure Die where
  wcache : List (Nat × Nat × DWord) := []
deriving DecidableEq, Repr

/-! ## Distributor (R287 to R314) -/

/-- A packet that has been read (R296, R298). -/
structure Packet where
  queue : Nat
  addr : Nat                       -- system physical address of its slot
  entry : DWord
  grid : Nat × Nat × Nat
  groups : Nat
  clw : Nat
  clh : Nat
  carve : Nat
  regs : Nat
  acc : Nat
  tags : Nat
  scratch : Nat
  poolEnt : Nat
  poolFb : Nat
  poolN : Nat
  spillEnt : Nat
  pxen : Bool
  seq : Word
  items : Nat
  args : DWord
  ctxSave : DWord
  events : DWord
  arena : DWord
  psBase : DWord
  psSize : Nat
  kwin : List DWord
  deps : List (Bool × Nat × Word × DWord)  -- PERTEAM, COUNT, SEQ, EVBASE
deriving DecidableEq, Repr

/-- What the distributor keeps of a SAVED team beside its save area: whether its PREEMPT carried reason HOST (R304), its spill
segment's tasks (R41), what a barrier holds beyond the area's fields (R232, R233), its earlier handles (R314), its last DEVENT
(R305), Machine Checks that wait for groups at a barrier (R328), its tide time at the save (R306), and whose the tags' Dense
Fallbacks are (R282). -/
structure SavedTeam where
  host : Bool
  spill : List PoolEnt
  bars : List Barrier
  handles : List Nat
  early : Bool
  code : Word
  traps : List (Nat × List (TrapInfo × DWord × DWord))
  tide : Nat
  denses : List (List (Option Nat)) := []
deriving DecidableEq, Repr

/-- Where a team of a packet is, when it is not waiting to be placed (R299). `handle` while resident or saving. -/
inductive TeamAt where
  | resident (handle : Nat)
  | saved (x : SavedTeam)
  | ended (aborted : Bool)
deriving DecidableEq, Repr

structure PacketRec where
  pk : Packet
  teams : Store TeamAt := []       -- unlisted: READY or WAITDEP (R299)
  arrival : Nat := 0               -- DIST.CLOCK when it was first observed (R294)
  itemsNext : Nat := 0             -- next work item (R304)
  counted : Bool := false          -- counted in PACKETSDONE
  poolLive : Bool := false         -- the live count has been written (R298)
  tide : Nat := 0                  -- the launch tide time, taken when the packet was read (R188)
  gone : Nat := 0                  -- root tasks that aborts ended before the live count was written (R313)
deriving DecidableEq, Repr

/-- A mechanism block (R300). -/
structure Mech where
  arg : List DWord := [0, 0, 0, 0]
  busy : Bool := false
  op : Nat := 0
  result : Nat := 0
  value : Word := 0
  res0 : DWord := 0
  res1 : DWord := 0
  cmd : List DWord := []           -- operands of the command under way
  held : Bool := false             -- it waits to be performed (R303, R310, R313, R314)
  order : Nat := 0                 -- its place in order of arrival (R303)
  cores : List Nat := []           -- the cores it names (R303)
  who : Option (Nat × Nat) := none -- the packet and team it waits for to be SAVED (R313, R314)
  teams : List (Nat × Nat) := []   -- packet and index of the teams whose SAVED or TEAMEND entries it awaits (R301)
  retried : Bool := false          -- it has been retried after a compaction (R302)
deriving DecidableEq, Repr

/-- A compaction to come (R302): its core, and the command it serves with its hart, none for the fallback placer. -/
structure Compact where
  core : Nat
  hart : Option Nat
  pid : Nat
  team : Nat
deriving DecidableEq, Repr

/-- An entry of the event FIFO (R293), with the packet and team it concerns and the core it frees. -/
structure FifoEnt where
  e : DWord
  who : Option (Nat × Nat) := none
  core : Option Nat := none
deriving DecidableEq, Repr

/-- A distributor hart (R287, R290): its integer registers, pc, load reservation (place, bytes, and the line's write time for
device memory), and the exception that stopped it, with the address or word concerned. -/
structure Hart where
  run : Bool := false              -- started, and not stopped
  x : Store DWord := []            -- x1 to x31
  pc : DWord := 0
  resv : Option (Nat × Nat × Nat) := none
  cause : Option Nat := none
  tval : DWord := 0
deriving DecidableEq, Repr

structure Dist where
  run : Bool := false
  quiesce : Bool := true
  quiesced : Bool := true
  fallback : Bool := true
  ucode : DWord := 0
  qcbBase : DWord := 0
  nq : DWord := 0
  logBase : DWord := 0
  logCap : DWord := 0
  logWr : DWord := 0
  logRd : DWord := 0
  cntBase : DWord := 0
  hostReq : DWord := 0
  imageOk : Bool := false          -- an image has passed its check since the cold reset (R289)
  loaded : Bool := false           -- an image has been loaded that the harts have yet to start on (R290)
  sram : Store Byte := []          -- 512 KiB (R287)
  fifo : List FifoEnt := []        -- at most 256 entries, oldest first (R293)
  held : List FifoEnt := []        -- entries kept while the FIFO is full (R293)
  aside : List FifoEnt := []      -- HOSTREQ entries kept by the fallback placer (R291)
  mechs : Store Mech := []
  packets : Store PacketRec := []
  nextPid : Nat := 1
  offered : List Nat := []         -- cores to be offered first to the next team (R304)
  fences : List (Nat × Nat × Nat) := [] -- fences that wait for earlier commands: core, trigger, order (R303, R377)
  compacts : List Compact := []    -- compactions whose core drains (R302)
  owed : Nat := 0                  -- RELOAD records that wait for room in the log (R290, R310)
  since : Nat := 0                 -- cycle of the distributor's reset (R289)
  harts : Store Hart := []         -- 8 (R287)
  hartNext : Nat := 0              -- the hart that executes next, the model's own
  hartTurn : Bool := false         -- whose turn it is, a hart's or a scheduler's, the model's own
  watchdog : Bool := false         -- the harts are halted until a LOAD succeeds (R292)
deriving DecidableEq, Repr

/-! ## Host, links, management (R349 to R378) -/

/-- A migration table entry (R341). -/
structure Migration where
  src : DWord := 0
  dst : DWord := 0
  progress : Nat := 0
  st : Nat := 0
deriving DecidableEq, Repr

structure Arbiter where
  pointer : Nat := 0
  ages : Store Nat := []
  won : Option Nat := none         -- the port of the last winner
deriving DecidableEq, Repr

/-- BAR0 registers and the state behind them. -/
structure HostPort where
  tide : Nat := 0                  -- R203
  hartTide : Store Nat := []       -- R288
  trapVec : DWord := 0             -- R352
  ptRoot : DWord := 0
  physView : DWord := 0
  framePool : DWord := 0
  bar2Base : DWord := 0
  tlbInv : DWord := 0
  number : BitVec 12 := 0
  stepping : Byte := 0             -- R351
  ready : Bool := false
  lowWater : Bool := false
  replaceReq : Bool := false
  limiting : Bool := false
  tripped : Bool := false
  failedStarts : BitVec 2 := 0
  startReason : Byte := 0
  starts : Word := 0
  fwCtl : BitVec 4 := 0
  powerCap : BitVec 16 := 2000
  seThresh : BitVec 16 := 64
  staging : Store Byte := []
  hmqHdr : DWord := 0              -- R359
  watches : Store DWord := []
  armed : DWord := 0               -- DBG.ARM, R363
  tabBase : DWord := 0
  tabSize : DWord := 0
  trcBase : DWord := 0
  trcSize : DWord := 0
  dumpBase : DWord := 0
  vectors : Store Nat := []        -- how often each MSI-X vector has been raised (R355)
  holdoff : Bool := false          -- vector 0 was raised within the last microsecond
  vec0Due : Bool := false
  migration : Store Migration := []
  linksDown : Store Bool := []     -- R361
  replays : Store Nat := []        -- flits replayed by link (R360)
  routes : Store (BitVec 18) := [] -- R360
  credits : Store Nat := []        -- credits taken and not yet returned, key 4 × link + class (R360)
  arbs : Store Arbiter := []       -- R362
  egress : Option Nat := none      -- the link the last routed flit left by; none for this package (R360)
  readOut : List Byte := []        -- the data of the host's last read
  aborted : Bool := false          -- the last host access got Completer Abort (R350)
  hartOut : List Byte := []        -- the data of the hart's last load
  hartFault : Bool := false        -- the last hart access raised an access fault (R287)
deriving DecidableEq, Repr

/-- The whole machine. -/
structure State where
  agenda : List Instr := []        -- inputs and asynchronous events, in order
  runs : List Nat := []            -- groups whose runs are under way; the first issues next (R36, R37)
  cycle : Nat := 0                 -- core clocks since the cold reset
  since : Nat := 0                 -- cycle of the cores' last reset (R138, R378)
  free : Nat := 0                  -- counter of free values, the model's own field
  nextId : Nat := 1                -- operation numbers, the model's own field
  mem : List Host.Cell := []       -- bytes by place (R187)
  lines : Store Line := []         -- by place divided by 128, or by 2 KiB granule for a scratchpad (R187, R189)
  slices : Store Slice := []       -- 12
  groups : Store Group := []       -- key 48 × core + slot
  teams : Store Team := []         -- by handle
  cores : Store Core := []         -- by core number
  dies : Store Die := []
  walks : List Walk := []
  replies : List Reply := []
  reds : List RedFlight := []
  remotes : List Remote := []
  locks : List Lock := []
  ops : List EngineOp := []
  monitors : List Monitor := []
  notices : List Notice := []
  genNotices : List Nat := []      -- slices whose generation notices are on their way (R192)
  topTide : Nat := 0               -- the largest tidemark of a group that is gone (R188)
  poisoned : List Nat := []        -- lines whose write-back at a warm reset failed (R378)
  era : BitVec 8 := 0              -- this package's seal era (R266)
  bumps : List EraBump := []
  farSealed : Store SealCopy := [] -- copies at this package's shelves of remote cells (R265)
  decided : Store (Nat × Nat) := []  -- by cell: the image a proposal left, and its tide time (R202)
  appends : List Append := []
  steals : List Steal := []
  tlbis : List TlbiOp := []
  dist : Dist := {}
  host : HostPort := {}
deriving DecidableEq, Repr

/-- The machine right after a cold reset (R191, R203, R289, R381). -/
def State.reset : State := {}

/-- Why the machine stops. -/
inductive Fault where
  /-- Raised by exec on an instruction word while no group is in a run; safe: step never does so. -/
  | noGroup
  /-- Raised when a group in a run names a team, core or packet the state does not hold; safe: no such state is reached
  from a placement. -/
  | brokenState
deriving DecidableEq, Repr

/-- What the model does not give a meaning to. -/
inductive Refusal where
  /-- Raised by an arm of exec that has no meaning yet; safe. -/
  | notModelled (mnemonic : String)
deriving DecidableEq, Repr

end Sys2Proof.Machine
end

