-- ==== Sys2Proof/Machine/Alu.lean ====
section
/-!
DEFINITION. Integer functions of the classes 0x02 to 0x07 and of the atomics, on bit vectors: wrapping arithmetic (R115),
shifts and fields (R131, R132), the lane operations (R140), and the combining functions of R219 to R222.
-/
namespace Sys2Proof.Machine

/-- Signed and unsigned choice. -/
def sminBv {n : Nat} (a b : BitVec n) : BitVec n := if a.slt b then a else b
def smaxBv {n : Nat} (a b : BitVec n) : BitVec n := if a.slt b then b else a
def uminBv {n : Nat} (a b : BitVec n) : BitVec n := if a.ult b then a else b
def umaxBv {n : Nat} (a b : BitVec n) : BitVec n := if a.ult b then b else a

/-- The lane operations at any width (R140, R219). -/
def laneFn {n : Nat} (o : LaneOp) (a b : BitVec n) : BitVec n :=
  match o with
  | .add => a + b
  | .min => sminBv a b
  | .max => smaxBv a b
  | .minu => uminBv a b
  | .maxu => umaxBv a b
  | .and => a &&& b
  | .or => a ||| b
  | .xor => a ^^^ b

/-- The identity of a lane operation (R140). -/
def laneId (o : LaneOp) : Word :=
  match o with
  | .add => 0
  | .min => 0x7FFFFFFF
  | .max => 0x80000000
  | .minu => 0xFFFFFFFF
  | .maxu => 0
  | .and => 0xFFFFFFFF
  | .or => 0
  | .xor => 0

/-- ATOM's new value (R219). -/
def atomFn {n : Nat} (o : AtomOp) (old b : BitVec n) : BitVec n :=
  match o with
  | .int o => laneFn o old b
  | .xchg => b
  | .incw => if b.ule old then 0 else old + 1
  | .decw => if old = 0 ∨ b.ult old then b else old - 1

/-- FATOM's new interval (R221). -/
def fatomFn (o : FAtomOp) (w : FW) (old b : Ival) : Ival :=
  match o with
  | .add => old.add (fmtOf w) b
  | .min => old.min b
  | .max => old.max b
  | .hull => old.hull b
  | .isect => old.isect b

/-- Bytes of one bound of a width. -/
def fwBytes : FW → Nat
  | .s => 4
  | .d => 8

/-- An interval of an image whose low half is the lower bound (R48). -/
def ivOfNat (w : FW) (x : Nat) : Ival :=
  Ival.ofImages (fmtOf w) (x % 2 ^ (8 * fwBytes w)) (x / 2 ^ (8 * fwBytes w) % 2 ^ (8 * fwBytes w))
def ivToNat (w : FW) (i : Ival) : Nat := (i.images (fmtOf w)).1 + (i.images (fmtOf w)).2 * 2 ^ (8 * fwBytes w)

/-- Bytes of one element of a reduction (R218). -/
def RedOp.size : RedOp → Nat
  | .int _ x => if x then 8 else 4
  | .flt _ w => 2 * fwBytes w

/-- Combining two element images under a reduction (R222). -/
def redFn (op : RedOp) (old b : Nat) : Nat :=
  match op with
  | .int o false => (laneFn o (BitVec.ofNat 32 old) (BitVec.ofNat 32 b)).toNat
  | .int o true => (laneFn o (BitVec.ofNat 64 old) (BitVec.ofNat 64 b)).toNat
  | .flt o w => ivToNat w (fatomFn o w (ivOfNat w old) (ivOfNat w b))

/-- Conditions on two's-complement and unsigned values (R139). -/
def condS {n : Nat} (c : Cond) (a b : BitVec n) : Bool :=
  match c with
  | .eq => a == b
  | .ne => a != b
  | .lt => a.slt b
  | .le => a.sle b
  | .gt => b.slt a
  | .ge => b.sle a
def condU {n : Nat} (c : Cond) (a b : BitVec n) : Bool :=
  match c with
  | .eq => a == b
  | .ne => a != b
  | .lt => a.ult b
  | .le => a.ule b
  | .gt => b.ult a
  | .ge => b.ule a

/-- How many bits of a word are set. -/
def popcount (x : Word) : Nat := ((List.range 32).filter (fun i => x.getLsbD i)).length

end Sys2Proof.Machine
end

