-- ==== Sys2Proof/Machine/Store.lean ====
section
/-!
DEFINITION. Sparse tables: lookup, insertion in key order, removal, and writing with a default that is never listed, so
that equal tables are equal data.
-/
namespace Sys2Proof.Machine

/-- The entry at a key. -/
def sfind {α : Type} : Store α → Nat → Option α
  | [], _ => none
  | (k, x) :: r, n => if k = n then some x else sfind r n

/-- The value at a key, with the table's default for an unlisted one. -/
def sget {α : Type} (d : α) (st : Store α) (n : Nat) : α := (sfind st n).getD d

/-- Removal of a key. -/
def sdel {α : Type} (st : Store α) (n : Nat) : Store α := st.filter fun e => !(e.1 == n)

/-- Insertion before the first larger key. -/
def sinsAt {α : Type} (n : Nat) (x : α) : Store α → Store α
  | [] => [(n, x)]
  | (k, y) :: r => if n < k then (n, x) :: (k, y) :: r else (k, y) :: sinsAt n x r

/-- Setting a key. -/
def sins {α : Type} (st : Store α) (n : Nat) (x : α) : Store α := sinsAt n x (sdel st n)

/-- Writing a table with a default: writing the default removes the entry. -/
def sput {α : Type} [DecidableEq α] (d : α) (st : Store α) (n : Nat) (x : α) : Store α :=
  if x = d then sdel st n else sins st n x

/-- Several writes in order. -/
def sputs {α : Type} [DecidableEq α] (d : α) (st : Store α) (l : List (Nat × α)) : Store α :=
  l.foldl (fun t e => sput d t e.1 e.2) st

/-- Strictly rising keys. -/
def keysUp {α : Type} : Store α → Bool
  | [] => true
  | (k, _) :: r => r.all (fun e => decide (k < e.1)) && keysUp r

/-- The canonical form of a table with a default. -/
def Store.wf {α : Type} [DecidableEq α] (d : α) (st : Store α) : Bool :=
  keysUp st && st.all (fun e => decide (e.2 ≠ d))

/-- The canonical form of memory: addresses strictly rising, no entry equal to what an unlisted one reads as. -/
def Memory.wf (m : List Host.Cell) : Bool := Store.wf (0 : Byte) m

end Sys2Proof.Machine
end

