-- ==== Sys2Proof/Machine/Mem.lean ====
section
/-!
DEFINITION. Memory at its homes: places, the shelf hash (R380), migration forwarding (R342), leases (R189 to R192), the
commutative state and its merge (R195, R196), notices to monitors, host watches and the distributor (R201, R295, R359),
and the hardware producers of FIFO entries and host messages (R293, R357).

A place is a byte's key in `State.mem`: a 52-bit system physical address (R7), or 2^52 + 2^20 × core + offset for a byte of a
core's unified SRAM (R178, window 1).
-/
namespace Sys2Proof.Machine

def devTop : Nat := 2 ^ 52
/-- The place of a scratchpad byte of a core (R176, R178). -/
def scratchPlace (core off : Nat) : Nat := devTop + 2 ^ 20 * core + off

def State.byteAt (s : State) (loc : Nat) : Byte := sget 0 s.mem loc
def State.bytesAt (s : State) (loc n : Nat) : List Byte := (List.range n).map fun i => s.byteAt (loc + i)
def State.natAt (s : State) (loc n : Nat) : Nat := leNat (s.bytesAt loc n)
def State.dwordAt (s : State) (loc : Nat) : DWord := BitVec.ofNat 64 (s.natAt loc 8)
def State.wordAt (s : State) (loc : Nat) : Word := BitVec.ofNat 32 (s.natAt loc 4)

/-- Bytes written from a place on. -/
def pokes (loc : Nat) (bs : List Byte) : List (Nat × Byte) := bs.zipIdx.map fun e => (loc + e.2, e.1)
def State.poke (s : State) (loc : Nat) (bs : List Byte) : State := { s with mem := sputs 0 s.mem (pokes loc bs) }

/-- The system physical address of a local one. -/
def State.localPa (s : State) (pa : Nat) : Nat := s.host.number.toNat * 2 ^ 40 + pa % 2 ^ 40

/-- The package a device place lies in (R7). -/
def packageOf (loc : Nat) : Nat := loc / 2 ^ 40 % 2 ^ 12
def State.ownPackage (s : State) (loc : Nat) : Bool := decide (packageOf loc = s.host.number.toNat)
/-- Whether a place is another package's. -/
def State.isFar (s : State) (loc : Nat) : Bool := decide (loc < devTop) && !(s.ownPackage loc)

/-- The shelf that homes a line (R380). -/
def shelfOf (pa : Nat) : Nat :=
  let g := pa / 2 ^ 12 % 2 ^ 28
  (g ^^^ (g / 2 ^ 9) ^^^ (g / 2 ^ 18)) % 12

/-- Forwarding of moved lines (R342). -/
def State.fwd (s : State) (loc : Nat) : Nat :=
  if devTop ≤ loc then loc
  else
    match s.host.migration.find? (fun e =>
      decide (e.2.st ≠ 0) && decide (s.localPa e.2.src.toNat / 65536 = loc / 65536) &&
      decide (loc % 65536 / 128 < e.2.progress)) with
    | some e => s.localPa (e.2.dst.toNat / 65536 * 65536) + loc % 65536
    | none => loc

/-- The places that name a place's bytes: itself, and where a line was before it moved (R342). -/
def State.aliases (s : State) (loc : Nat) : List Nat :=
  loc :: (if devTop ≤ loc then [] else s.host.migration.filterMap fun e =>
    let old := s.localPa (e.2.src.toNat / 65536 * 65536) + loc % 65536
    if s.localPa (e.2.dst.toNat / 65536 * 65536) / 65536 = loc / 65536 ∧ s.fwd old = loc then some old else none)

/-- A number at a place that hardware names, wherever its lines are now (R342). -/
def State.natFwd (s : State) (loc n : Nat) : Nat := leNat ((List.range n).map fun i => s.byteAt (s.fwd (loc + i)))

/-- The key of a lease: a 128-byte line of device memory, or a 2 KiB granule of a scratchpad (R187). -/
def leaseKey (loc : Nat) : Nat := if loc < devTop then loc / 128 else 2 ^ 46 + (loc - devTop) / 2048

def State.slice (s : State) (k : Nat) : Slice := sget {} s.slices k
def State.modSlice (s : State) (k : Nat) (f : Slice → Slice) : State :=
  { s with slices := sput {} s.slices k (f (s.slice k)) }

/-- A line's home state; a line not resident enters with (mts, mts) (R191). -/
def State.lineAt (s : State) (key : Nat) : Line :=
  match sfind s.lines key with
  | some l => l
  | none =>
    let m := if key < 2 ^ 46 ∧ s.ownPackage (key * 128) then (s.slice (shelfOf (key * 128))).mts else 0
    { wts := m, rts := m }
def State.setLine (s : State) (key : Nat) (l : Line) : State := { s with lines := sins s.lines key l }

def State.coreAt (s : State) (c : Nat) : Core := sget {} s.cores c
def State.modCore (s : State) (c : Nat) (f : Core → Core) : State :=
  { s with cores := sput {} s.cores c (f (s.coreAt c)) }
def State.modDist (s : State) (f : Dist → Dist) : State := { s with dist := f s.dist }
def State.modHost (s : State) (f : HostPort → HostPort) : State := { s with host := f s.host }

/-- A step of a block that does not run, and whose registers do not respond, in low-water mode (R373). -/
def State.unlessLow (s t : State) : State := if s.host.lowWater then s else t

/-- A free value: the opaque constant applied to the machine's counter, which advances (Config.openWord). -/
def State.fresh (s : State) : Nat × State := (s.free, { s with free := s.free + 1 })

/-- A new operation number. -/
def State.newId (s : State) : Nat × State := (s.nextId, { s with nextId := s.nextId + 1 })

/-! ## Merging (R196) -/

/-- The partials of a line in ascending die order, applied to its value. -/
def insDie (e : Nat × Nat × Nat) : List (Nat × Nat × Nat) → List (Nat × Nat × Nat)
  | [] => [e]
  | x :: r => if e.1 < x.1 then e :: x :: r else x :: insDie e r

def State.applyParts (s : State) (op : RedOp) (parts : List (Nat × Nat × Nat)) : State :=
  (parts.foldr insDie []).foldl (fun s e =>
    s.poke e.2.1 (leBytes op.size (redFn op (s.natAt e.2.1 op.size) e.2.2))) s

/-- MSI-X vectors raised (R355). -/
def State.raiseVector (s : State) (v : Nat) : State :=
  s.modHost fun h => { h with vectors := sput 0 h.vectors v (sget 0 h.vectors v + 1) }

/-- An entry pushed to the distributor's FIFO, or held while it is full (R293). -/
def State.pushFifo (s : State) (e : DWord) (who : Option (Nat × Nat) := none) (core : Option Nat := none) : State :=
  s.modDist fun d => if d.fifo.length < 256 ∧ d.held.isEmpty then { d with fifo := d.fifo ++ [⟨e, who, core⟩] }
                     else { d with held := d.held ++ [⟨e, who, core⟩] }

/-- A FIFO entry of a type (R293). -/
def fifoEntry (ty payload : Nat) : DWord := BitVec.ofNat 64 (ty * 2 ^ 60 + payload % 2 ^ 60)

/-- The host message ring: header place, base place and capacity (R356). -/
def State.hmqAt (s : State) : Nat := s.localPa (s.host.hmqHdr.toNat / 128 * 128 % 2 ^ 52)
def State.hmqCap (s : State) : Nat := s.natFwd (s.hmqAt + 28) 4
def State.hmqBase (s : State) : Nat := s.localPa (s.natFwd (s.hmqAt + 16) 8)

/-- Notices to the groups that monitor a line (R201). -/
def State.noticeMonitors (s : State) (line time : Nat) : State :=
  { s with notices := s.notices ++
      (s.monitors.filter fun m => decide (m.line = line)).map fun m => Notice.mk m.group time }

/-- The line a host watch names (R359). -/
def State.watchLine (s : State) (w : DWord) : Nat := s.localPa (w.toNat / 128 * 128) / 128

def State.watchHit (s : State) (line n : Nat) : Bool :=
  let w := sget 0 s.host.watches n
  w.getLsbD 0 && (s.aliases (line * 128)).any fun a => decide (s.watchLine w = a / 128)

/-- Vectors 16 to 31 (R355, R359). -/
def State.noticeWatches (s : State) (line : Nat) : State :=
  ((List.range 16).filter fun n => s.watchHit line n).foldl (fun s n => s.raiseVector (16 + n)) s

/-- Whether some of n bytes from a place lie in the host message ring. -/
def State.inRing (s : State) (loc n : Nat) : Bool :=
  decide (s.host.hmqHdr ≠ 0) && (s.aliases loc).any fun a =>
    decide (s.hmqBase < a + n) && decide (a < s.hmqBase + 64 * s.hmqCap)

/-- Vector 0, at most once per microsecond (R355). -/
def State.noticeRing (s : State) (spans : List (Nat × Nat)) : State :=
  if spans.any fun e => s.inRing e.1 e.2 then
    if s.host.holdoff then s.modHost fun h => { h with vec0Due := true }
    else (s.raiseVector 0).modHost fun h => { h with holdoff := true }
  else s

/-- The queue whose WRIDX line a place lies in, if the distributor watches it (R295). -/
def State.watchedQueue (s : State) (loc : Nat) : Option Nat :=
  let qb := s.dist.qcbBase.toNat
  let q := (loc - qb) / 256
  let st := s.natFwd (qb + 256 * q) 4
  if decide (qb ≤ loc) && decide (q < s.dist.nq.toNat) && decide (s.dist.logCap ≠ 0) &&
      decide ((loc - qb) % 256 < 128) && (decide (st = 1) || decide (st = 2)) then some q else none

/-- PACKET entries (R293, R295). -/
def State.noticeQueues (s : State) (loc : Nat) : State :=
  ((s.aliases loc).filterMap s.watchedQueue).foldl (fun s q => s.pushFifo (fifoEntry 1 q)) s

/-- SEALED, or a reserved state, which reads as SEALED (R258). -/
def cellSealed (img : Nat) : Bool := decide (img / 2 ^ 46 % 4 ≠ 0)

/-- The decision of a cell after a write to its line: a SEALED image the write has made is decided at the write's time, and a
cell left OPEN at none (R202). -/
def State.noteCell (s : State) (key time : Nat) : State :=
  let img := s.natAt (16 * key) 16
  if !(cellSealed img) then { s with decided := sdel s.decided key }
  else if (sfind s.decided key).map Prod.fst = some img then s
  else { s with decided := sins s.decided key (img, time) }
def State.noteCells (s : State) (line time : Nat) : State :=
  if devTop ≤ 128 * line then s else (List.range 8).foldl (fun s i => s.noteCell (8 * line + i) time) s

/-- A line that a write covers holds no lost data any more (R378). -/
def State.heal (s : State) (spans : List (Nat × Nat)) (line : Nat) : State :=
  if s.poisoned.contains line &&
      ((List.range 128).all fun i => spans.any fun e => decide (e.1 ≤ 128 * line + i) && decide (128 * line + i < e.1 + e.2))
  then { s with poisoned := s.poisoned.filter fun k => k != line } else s

/-- What a write performed to bytes of one line sets off: places with lengths. -/
def State.wrote (s : State) (spans : List (Nat × Nat)) (time : Nat) : State :=
  match spans with
  | [] => s
  | e :: _ =>
    (((((s.heal spans (e.1 / 128)).noticeMonitors (e.1 / 128) time).noticeWatches (e.1 / 128)).noticeRing spans).noticeQueues e.1).noteCells
      (e.1 / 128) time

/-- Any access to a line in the commutative state first merges it, just before the access (R196): at the access's own time
or the one below, and no earlier than a reducer's tidemark (R185). -/
def State.merge (s : State) (key tide : Nat) : State :=
  let l := s.lineAt key
  match l.comm with
  | none => s
  | some c =>
    let t := max (l.rts + 1) (max tide c.time)
    let s := (s.applyParts c.op c.parts).setLine key { wts := t, rts := t, owner := none }
    s.wrote (c.parts.map fun e => (e.2.1, c.op.size)) t

/-! ## Seal eras at the home (R264, R266) -/

def State.group? (s : State) (g : Nat) : Option Group := sfind s.groups g
def State.setGroup (s : State) (g : Nat) (x : Group) : State := { s with groups := sins s.groups g x }
def State.modGroup (s : State) (g : Nat) (f : Group → Group) : State :=
  match s.group? g with
  | some x => s.setGroup g (f x)
  | none => s

/-- Dropping a core's copies of a package's cells whose era differs. -/
def Core.dropSealed (k : Core) (home : Nat) (era : BitVec 8) : Core :=
  { k with sealed := k.sealed.filter fun e => decide (e.2.home ≠ home) || decide (e.2.era = era) }

/-- The generations of the twelve slices. -/
def State.gens (s : State) : List (BitVec 8) := (List.range 12).map fun k => (s.slice k).gen

/-- The wake check (R193): copies whose generation or era has moved are dropped, and the values read are recorded. -/
def State.wakeCheck (s : State) (core : Nat) : State :=
  s.modCore core fun k =>
    match k.asleep with
    | none => k
    | some (gens, era) =>
      let now := s.gens
      let moved (line : Nat) : Bool :=
        decide (gens.getD (shelfOf (line * 128)) 0 ≠ now.getD (shelfOf (line * 128)) 0)
      let k := { k with
        l1 := k.l1.filter fun e => !(moved e.1)
        heard := (List.range 12).foldl (fun h i => sput {} h i (s.slice i)) k.heard
        asleep := some (now, s.era) }
      if era = s.era then k else k.dropSealed s.host.number.toNat s.era

/-- A core drops the copies a notice retires; a sleeping one makes its wake check (R193, R266). -/
def State.dropEra (s : State) (core : Nat) (era : BitVec 8) : State :=
  if (s.coreAt core).asleep.isSome then s.wakeCheck core
  else s.modCore core fun k => k.dropSealed s.host.number.toNat era

/-- A pending entry waits for one thing less. -/
def Group.reply (g : Group) (pend : Option Nat) : Group :=
  match pend with
  | none => g
  | some i => { g with pends := g.pends.map fun p => if p.id = i then { p with outstanding := p.outstanding - 1 } else p }

/-- A bump has completed: its REOPEN or CINIT goes on (R264, R266). -/
def State.bumpDone (s : State) (b : EraBump) : State :=
  match b.group with
  | none => s
  | some gid => s.modGroup gid fun g =>
      (if b.holds then { g with xfers := g.xfers - 1 } else g).reply b.pend

/-- Every acknowledgement of a bump returns: an operation that waits at the home for it goes on (R264). -/
def State.endBump (s : State) (b : EraBump) : State :=
  ((b.cores.foldl (fun (x : State) core => x.dropEra core b.era) s).bumpDone b)
def State.endBumps (s : State) (p : EraBump → Bool) : State :=
  (s.bumps.filter p).foldl State.endBump { s with bumps := s.bumps.filter fun b => !(p b) }

/-- What an access finds at the home of its line: the bumps that hold a cell there have completed, and reductions are merged
(R196, R264). -/
def State.settle (s : State) (key tide : Nat) : State :=
  (s.endBumps fun b => b.holds && decide (leaseKey (s.fwd b.pa) = key)).merge key tide

/-- A load at the home (R189): the lease grows and the tidemark follows; a write lease elsewhere is recalled (R194). -/
def State.readHome (s : State) (loc len tide : Nat) : State × Nat :=
  let key := leaseKey (s.fwd loc)
  let s := s.settle key tide
  let l := s.lineAt key
  (s.setLine key { l with rts := max l.rts (max (l.wts + len) (tide + len)), owner := none, evicting := false },
   max tide l.wts)

/-- A write or atomic's place in tide order (R189): the time and the new lease, with the owner it leaves. -/
def State.claim (s : State) (loc tide : Nat) (owner : Option Nat) : State × Nat :=
  let key := leaseKey (s.fwd loc)
  let s := s.settle key (tide - 1)
  let l := s.lineAt key
  let t := max tide (l.rts + 1)
  (s.setLine key { l with wts := t, rts := t, owner := owner, evicting := false }, t)

/-- A store at the home of one line. -/
def State.writeHome (s : State) (loc : Nat) (bs : List Byte) (tide : Nat) : State × Nat :=
  let (s, t) := s.claim loc tide none
  ((s.poke (s.fwd loc) bs).wrote [(s.fwd loc, bs.length)] t, t)

/-- Bytes from a place on, cut at line boundaries. -/
def cutLines : Nat → Nat → List Byte → List (Nat × List Byte)
  | 0, _, _ => []
  | _ + 1, _, [] => []
  | n + 1, loc, bs =>
    let k := 128 - loc % 128
    (loc, bs.take k) :: cutLines n (loc + k) (bs.drop k)

/-- A write of any length, line by line in ascending order, each line at one tide time (R353). -/
def State.writeSpan (s : State) (loc : Nat) (bs : List Byte) (tide : Nat) : State × Nat :=
  (cutLines (bs.length + 1) loc bs).foldl (fun a e => a.1.writeHome e.1 e.2 a.2) (s, tide)

/-- The lines a range touches: their first places. -/
def spanLines (loc n : Nat) : List Nat :=
  if n = 0 then [] else (List.range ((loc + n - 1) / 128 - loc / 128 + 1)).map fun i => (loc / 128 + i) * 128

/-- A read of any length at the homes with a lease of 0 (R203): the state, the tidemark and the bytes. -/
def State.readSpan (s : State) (loc n tide : Nat) : State × Nat × List Byte :=
  let r := (spanLines loc n).foldl (fun a l => a.1.readHome l 0 a.2) (s, tide)
  (r.1, r.2, (List.range n).map fun i => r.1.byteAt (r.1.fwd (loc + i)))

/-- A hardware write of a record, in tide order at its homes (R309, R357, R368). -/
def State.hwWrite (s : State) (pa : Nat) (bs : List Byte) : State := (s.writeSpan pa bs 0).1
/-- A hardware read, and an atomic addition of 1, at the homes: the state and the number that stood there. -/
def State.hwRead (s : State) (pa n : Nat) : State × Nat :=
  let r := s.readSpan pa n 0
  (r.1, leNat r.2.2)
/-- What a hardware read would find. -/
def State.hwSees (s : State) (pa n : Nat) : Nat := (s.hwRead pa n).2
def State.hwCount (s : State) (pa n : Nat) : State × Nat :=
  let c := s.claim pa 0 none
  let loc := c.1.fwd pa
  let x := c.1.natAt loc n
  ((c.1.poke loc (leBytes n (x + 1))).wrote [(loc, n)] c.2, x)

/-! ## Host messages (R357, R358) -/

/-- Post a host message: reserve an index, write the entry, then its INDEX; a full ring loses it. -/
def State.postMsg (s : State) (ty core team : Nat) (payload : List Byte) : State :=
  if s.host.hmqHdr = 0 ∨ s.hmqCap = 0 then s
  else
    let h := s.hmqAt
    let r := s.hwCount h 8
    let i := r.2
    let k := r.1.hwRead (h + 8) 8
    let s := k.1
    let at' := s.hmqBase + 64 * (i % s.hmqCap)
    if s.hmqCap ≤ i - k.2 then
      let s := s.hwWrite at' (leBytes 4 0)
      let s := s.hwWrite (at' + 4) (leBytes 4 i)
      (s.hwCount (h + 32) 8).1
    else
      let wh := core + 2 ^ 9 * s.host.number.toNat
      let s := s.hwWrite at' (leBytes 4 ty)
      let s := s.hwWrite (at' + 8) (leBytes 4 wh ++ leBytes 4 team ++ payload ++ List.replicate (48 - payload.length) 0)
      s.hwWrite (at' + 4) (leBytes 4 i)

end Sys2Proof.Machine
end

