-- ==== Sys2Proof/Machine/Regs.lean ====
section
/-!
DEFINITION. Groups, teams and their registers: reading and writing V, S and predicate registers with the handler bank
(R325), active lanes (R16, R82), neighbour reads (R29, R30), and the resources a packet gives a team (R183, R296).
-/
namespace Sys2Proof.Machine

/-- A tidemark raised (R188). -/
def State.raiseTide (s : State) (gid tide : Nat) : State := s.modGroup gid fun g => { g with tide := max g.tide tide }
/-- A list with its entry at an index replaced. -/
def setAt {α : Type} (l : List α) (i : Nat) (x : α) : List α := l.take i ++ [x] ++ l.drop (i + 1)
def State.team? (s : State) (h : Nat) : Option Team := sfind s.teams h
def State.setTeam (s : State) (h : Nat) (x : Team) : State := { s with teams := sins s.teams h x }
def State.modTeam (s : State) (h : Nat) (f : Team → Team) : State :=
  match s.team? h with
  | some x => s.setTeam h (f x)
  | none => s
def State.packet? (s : State) (pid : Nat) : Option Packet := (sfind s.dist.packets pid).map PacketRec.pk

/-- A group with its team and packet, while an instruction of it executes. -/
structure Ctx where
  gid : Nat
  g : Group
  t : Team
  pk : Packet
deriving DecidableEq, Repr

def State.ctx? (s : State) (gid : Nat) : Option Ctx :=
  match s.group? gid with
  | none => none
  | some g =>
    match s.team? g.team with
    | none => none
    | some t => (s.packet? t.pid).map fun pk => ⟨gid, g, t, pk⟩

/-- Numbers of a core (R301): its die, and its number in the die (R138). -/
def coreDie (c : Nat) : Nat := c / 128
def coreIn (c : Nat) : Nat := c % 128

/-! ## Packet resources (R163, R183, R296) -/

def roundUp (x k : Nat) : Nat := (x + k - 1) / k * k

def Packet.cluster (p : Packet) : Nat := p.clw * p.clh
def Packet.teams (p : Packet) : Nat := p.grid.1 * p.grid.2.1 * p.grid.2.2
/-- Offset of the pool in the scratchpad (R163). -/
def Packet.poolOff (p : Packet) : Nat := roundUp p.scratch 16
/-- Bytes of a pool entry (R163). -/
def Packet.entryBytes (p : Packet) : Nat := 4 * (p.poolN + 1)
/-- The scratchpad share (R296). -/
def Packet.share (p : Packet) : Nat :=
  if p.poolEnt = 0 then p.scratch else p.poolOff + p.poolEnt * p.entryBytes
def Packet.granules (p : Packet) : Nat := (p.share + 2047) / 2048

/-! ## Registers -/

def Group.getV (g : Group) (r l : Nat) : Word := sget 0 g.v (32 * r + l)
/-- S registers; in handler mode S56 to S63 name the bank (R325). -/
def Group.getS (g : Group) (n : Nat) : Word := if g.hmode && decide (56 ≤ n) then sget 0 g.hs n else sget 0 g.s n
def Group.setS (g : Group) (n : Nat) (x : Word) : Group :=
  if g.hmode && decide (56 ≤ n) then { g with hs := sput 0 g.hs n x } else { g with s := sput 0 g.s n x }
/-- Predicate codes; in handler mode P6 and P7 name the bank (R325). -/
def Group.getP (g : Group) (k l : Nat) : BitVec 2 :=
  if g.hmode && decide (6 ≤ k) then sget 0 g.hp (32 * k + l) else sget 0 g.p (32 * k + l)
def Group.setPs (g : Group) (l : List (Nat × BitVec 2)) : Group :=
  if g.hmode then
    { g with p := sputs 0 g.p (l.filter fun e => decide (e.1 < 192)),
             hp := sputs 0 g.hp (l.filter fun e => decide (192 ≤ e.1)) }
  else { g with p := sputs 0 g.p l }

/-- The register writes of an instruction (R17, R87). -/
def Group.apply (g : Group) (w : Writes) : Group :=
  (w.s.foldl (fun (x : Group) (e : Nat × Word) => x.setS e.1 e.2) { g with v := sputs 0 g.v w.v }).setPs w.p

/-- The three values of a predicate code (R20). -/
def triOf (c : BitVec 2) : Tri := if c = 0 then .f else if c = 1 then .t else .u
def triCode : Tri → BitVec 2
  | .f => 0
  | .t => 1
  | .u => 2

/-! ## Active lanes (R16) -/

def lanes : List Nat := List.range 32

/-- The mask of the lanes a test holds in. -/
def maskOf (f : Nat → Bool) : Word :=
  lanes.foldl (fun m l => if f l then m ||| (1#32 <<< l) else m) 0

def lanesOf (m : Word) : List Nat := lanes.filter fun l => m.getLsbD l

/-- Whether a lane passes a guard (R82). -/
def Group.passes (g : Group) (gd : Guard) (l : Nat) : Bool :=
  match gd with
  | .always => true
  | .on p v => decide (triOf (g.getP p.toNat l) = v)

/-- The active lanes: enabled in M, live, and passing the guard (R16). -/
def Group.active (g : Group) (gd : Guard) : Word :=
  match gd with
  | .always => g.mask &&& g.live
  | gd => g.mask &&& g.live &&& maskOf (g.passes gd)

/-! ## Operand values (R29, R30, R77, R116) -/

/-- The lane a neighbour read reaches; none reads zero (R29). -/
def neighbour (mode : BitVec 2) (left : Bool) (l : Nat) : Option Nat :=
  if left then
    if l = 0 then (if mode = 0 then none else if mode = 1 then some 31 else some 0) else some (l - 1)
  else
    if l = 31 then (if mode = 0 then none else if mode = 1 then some 0 else some 31) else some (l + 1)

/-- Word k of a source operand in a lane: the register itself, or the k-th of its pair or quad. -/
def Group.src (g : Group) (a : Src) (l k : Nat) : Word :=
  match a with
  | .v n => g.getV (n.toNat + k) l
  | .left n => match neighbour g.nbmode true l with
    | some j => g.getV (n.toNat + k) j
    | none => 0
  | .right n => match neighbour g.nbmode false l with
    | some j => g.getV (n.toNat + k) j
    | none => 0
  | .s n => g.getS (n.toNat + k)
  | .latch i => if k = 0 then (match sfind g.latches i.val with
    | some e => e.vals.getD l 0
    | none => 0) else 0
  | .zero => 0
  | .lane => if k = 0 then BitVec.ofNat 32 l else 0
  | .mask => if k = 0 then g.mask else 0
  | .reserved _ => 0

def Group.src32 (g : Group) (a : Src) (l : Nat) : Word := g.src a l 0
def Group.src64 (g : Group) (a : Src) (l : Nat) : DWord := DWord.ofWords (g.src a l 1) (g.src a l 0)

/-- Whether a latch entry may be read at the next position of the run (R95). -/
def Group.latchOk (g : Group) (i : Nat) : Bool :=
  match sfind g.latches i with
  | some e => decide (e.pos < g.pos + 1) && decide (g.pos + 1 ≤ e.pos + 2)
  | none => false

end Sys2Proof.Machine
end

