-- ==== Sys2Proof/Machine/Operands.lean ====
section
/-!
DEFINITION. Every operand form: what a form reads and writes, the checks of step 3 of R102 on it (kinds, allocation,
alignment, latch validity, window bounds: R47, R77, R78, R116), the registers it names for the hazards of R88 to R91, and
the register banks (R96).
-/
namespace Sys2Proof.Machine

/-- Which source kinds an operand admits, over how many registers and with what alignment. -/
structure Shape where
  cnt : Nat := 1
  al : Nat := 1
  v : Bool := true
  nb : Bool := true
  s : Bool := true
  latch : Bool := false
  zero : Bool := true
  lane : Bool := false
  mask : Bool := false
deriving DecidableEq, Repr

/-- A source operand with its shape. -/
structure Rd where
  src : Src
  sh : Shape
deriving DecidableEq, Repr

/-- reg: a 32-bit source of any kind (R77). -/
def Rd.w32 (a : Src) : Rd := ⟨a, { latch := true, lane := true, mask := true }⟩
/-- A 64-bit operand (R116). -/
def Rd.w64 (a : Src) : Rd := ⟨a, { cnt := 2, al := 2, lane := true, mask := true }⟩
/-- a64: an address (13, column conventions). -/
def Rd.a64 (a : Src) : Rd := ⟨a, { cnt := 2, al := 2 }⟩
/-- A quad data source (R205). -/
def Rd.quad (a : Src) : Rd := ⟨a, { cnt := 4, al := 4, lane := true, mask := true }⟩
/-- int: an interval of a width (R47). -/
def Rd.iv (w : FW) (a : Src) : Rd := match w with
  | .s => ⟨a, { cnt := 2, al := 2 }⟩
  | .d => ⟨a, { cnt := 4, al := 4 }⟩
/-- pt: a point of a width (09, column conventions). -/
def Rd.pt (w : FW) (a : Src) : Rd := match w with
  | .s => .w32 a
  | .d => .w64 a
/-- u-reg: an S register, zero or M (08, column conventions). -/
def Rd.u32 (a : Src) : Rd := ⟨a, { v := false, nb := false, mask := true }⟩
/-- A uniform 64-bit source: an aligned S pair or zero (R225, R231, R241). -/
def Rd.u64 (a : Src) : Rd := ⟨a, { cnt := 2, al := 2, v := false, nb := false }⟩
/-- An aligned V group of kind 0b00 (R241, R272). -/
def Rd.vgroup (a : Src) (cnt al : Nat) : Rd := ⟨a, { cnt := cnt, al := al, nb := false, s := false, zero := false }⟩
/-- An S register group (R86, R120, R225). -/
def Rd.sgroup (a : Src) (cnt al : Nat) : Rd := ⟨a, { cnt := cnt, al := al, v := false, nb := false, zero := false }⟩

/-- Step 3 of R102 on a source. -/
def Rd.ok (regs : Nat) (g : Group) (r : Rd) : Bool :=
  let grp (n top : Nat) := decide (n % r.sh.al = 0) && decide (n + r.sh.cnt ≤ top)
  match r.src with
  | .v n => r.sh.v && grp n.toNat regs
  | .left n => r.sh.nb && grp n.toNat regs
  | .right n => r.sh.nb && grp n.toNat regs
  | .s n => r.sh.s && grp n.toNat 64
  | .latch i => r.sh.latch && g.latchOk i.val
  | .zero => r.sh.zero
  | .lane => r.sh.lane
  | .mask => r.sh.mask
  | .reserved _ => false

def regRange (f : Nat → Reg) (n cnt : Nat) : List Reg := (List.range cnt).map fun k => f (n + k)

/-- The registers a source names (R89). -/
def Rd.regs (r : Rd) : List Reg :=
  match r.src with
  | .v n => regRange .v n.toNat r.sh.cnt
  | .left n => regRange .v n.toNat r.sh.cnt
  | .right n => regRange .v n.toNat r.sh.cnt
  | .s n => regRange .s n.toNat r.sh.cnt
  | _ => []

/-- The V register reads a source makes, by kind and register (R96). -/
def Rd.banks (r : Rd) : List (Nat × Nat) :=
  let grp (kind n : Nat) := (List.range r.sh.cnt).map fun k => (kind, n + k)
  match r.src with
  | .v n => grp 0 n.toNat
  | .left n => grp 1 n.toNat
  | .right n => grp 2 n.toNat
  | _ => []

/-- A destination: V or S registers, a predicate or a tile. -/
inductive Wr where
  | dst (d : Dst) (cnt al : Nat)
  | v (n cnt al : Nat)
  | s (n : Nat)
  | p (n : Nat)
  | z (n : Nat)
deriving DecidableEq, Repr

def Wr.g32 (d : Dst) : Wr := .dst d 1 1
def Wr.g64 (d : Dst) : Wr := .dst d 2 2
def Wr.iv (w : FW) (d : Dst) : Wr := match w with
  | .s => .dst d 2 2
  | .d => .dst d 4 4
/-- A point destination in class 0x09 (R147). -/
def Wr.pt (w : FW) (d : Dst) : Wr := match w with
  | .s => .dst d 1 1
  | .d => .dst d 2 2

/-- Step 3 of R102 on a destination; `tiles` is the team's allocation (R79). -/
def Wr.ok (regs tiles : Nat) : Wr → Bool
  | .dst (.v n) cnt al => decide (n.toNat % al = 0) && decide (n.toNat + cnt ≤ regs)
  | .dst (.s n) cnt al => decide (n.toNat % al = 0) && decide (n.toNat + cnt ≤ 64)
  | .v n cnt al => decide (n % al = 0) && decide (n + cnt ≤ regs)
  | .s _ => true
  | .p _ => true
  | .z n => decide (n < tiles)

def Wr.regs : Wr → List Reg
  | .dst (.v n) cnt _ => regRange .v n.toNat cnt
  | .dst (.s n) cnt _ => regRange .s n.toNat cnt
  | .v n cnt _ => regRange .v n cnt
  | .s n => [.s n]
  | .p n => [.p n]
  | .z n => [.z n]

/-- Cells of a V register group in the active lanes. -/
def vCells (act : Word) (n cnt : Nat) (f : Nat → Nat → Word) : List (Nat × Word) :=
  (lanesOf act).flatMap fun l => (List.range cnt).map fun k => (32 * (n + k) + l, f l k)

/-- A destination written in each active lane, or once, under R17, with the lowest active lane's value. -/
def dstWrites (act : Word) (d : Dst) (cnt : Nat) (f : Nat → Nat → Word) : Writes :=
  match d with
  | .v n => { v := vCells act n.toNat cnt f }
  | .s n =>
    match lanesOf act with
    | [] => {}
    | l :: _ => { s := (List.range cnt).map fun k => (n.toNat + k, f l k) }

/-- A predicate written in each active lane. -/
def pWrites (act : Word) (p : Nat) (f : Nat → BitVec 2) : Writes :=
  { p := (lanesOf act).map fun l => (32 * p + l, f l) }

def Writes.append (a b : Writes) : Writes :=
  { v := a.v ++ b.v, s := a.s ++ b.s, p := a.p ++ b.p, z := a.z ++ b.z, zfmt := a.zfmt ++ b.zfmt }

/-- Word k of a 64-bit value (R116). -/
def dwordPart (x : DWord) (k : Nat) : Word := if k = 0 then x.lo else x.hi

/-- Word k of an interval's register image (R47). -/
def ivWord (w : FW) (i : Ival) (k : Nat) : Word :=
  let im := i.images (fmtOf w)
  match w with
  | .s => BitVec.ofNat 32 (if k = 0 then im.1 else im.2)
  | .d => BitVec.ofNat 32 ((if k < 2 then im.1 else im.2) / 2 ^ (32 * (k % 2)))

/-- Word k of a point's register image. -/
def ptWord (w : FW) (p : Pt) (k : Nat) : Word := BitVec.ofNat 32 ((fmtOf w).encPt p / 2 ^ (32 * k))

/-- The interval of a width in the words of a register group (R47). -/
def ivOfWords (w : FW) (f : Nat → Word) : Ival :=
  match w with
  | .s => Ival.ofImages b32 (f 0).toNat (f 1).toNat
  | .d => Ival.ofImages b64 ((f 0).toNat + 2 ^ 32 * (f 1).toNat) ((f 2).toNat + 2 ^ 32 * (f 3).toNat)

/-- The point of a width in the words of a register group. -/
def ptOfWords (w : FW) (f : Nat → Word) : Pt :=
  match w with
  | .s => b32.dec (f 0).toNat
  | .d => b64.dec ((f 0).toNat + 2 ^ 32 * (f 1).toNat)

/-- Word k of a second source: a register operand or the words read from a window (R83). -/
def Group.srcB (g : Group) (b : SrcB) (win : List Word) (l k : Nat) : Word :=
  match b with
  | .reg a => g.src a l k
  | .win _ _ => win.getD k 0

/-- The reads of a second source. -/
def rdsB (b : SrcB) (f : Src → Rd) : List Rd :=
  match b with
  | .reg a => [f a]
  | .win _ _ => []

/-- The window of a second source: base number, offset, words (R83). -/
def windowB (b : SrcB) (cnt : Nat) : Option (Nat × Nat × Nat) :=
  match b with
  | .reg _ => none
  | .win k off => some (k.toNat, off.toNat, cnt)

/-- Extra issue cycles for reads of one bank (R96). -/
def bankExtra (l : List (Nat × Nat)) : Nat :=
  let d := l.eraseDups
  let m := [0, 1, 2, 3].foldl (fun m b => max m (d.filter fun e => decide (e.2 % 4 = b)).length) 0
  m - 1

end Sys2Proof.Machine
end

