-- ==== Sys2Proof/Machine/Translate.lean ====
section
/-!
DEFINITION. Page tables, walks, TLBs and walk caches (R333 to R336).
-/
namespace Sys2Proof.Machine

/-- Address bits below the index of a level (R333). -/
def levelBits (level : Nat) : Nat := [55, 42, 29, 16].getD level 16
/-- The table index of a level (R333). -/
def levelIndex (va level : Nat) : Nat :=
  if level = 0 then va / 2 ^ 55 % 512 else va / 2 ^ levelBits level % 8192

/-- The physical address of an entry: bits [51:16] (R334). -/
def entryAddr (e : DWord) : Nat := e.toNat / 2 ^ 16 % 2 ^ 36 * 2 ^ 16

/-- What makes a table entry malformed, or not valid, at a level (R334, R335): cause and DETAIL. -/
def entryFault (own : Nat) (level : Nat) (e : DWord) : Option (Cause × BitVec 4) :=
  let v := e.getLsbD 0
  let leaf := e.getLsbD 1
  let cell := e.getLsbD 6
  let remote := e.getLsbD 7
  let cnw := e.toNat / 4 % 8
  let addr := entryAddr e
  if !v then some (.pageFault, BitVec.ofNat 4 level)
  else if e.toNat / 2 ^ 52 ≠ 0 ∨ e.toNat / 2 ^ 9 % 2 ^ 7 ≠ 0 then some (.accessViolation, 4)
  else if (level = 0 ∧ leaf) ∨ (level = 3 ∧ !leaf) then some (.accessViolation, 4)
  else if !leaf && decide (e.toNat / 4 % 128 ≠ 0) then some (.accessViolation, 4)
  else if leaf && decide (addr % 2 ^ levelBits level ≠ 0) then some (.accessViolation, 4)
  else if leaf && !cell && !remote && decide (cnw ≠ 1) && decide (cnw ≠ 2) && decide (cnw ≠ 4) then
    some (.accessViolation, 4)
  else if leaf && (remote == decide (packageOf addr = own)) then some (.accessViolation, 5)
  else if !leaf && decide (packageOf addr ≠ own) then some (.accessViolation, 5)
  else none

/-- Whether a translation covers an address (R336). -/
def Tlb.covers (t : Tlb) (va : Nat) : Bool := decide (va / 2 ^ levelBits t.level = t.va / 2 ^ levelBits t.level)
/-- The physical address a translation gives. -/
def Tlb.pa (t : Tlb) (va : Nat) : Nat :=
  entryAddr t.leaf / 2 ^ levelBits t.level * 2 ^ levelBits t.level + va % 2 ^ levelBits t.level

def Tlb.sup (t : Tlb) : Bool := t.leaf.getLsbD 8
def Tlb.remote (t : Tlb) : Bool := t.leaf.getLsbD 7
def Tlb.cell (t : Tlb) : Bool := t.leaf.getLsbD 6
def Tlb.x (t : Tlb) : Bool := t.leaf.getLsbD 5
def Tlb.w (t : Tlb) : Bool := t.leaf.getLsbD 4
def Tlb.n (t : Tlb) : Bool := t.leaf.getLsbD 3
def Tlb.c (t : Tlb) : Bool := t.leaf.getLsbD 2

def State.dieAt (s : State) (d : Nat) : Die := sget {} s.dies d

def State.setWcache (s : State) (d : Nat) (l : List (Nat × Nat × DWord)) : State :=
  { s with dies := sput ⟨[]⟩ s.dies d ⟨l⟩ }

/-- One walk from a level on, with the entries that have been read (R335). -/
def State.walkFrom (s : State) (die tide va : Nat) : List Nat → Nat → List (Nat × Nat × DWord) →
    State × Nat × WalkResult × List (Nat × Nat × DWord)
  | [], _, seen => (s, tide, .fault .accessViolation 4 0, seen)
  | level :: rest, base, seen =>
    let ea := base + 8 * levelIndex va level
    let held := (s.dieAt die).wcache.find? fun e => decide (e.1 = level) && decide (e.2.1 = va / 2 ^ levelBits level)
    let r := match held with
      | some e => (s, tide, e.2.2)
      | none =>
        let x := s.readHome ea 0 tide
        (x.1, x.2, x.1.dwordAt (x.1.fwd ea))
    let e := r.2.2
    match entryFault s.host.number.toNat level e with
    | some (c, d) =>
      (r.1, r.2.1, .fault c d (if c = .pageFault ∨ d = 4 then BitVec.ofNat 64 (ea % 2 ^ 40) else 0), seen)
    | none =>
      if e.getLsbD 1 then (r.1, r.2.1, .leaf ⟨va / 2 ^ 16 * 2 ^ 16, level, e⟩, seen)
      else r.1.walkFrom die r.2.1 va rest (entryAddr e) ((level, va / 2 ^ levelBits level, e) :: seen)

def State.walk (s : State) (die tide va : Nat) : State × Nat × WalkResult × List (Nat × Nat × DWord) :=
  s.walkFrom die tide va [0, 1, 2, 3] (s.localPa s.host.ptRoot.toNat) []

/-- Whether a miss of a core may join a walk: for the same page, on its die, and not begun before a TLBF there (R335, R336). -/
def Walk.joins (w : Walk) (core page : Nat) : Bool :=
  decide (w.die = coreDie core) && decide (w.page = page) && !(w.barred.contains core)
/-- A waiting instruction or fetch of a group is added. -/
def Walk.add (w : Walk) (gid : Nat) (fetch : Bool) : Walk :=
  if fetch then { w with fetchers := if w.fetchers.contains gid then w.fetchers else w.fetchers ++ [gid] }
  else { w with groups := if w.groups.contains gid then w.groups else w.groups ++ [gid] }

/-- A Machine Check that waits for the group's results and its arbitration point (R328). -/
def State.machineCheck (s : State) (gid : Nat) (detail : BitVec 4) (mcinfo mcaddr : DWord) : State :=
  s.modGroup gid fun g =>
    if g.ended then g
    else { g with mcs := g.mcs ++ [({ cause := .machineCheck, detail := detail }, mcinfo, mcaddr)] }

/-- The Machine Check of a line that a walk for the word at the pc has lost: it waits until that word has performed (R328). -/
def Group.lostWalk (g : Group) (m : TrapInfo × DWord × DWord) : Bool :=
  decide (m.1.detail = 4) && g.walkFaults.any fun f => f.lost.any fun line => decide (m.2.2 = BitVec.ofNat 64 (128 * line))
/-- The Machine Checks due at the next arbitration point (R328). -/
def Group.dueMcs (g : Group) : List (TrapInfo × DWord × DWord) := g.mcs.filter fun m => !(g.lostWalk m)

/-- The first poisoned line a walk would read (R378). -/
def State.walkPoison (s : State) (die va : Nat) : List Nat → Nat → Option Nat
  | [], _ => none
  | level :: rest, base =>
    let ea := base + 8 * levelIndex va level
    let held := (s.dieAt die).wcache.find? fun e => decide (e.1 = level) && decide (e.2.1 = va / 2 ^ levelBits level)
    if held.isNone && s.poisoned.contains (s.fwd ea / 128) then some (s.fwd ea / 128)
    else
      let e := (held.map fun x => x.2.2).getD (s.dwordAt (s.fwd ea))
      if (entryFault s.host.number.toNat level e).isSome || e.getLsbD 1 then none else s.walkPoison die va rest (entryAddr e)

/-- The group's word goes on without the data of a page whose walk has met a lost line (R328). -/
def Group.losePage (g : Group) (page line : Nat) : Group :=
  { g with walkFaults := { page := page, cause := .machineCheck, detail := 4, pte := 0, lost := some line } :: g.walkFaults }

/-- A walk begins; one that reads a lost line raises Machine Check in its place (R328, R335): after the word that needed it, whose
data there are lost, or before the word whose fetch did. -/
def State.startWalk (s : State) (gid die va : Nat) (fetch : Bool) : State :=
  match s.walkPoison die va [0, 1, 2, 3] (s.localPa s.host.ptRoot.toNat) with
  | some line =>
    let s := s.machineCheck gid 4 (((s.group? gid).map Group.pc).getD 0) (BitVec.ofNat 64 (128 * line))
    if fetch then s else s.modGroup gid fun g => g.losePage (va / 2 ^ 16) line
  | none =>
    let r := s.walk die (((s.group? gid).map Group.tide).getD 0) va
    let s := r.1.modGroup gid fun g => { g with tide := max g.tide r.2.1 }
    { s with walks := s.walks ++ [Walk.add ⟨die, va / 2 ^ 16, [], r.2.2.1, r.2.2.2, [], []⟩ gid fetch] }

/-- A miss starts a walk, joins one for the same page, or waits for a walker (R335). -/
def State.missWalk (s : State) (gid core : Nat) (va : Nat) (fetch : Bool := false) : State :=
  let die := coreDie core
  let page := va / 2 ^ 16
  if s.walks.any fun w => w.joins core page then
    { s with walks := s.walks.map fun w => if w.joins core page then w.add gid fetch else w }
  else if (s.walks.filter fun w => decide (w.die = die)).length < 1024 then
    s.startWalk gid die va fetch
  else s

/-- The outcome of translating one address for a group (R92, R335, R336). -/
inductive Tr where
  | hit (t : Tlb)
  | fault (c : Cause) (detail : BitVec 4) (pte : DWord)
  | miss
  | lost                           -- the walk met a lost line (R328)
deriving DecidableEq, Repr

def State.translate (s : State) (g : Group) (core : Nat) (va : Nat) : Tr :=
  match g.walkFaults.find? fun f => decide (f.page = va / 2 ^ 16) && !f.fetch with
  | some f => if f.lost.isSome then .lost else .fault f.cause f.detail f.pte
  | none =>
    match (s.coreAt core).tlb.find? fun t => t.covers va with
    | some t => .hit t
    | none => .miss

/-- Adding a translation to a TLB. -/
def State.fillTlb (s : State) (core : Nat) (t : Tlb) : State :=
  s.modCore core fun c => if c.tlb.contains t then c else { c with tlb := t :: c.tlb }

/-- A walk's fault reaches a group: a fetch that is still for the page, or an instruction. -/
def Group.faulted (g : Group) (page : Nat) (c : Cause) (detail : BitVec 4) (pte : DWord) (fetch : Bool) : Group :=
  if fetch && (g.ibuf.isSome || (decide (g.pc.toNat / 2 ^ 16 ≠ page) && decide ((g.pc.toNat + 184) % 2 ^ 64 / 2 ^ 16 ≠ page)))
  then g else { g with walkFaults := { page := page, cause := c, detail := detail, pte := pte, fetch := fetch } :: g.walkFaults }

/-- PAGE_WALK: a walk ends; its result reaches every group that waits for it (R335, R336). -/
def State.endWalk (s : State) (i : Nat) : State :=
  match s.walks[i]? with
  | none => s
  | some w =>
    let s := { s with walks := s.walks.eraseIdx i }
    let s := s.setWcache w.die (w.seen ++ (s.dieAt w.die).wcache.filter fun e =>
      !(w.seen.any fun x => decide (x.1 = e.1) && decide (x.2.1 = e.2.1)))
    match w.found with
    | .leaf t => (w.groups ++ w.fetchers).foldl (fun s g => s.fillTlb (g / 48) t) s
    | .fault c d pte =>
      let s := w.groups.foldl (fun s g => s.modGroup g fun x => x.faulted w.page c d pte false) s
      w.fetchers.foldl (fun s g => s.modGroup g fun x => x.faulted w.page c d pte true) s

/-- What a walk in flight found no longer reaches a core's groups (R336). -/
def Walk.bar (w : Walk) (core : Nat) : Walk :=
  { w with groups := w.groups.filter fun g => g / 48 != core, fetchers := w.fetchers.filter fun g => g / 48 != core,
           barred := core :: w.barred }
/-- Whether a walk is for an address's page, or found a leaf that covers the address. -/
def Walk.about (w : Walk) (va : Nat) : Bool :=
  decide (w.page = va / 2 ^ 16) || (match w.found with
    | .leaf t => t.covers va
    | .fault _ _ _ => false)

/-- Dropping every entry of a core's TLB and its die's walk cache that covers an address, and what walks in flight on the die
have read of them; the core's groups leave the walks for its page (R336). -/
def State.dropVa (s : State) (core va : Nat) : State :=
  let s := s.modCore core fun c => { c with tlb := c.tlb.filter fun t => !(t.covers va) }
  let d := coreDie core
  let keep (e : Nat × Nat × DWord) : Bool := !(decide (va / 2 ^ levelBits e.1 = e.2.1))
  let s := s.setWcache d ((s.dieAt d).wcache.filter keep)
  { s with walks := s.walks.map fun w =>
      if w.die = d then
        let w := { w with seen := w.seen.filter keep }
        if w.about va then w.bar core else w
      else w }

/-! ## Accesses of the package's hardware through the same tables (R289) -/

/-- A trap a hardware access of a group's instruction raises. -/
def walkTrap (access : BitVec 2) (c : Cause) (detail : BitVec 4) (va : Nat) (pte : DWord) : TrapInfo :=
  { cause := c, detail := detail, access := access, lanes := some 1, addr := [(0, BitVec.ofNat 64 va)], pte := [(0, pte)] }

/-- A hardware translation; it uses no TLB and no die's walk cache. -/
def State.hwTr (s : State) (access : BitVec 2) (va tide : Nat) : Except TrapInfo (State × Nat × Nat) :=
  let r := s.walk 4 tide (va % 2 ^ 64)
  match r.2.2.1 with
  | .leaf t => .ok (r.1, r.2.1, t.pa (va % 2 ^ 64))
  | .fault c d pte => .error (walkTrap access c d (va % 2 ^ 64) pte)

/-- A hardware write of bytes at virtual addresses, line by line. -/
def State.hwStore (s : State) (va : Nat) (bs : List Byte) (tide : Nat) : Except TrapInfo (State × Nat) :=
  (cutLines (bs.length + 1) va bs).foldlM (fun (a : State × Nat) e => do
    let r ← a.1.hwTr 1 e.1 a.2
    return r.1.writeHome r.2.2 e.2 r.2.1) (s, tide)

/-- A hardware read of bytes at virtual addresses, line by line. -/
def State.hwLoad (s : State) (va n tide : Nat) : Except TrapInfo (State × Nat × List Byte) :=
  (cutLines (n + 1) va (List.replicate n 0)).foldlM (fun (a : State × Nat × List Byte) e => do
    let r ← a.1.hwTr 0 e.1 a.2.1
    let x := r.1.readHome r.2.2 0 r.2.1
    return (x.1, x.2, a.2.2 ++ x.1.bytesAt (x.1.fwd r.2.2) e.2.length)) (s, tide, [])

end Sys2Proof.Machine
end

