-- ==== Sys2Proof/Machine/Access.lean ====
section
/-!
DEFINITION. Memory accesses of a group: where an address goes (R175 to R178), what each class of access may reach (R179,
R180), the checks of R206 in their order, the range locks (R197, R198), and the accesses themselves with their leases and
cached copies (R186, R189, R192, R207).
-/
namespace Sys2Proof.Machine

/-- Where a byte of a checked access lies: memory, or windows 0, 2 and 3 of the on-chip map. -/
inductive Place where
  | mem (loc : Nat) (t : Option Tlb)
  | chip (core win off : Nat)
deriving DecidableEq, Repr

/-- Where an access goes whose translation was lost (R328): it reads zero and writes nothing. -/
def lostPlace : Place := .chip 0 63 0

/-- A number for each place: locks and lines are told apart by it. -/
def Place.loc : Place → Nat
  | .mem l _ => l
  | .chip core win off => devTop * 4 + 2 ^ 30 * core + 2 ^ 24 * win + off

/-- Whether a number is of a place whose translation was lost. -/
def isLost (loc : Nat) : Bool := decide (lostPlace.loc ≤ loc) && decide (loc < lostPlace.loc + 2 ^ 24)

/-- What a class of access may reach (R175, R180). -/
structure Rule where
  access : BitVec 2               -- ACCESS of R321
  scratch : Bool := true
  priv : Bool := true             -- private stack
  chip : Bool := false
  remote : Bool := false
  cell : Option Bool := some false  -- some false: Cell Type; some true: raw image; none: must be a cell
  engine : Bool := false            -- windows 0 and 1 of the on-chip map only (R227)
  open' : Bool := false             -- an XCOPY destination, which may lie in the map outside a handler (R178)
deriving DecidableEq, Repr

def Rule.ld : Rule := { access := 0, chip := true, cell := some true }
def Rule.st : Rule := { access := 1, chip := true }
def Rule.atom : Rule := { access := 2, chip := true, remote := true }
def Rule.ldk : Rule := { access := 0, scratch := false }
def Rule.zread : Rule := { access := 0, priv := false }
def Rule.zwrite : Rule := { access := 1, priv := false }
def Rule.xsrc : Rule := { access := 0, priv := false, chip := true, remote := true, engine := true }
def Rule.xdst : Rule := { access := 1, priv := false, chip := true, remote := true, engine := true, open' := true }
def Rule.xfill : Rule := { access := 1, priv := false, chip := true, remote := true, engine := true }
def Rule.seal : Rule := { access := 2, scratch := false, priv := false, remote := true, cell := none }
def Rule.key (w : Bool) : Rule := { access := if w then 2 else 0, scratch := false, priv := false }
def Rule.wait : Rule := { access := 0, scratch := false }
def Rule.dwait : Rule := { access := 0, scratch := false, priv := false }
def Rule.pref : Rule := { access := 0, scratch := false }
/-- A window read; it reaches no aperture but the translated one (DESIGN CHOICE, notes/assumptions/105). -/
def Rule.window : Rule := { access := 0, scratch := false, priv := false }

/-- The result of a step of R206 on one lane. -/
inductive Chk (α : Type) where
  | good (x : α)
  | bad (c : Cause) (detail : BitVec 4) (pte : DWord)
  | miss
deriving DecidableEq, Repr

/-- An address after step 2 of R206: a place, or a virtual address still to be translated. -/
inductive Pre where
  | place (p : Place)
  | virt (va : Nat)
deriving DecidableEq, Repr

/-- The team whose scratchpad a rank names (R176). -/
def State.rankTeam (s : State) (c : Ctx) (rank : Nat) : Option Team :=
  if rank = 255 ∨ rank = c.t.rank then some c.t
  else if rank < c.pk.cluster then s.team? (c.t.lead + rank) else none

/-- The place of a scratchpad offset of a team. -/
def Team.scratch (t : Team) (off : Nat) : Nat := scratchPlace t.core (t.granule * 2048 + off)

/-- Sizes of the on-chip windows (R178). -/
def chipSize (win : Nat) : Nat := [2 ^ 19, 2 ^ 20, 2 ^ 18, 48 * 4096].getD win 0

/-- Bytes of a carve-out code (R182, R296). -/
def carveBytes (code : Nat) : Nat := [64, 128, 256, 512, 768].getD code 64 * 1024

/-- Step 2 of R206: apertures (R175 to R178) and alignment. -/
def State.aperture (s : State) (c : Ctx) (rule : Rule) (lane : Nat) (ea size al : Nat) : Chk Pre :=
  let ap := ea / 2 ^ 48
  let low := ea % 2 ^ 48
  let av : Chk Pre := .bad .accessViolation 0 0
  let r : Chk Pre :=
    if ap = 0xFFFE then
      if !rule.scratch then av
      else if low / 2 ^ 32 ≠ 0 then av
      else match s.rankTeam c (low / 2 ^ 24) with
        | none => av
        | some t => if low % 2 ^ 24 + size ≤ c.pk.granules * 2048 then .good (.place (.mem (t.scratch (low % 2 ^ 24)) none))
                    else av
    else if ap = 0xFFFD then
      if !rule.priv ∨ c.pk.psSize ≤ low then av
      else
        let i := c.t.index * (32 * c.pk.groups) + 32 * c.g.idx + lane
        .good (.virt ((c.pk.psBase.toNat + i * c.pk.psSize + low) % 2 ^ 64))
    else if ap = 0xFFFC then
      let die := low / 2 ^ 32 % 4
      let core := low / 2 ^ 25 % 128
      let win := low / 2 ^ 22 % 8
      let off := low % 2 ^ 22
      if !rule.chip ∨ low / 2 ^ 34 ≠ 0 ∨ 96 ≤ core ∨ (if rule.engine then 2 else 4) ≤ win ∨ chipSize win < off + size then av
      else if win = 1 then .good (.place (.mem (scratchPlace (128 * die + core) off) none))
      else .good (.place (.chip (128 * die + core) win off))
    else .good (.virt ea)
  match r with
  | .good x => if ea % al = 0 then .good x else .bad .accessViolation 1 0
  | y => y

/-- Step 3 of R206: translation. -/
def State.transStep (s : State) (c : Ctx) (p : Pre) : Chk Place :=
  match p with
  | .place x => .good x
  | .virt va =>
    match s.translate c.g c.t.core va with
    | .hit t => .good (.mem (t.pa va) (some t))
    | .fault k d pte => .bad k d pte
    | .miss => .miss
    | .lost => .good lostPlace

/-- Whether a team owns every register word of some bytes of window 0 of its core (R302, R347). -/
def Team.ownsRegs (t : Team) (regs off size : Nat) : Bool :=
  (List.range ((off + size - 1) / 128 - off / 128 + 1)).all fun i =>
    let x := off / 128 + i
    t.regAt.zipIdx.any fun e =>
      decide (x / 1024 = (t.sbase + e.2) % 4) && decide (e.1 ≤ x % 1024) && decide (x % 1024 < e.1 + regs)

/-- Whether an on-chip address may be used outside a handler: an XCOPY destination in a core of the issuing team's
cluster, within that team's allocation (R178). -/
def State.chipOpen (s : State) (c : Ctx) (rule : Rule) (ea size : Nat) : Bool :=
  rule.open' &&
  (List.range c.pk.cluster).any fun k =>
    match s.team? (c.t.lead + k) with
    | none => false
    | some t =>
      decide (t.core = ea / 2 ^ 32 % 4 * 128 + ea / 2 ^ 25 % 128) &&
      (let win := ea / 2 ^ 22 % 8
       let off := ea % 2 ^ 22
       if win = 1 then decide (t.granule * 2048 ≤ off) && decide (off + size ≤ (t.granule + c.pk.granules) * 2048)
       else decide (win = 0) && t.ownsRegs c.pk.regs off size)

/-- Step 4 of R206: privilege and attributes (R178 to R180, R334). -/
def State.attrStep (s : State) (c : Ctx) (rule : Rule) (ea size : Nat) (p : Place) : Chk Place :=
  let bad (k : Cause) (d : BitVec 4) : Chk Place := .bad k d 0
  match p with
  | .chip _ win _ => if win = 63 ∨ c.g.hmode ∨ s.chipOpen c rule ea size then .good p else bad .accessViolation 3
  | .mem _ none =>
    if ea / 2 ^ 48 = 0xFFFC ∧ !(c.g.hmode || s.chipOpen c rule ea size) then bad .accessViolation 3 else .good p
  | .mem _ (some t) =>
    if t.sup ∧ !c.g.hmode then bad .accessViolation 3
    else match rule.cell with
      | none => if t.cell then .good p else bad .cellType 0
      | some raw =>
        if t.remote ∧ !rule.remote then bad .accessViolation 2
        else if t.cell ∧ !raw then bad .cellType 0 else .good p

/-- Whether a lock stops a thread access (R197, R198). -/
def State.locked (s : State) (write : Bool) (loc size : Nat) : Bool :=
  s.locks.any fun k => (k.dst || write) && decide (k.first ≤ (loc + size - 1) / 128) && decide (loc / 128 ≤ k.last)

/-- Step 5 of R206. -/
def State.lockStep (s : State) (rule : Rule) (size : Nat) (p : Place) : Chk Place :=
  if s.locked (decide (rule.access ≠ 0)) p.loc size then .bad .rangeConflict 0 0 else .good p

/-- The lanes' results of one step. -/
abbrev LaneChk (α : Type) := List (Nat × Nat × Chk α)

/-- The trap of a step: the lowest lane's cause, with every lane that has that cause (R206). -/
def stepTrap {α : Type} (access : BitVec 2) (l : LaneChk α) : Option TrapInfo :=
  match l.findSome? (fun e => match e.2.2 with
    | .bad c d _ => some (c, d)
    | _ => none) with
  | none => none
  | some (c, d) =>
    let hit := l.filterMap fun e => match e.2.2 with
      | .bad c' _ pte => if c' = c then some (e.1, e.2.1, pte) else none
      | _ => none
    some { cause := c, detail := d, access := access, lanes := some (maskOf fun i => hit.any fun h => h.1 == i),
           addr := hit.map fun h => (h.1, BitVec.ofNat 64 h.2.1), pte := hit.map fun h => (h.1, h.2.2) }

/-- The results that passed. -/
def goods {α : Type} (l : LaneChk α) : List (Nat × Nat × α) :=
  l.filterMap fun e => match e.2.2 with
    | .good x => some (e.1, e.2.1, x)
    | _ => none

/-- The outcome of steps 2 to 4 of R206: lanes with their addresses and places. -/
inductive Checked where
  | ok (l : List (Nat × Nat × Place))
  | trap (t : TrapInfo)
  | miss (vas : List Nat)
deriving DecidableEq, Repr

/-- Steps 2 to 4 of R206 on the lanes' addresses. -/
def State.check24 (s : State) (c : Ctx) (rule : Rule) (size al : Nat) (eas : List (Nat × Nat)) : Checked :=
  let l2 : LaneChk Pre := eas.map fun e => (e.1, e.2, s.aperture c rule e.1 e.2 size al)
  match stepTrap rule.access l2 with
  | some t => .trap t
  | none =>
    let l3 : LaneChk Place := (goods l2).map fun e => (e.1, e.2.1, s.transStep c e.2.2)
    let misses := ((goods l2).filterMap fun e => match e.2.2 with
      | .virt va => if s.translate c.g c.t.core va = .miss then some va else none
      | .place _ => none)
    if misses.isEmpty then
      match stepTrap rule.access l3 with
      | some t => .trap t
      | none =>
        let l4 : LaneChk Place := (goods l3).map fun e => (e.1, e.2.1, s.attrStep c rule e.2.1 size e.2.2)
        match stepTrap rule.access l4 with
        | some t => .trap t
        | none => .ok (goods l4)
    else .miss misses

/-- Steps 2 to 5 of R206. -/
def State.checkAll (s : State) (c : Ctx) (rule : Rule) (size al : Nat) (eas : List (Nat × Nat)) : Checked :=
  match s.check24 c rule size al eas with
  | .ok l =>
    let l5 : LaneChk Place := l.map fun e => (e.1, e.2.1, s.lockStep rule size e.2.2)
    match stepTrap rule.access l5 with
    | some t => .trap t
    | none => .ok l
  | x => x

/-- A trap of an access made once for the group: every active lane has it, at the same address (R206). -/
def onceFor (t : TrapInfo) (act : Word) : TrapInfo :=
  match t.lanes with
  | none => t
  | some _ =>
    let a := (t.addr.head?.map Prod.snd).getD 0
    let p := (t.pte.head?.map Prod.snd).getD 0
    { t with lanes := some act, addr := (lanesOf act).map fun l => (l, a), pte := (lanesOf act).map fun l => (l, p) }

/-- Every walk a list of misses needs (R335). -/
def State.startWalks (s : State) (c : Ctx) (vas : List Nat) : State :=
  vas.foldl (fun s va => s.missWalk c.gid c.t.core va) s

/-- A read at the home of a poisoned line raises Machine Check with DETAIL 3, to the group that reads (R378). -/
def State.poisonCheck (s : State) (c : Ctx) (loc : Nat) : State :=
  if s.poisoned.contains (s.fwd loc / 128) then
    s.machineCheck c.gid 3 c.g.pc (BitVec.ofNat 64 (s.fwd loc / 128 * 128))
  else s

/-! ## The lines an L1 holds (R3, R182) -/

/-- Lines in an L1's share of the unified SRAM (R182). -/
def l1Lines (carve : Nat) : Nat := (2 ^ 20 - carveBytes carve) / 128
/-- The lines in a core's L1: its leased copies, the lines it owns, and those of its copies of cells (R189, R265). -/
def State.l1Held (s : State) (core : Nat) : List Nat :=
  let owned := s.lines.filter fun e => decide (e.2.owner = some core)
  ((s.coreAt core).l1.map Prod.fst ++ owned.map Prod.fst ++ (s.coreAt core).sealed.map fun (e : Nat × SealCopy) => e.1 / 8).eraseDups
/-- A line leaves a core's L1: copies are dropped, an owned line is written back and its lease returned (R183, R189). -/
def State.l1Drop (s : State) (core line : Nat) : State :=
  let s := s.modCore core fun k => { k with l1 := sdel k.l1 line, sealed := k.sealed.filter fun e => e.1 / 8 != line }
  if (s.lineAt line).owner = some core then s.setLine line { s.lineAt line with owner := none, evicting := false } else s
/-- Room for a line in a core's L1: a full one drops a line, which one is open (R3, R182; notes/assumptions/131). -/
def State.l1Room (s : State) (core line : Nat) : State :=
  let l := s.l1Held core
  if l.contains line || decide (l.length < l1Lines (s.coreAt core).carve) then s
  else s.fresh.2.l1Drop core (l.getD ((Config.openWord s.fresh.1).toNat % l.length) 0)

/-! ## Performing (R189, R192, R207) -/

/-- Whether a page is accessed at the home only, without L1 copies (R179). -/
def Place.atHome : Place → Bool
  | .mem _ (some t) => t.n || t.remote || t.cell
  | .mem _ none => true
  | .chip _ _ _ => true

/-- A copy's lease is current for a tidemark (R189, R192). -/
def State.copyHit (s : State) (core line tide : Nat) : Option Copy :=
  match sfind (s.coreAt core).l1 line with
  | some k =>
    if tide ≤ k.rts ∧ k.gen = (sget {} (s.coreAt core).heard (shelfOf (line * 128))).gen then some k else none
  | none => none

/-- Whether a lease can be encoded against a base (R192). -/
def fits16 (base wts rts : Nat) : Bool :=
  decide (base ≤ wts) && decide (rts - base < 65536)

/-- GENERATION_NOTICE reaches every cache: the slice's present base and generation are heard, and copies 128 or more behind are
dropped; a sleeping core makes its wake check (R192, R193). -/
def State.hearNotice (s : State) (k : Nat) : State :=
  let x := s.slice k
  s.cores.foldl (fun (s : State) e =>
    if e.2.asleep.isSome then s.wakeCheck e.1
    else s.modCore e.1 fun c => { c with
      heard := sput {} c.heard k x
      l1 := c.l1.filter fun y => !(decide (shelfOf (y.1 * 128) = k) && decide (128 ≤ (x.gen - y.2.gen).toNat)) })
    { s with genNotices := s.genNotices.filter fun n => n != k }

/-- The slice rebases when a grant does not fit; at a multiple of 128 a notice is sent, and one still under way has arrived
before it (R192, notes/assumptions/115). A write time below the base does not fit either (DESIGN CHOICE, notes/assumptions/108). -/
def State.rebase (s : State) (k wts rts tide : Nat) : State :=
  if fits16 (s.slice k).base wts rts then s
  else
    let g := (s.slice k).gen + 1
    let s := if g.toNat % 128 = 0 ∧ s.genNotices.contains k then s.hearNotice k else s
    let s := s.modSlice k fun x => { x with base := min wts tide, gen := g }
    if g.toNat % 128 = 0 then { s with genNotices := s.genNotices ++ [k] } else s

/-- A reply of a line's slice has carried its base and generation to a core (R192). -/
def State.hear (s : State) (core loc : Nat) : State :=
  if devTop ≤ loc ∨ !(s.ownPackage loc) then s
  else s.modCore core fun c => { c with heard := sput {} c.heard (shelfOf loc) (s.slice (shelfOf loc)) }

/-- Where the bytes of a load come from. -/
inductive Source where
  | copy (data : List Byte)
  | home
deriving DecidableEq, Repr

/-- Whether the core's own L1 holds a line's write lease, and so answers for a tidemark within the line's lease (R189); an N page's
accesses are performed at the home (R179). -/
def State.ownHit (s : State) (core line tide : Nat) : Bool :=
  let l := s.lineAt line
  decide (l.owner = some core) && l.comm.isNone && decide (tide ≤ l.rts)

/-- A load of part of a line by a group: from a copy, from the L1 that owns the line, or at the home with a reply that may
grant a copy (R189, R208). The state, the tidemark after, where the bytes come from, and the replies awaited. -/
def State.loadLine (s : State) (c : Ctx) (p : Place) (tide : Nat) (pend : Option Nat) : State × Nat × Source × Nat :=
  match p with
  | .chip _ _ _ => (s, tide, .home, 0)
  | .mem loc _ =>
    let line := s.fwd loc / 128
    let mine := decide ((s.lineAt line).owner = some c.t.core) && decide (loc < devTop) && !p.atHome
    if mine && s.ownHit c.t.core line tide then (s, max tide (s.lineAt line).wts, .home, 0)
    else match (if p.atHome || mine then none else s.copyHit c.t.core line tide) with
    | some k => (s, max tide k.wts, .copy k.data, 0)
    | none =>
      let r := s.readHome loc c.g.lease.toNat tide
      let s := if mine then r.1.setLine line { r.1.lineAt line with owner := some c.t.core } else r.1
      if p.atHome || mine then (s, r.2, .home, 0)
      else
        let k := shelfOf (line * 128)
        let l := s.lineAt line
        let s := s.rebase k l.wts l.rts tide
        let cp := if fits16 (s.slice k).base l.wts l.rts then
          some (Copy.mk l.wts l.rts (s.slice k).gen (s.bytesAt (line * 128) 128)) else none
        ({ s with replies := s.replies ++ [⟨c.gid, c.t.core, line, k, cp, pend, false⟩] }, r.2, .home, 1)

/-- The key of the line of a place. -/
def Place.line (s : State) : Place → Nat
  | .mem loc _ => s.fwd loc / 128
  | x => x.loc

/-- The distinct lines of some places, in the order of the lowest lane that touches each (R208). -/
def firstTouch (s : State) (l : List (Nat × Nat × Place)) : List Place :=
  (l.foldl (fun (a : List Nat × List Place) e =>
    let k := e.2.2.line s
    if a.1.contains k then a else (k :: a.1, a.2 ++ [e.2.2])) ([], [])).2

/-! ### The tide times of one instruction's lines (R186, R207)

Lanes follow one another in tide order, and the accesses of one line share one time. So a line's time is no earlier than
that of any lower lane's line: `need` gives the least time a line can take at a tidemark. -/

def timeOf (ts : List (Nat × Nat)) (k : Nat) : Nat := ((ts.find? fun e => e.1 == k).map Prod.snd).getD 0
/-- One pass over the lanes' lines in ascending lane order. -/
def timePass {α : Type} (need : α → Nat → Nat) (tide : Nat) (l : List (Nat × α)) (ts : List (Nat × Nat)) : List (Nat × Nat) :=
  (l.foldl (fun (a : Nat × List (Nat × Nat)) e =>
    let t := need e.2 (max a.1 (timeOf a.2 e.1))
    (t, (e.1, t) :: a.2.filter fun x => x.1 != e.1)) (tide, ts)).2
/-- Passes until nothing moves: each line's time. -/
def lineTimes {α : Type} (need : α → Nat → Nat) (tide : Nat) (l : List (Nat × α)) : Nat → List (Nat × Nat) → List (Nat × Nat)
  | 0, ts => ts
  | n + 1, ts =>
    let ts' := timePass need tide l ts
    if l.all fun e => timeOf ts' e.1 == timeOf ts e.1 then ts else lineTimes need tide l n ts'
/-- Neighbours of one line joined. -/
def joinLines {α : Type} : List (Nat × α) → List (Nat × α)
  | [] => []
  | e :: r => match joinLines r with
    | f :: r' => if e.1 = f.1 then e :: r' else e :: f :: r'
    | [] => [e]
/-- The lines the lanes touch, in lane order, and the time each takes. -/
def laneLines (s : State) (l : List (Nat × Nat × Place)) : List (Nat × Place) :=
  joinLines (l.map fun e => (e.2.2.line s, e.2.2))
def State.placeTimes (s : State) (need : Place → Nat → Nat) (tide : Nat) (l : List (Nat × Nat × Place)) : List (Nat × Nat) :=
  let ls := laneLines s l
  lineTimes need tide ls (2 * ls.length) []

/-- The loads of one instruction: one tide time per line, lines in the order of their lowest lane (R186, R207, R208).
The state, the tidemark, the replies awaited, and for each line the source of its bytes. -/
def State.readLines (s : State) (c : Ctx) (l : List (Nat × Nat × Place)) (pend : Option Nat) :
    State × Nat × Nat × List (Nat × Source) :=
  let ts := s.placeTimes (fun p t => (s.loadLine c p t none).2.1) c.g.tide l
  let r := (firstTouch s l).foldl (fun (a : State × Nat × Nat × List (Nat × Source)) p =>
    let r := a.1.loadLine c p (max c.g.tide (timeOf ts (p.line s))) pend
    (r.1, max a.2.1 r.2.1, a.2.2.1 + r.2.2.2, a.2.2.2 ++ [(p.loc / 128, r.2.2.1)])) (s, c.g.tide, 0, [])
  ((firstTouch s l).foldl (fun s p => if p.atHome then s.hear c.t.core p.loc else s) r.1, r.2)
/-- Those loads, with the Machine Checks of poisoned lines (R378). -/
def State.loadLines (s : State) (c : Ctx) (l : List (Nat × Nat × Place)) (pend : Option Nat) :
    State × Nat × Nat × List (Nat × Source) :=
  let r := s.readLines c l pend
  ((firstTouch s l).foldl (fun s p => s.poisonCheck c p.loc) r.1, r.2)

/-- The lanes whose bytes come from the homes of their lines. -/
def homeLanes (src : List (Nat × Source)) (l : List (Nat × Nat × Place)) : List (Nat × Nat) :=
  (l.filter fun e => src.any fun x => x.1 == e.2.2.loc / 128 && decide (x.2 = .home)).map fun e => (e.1, e.2.2.loc / 128)

/-- The bytes of a checked load, from a copy or from the home. -/
def State.loadBytes (s : State) (src : List (Nat × Source)) (loc n : Nat) : List Byte :=
  match src.find? fun e => decide (e.1 = loc / 128) with
  | some (_, .copy d) => (List.range n).map fun i => d.getD (loc % 128 + i) 0
  | _ => (List.range n).map fun i => s.byteAt (s.fwd (loc + i))

/-- The owner a store or atomic leaves: the L1 on a C page, none at the home (R189, R223). -/
def Place.owner (p : Place) (core : Nat) : Option Nat :=
  match p with
  | .mem _ (some t) => if t.c && !t.remote && !t.cell then some core else none
  | _ => none

/-- Whether a line's stores and atomics are performed in the core's L1, which owns it (R189). -/
def State.inL1 (s : State) (core line : Nat) (owner : Option Nat) : Bool :=
  owner.isSome && decide ((s.lineAt line).owner = some core)

/-- The place of a line in tide order for a group's writes; the L1 that becomes its owner takes it in, and drops its old copy
(R3, R189). -/
def State.claimLine (s : State) (c : Ctx) (p : Place) (tide : Nat) : State × Nat :=
  match p with
  | .chip _ _ _ => (s, tide)
  | .mem loc _ =>
    let line := s.fwd loc / 128
    let s := if (p.owner c.t.core).isSome then s.l1Room c.t.core line else s
    let r := s.claim loc tide (p.owner c.t.core)
    let s := if (p.owner c.t.core).isSome ∧ (sfind (r.1.coreAt c.t.core).l1 line).isSome then
      r.1.modCore c.t.core fun k => { k with l1 := sdel k.l1 line } else r.1
    (s, r.2)

/-- Claims of every line of an instruction's writes: the state, the tidemark, and the time of each line. A home's reply carries
its slice's base and generation (R192). -/
def State.claimLines (s : State) (c : Ctx) (l : List (Nat × Nat × Place)) : State × Nat × List (Nat × Nat) :=
  let ts := s.placeTimes (fun p t => (s.claimLine c p t).2) c.g.tide l
  (firstTouch s l).foldl (fun (a : State × Nat × List (Nat × Nat)) p =>
    let r := a.1.claimLine c p (max c.g.tide (timeOf ts (p.line s)))
    (if a.1.inL1 c.t.core (p.line s) (p.owner c.t.core) then r.1 else r.1.hear c.t.core p.loc, max a.2.1 r.2, a.2.2 ++ [(p.loc, r.2)])) (s, c.g.tide, [])

/-- Whether a byte of a unified SRAM lies below the carve-out; the others read as zero and ignore writes (R178). -/
def State.inCarve (s : State) (loc : Nat) : Bool :=
  decide (loc < devTop) ||
    decide ((loc - devTop) % 2 ^ 20 < carveBytes (s.coreAt ((loc - devTop) / 2 ^ 20)).carve)

/-- Notices for the lines written: each line's time, with the bytes written, as places and lengths (R201, R355, R359). -/
def State.wroteAll (s : State) (lines spans : List (Nat × Nat)) : State :=
  lines.foldl (fun s e =>
    if e.1 < devTop * 4 then
      s.wrote ((spans.filter fun x => decide (x.1 / 128 = e.1 / 128)).map fun x => (s.fwd x.1, x.2)) e.2
    else s) s
/-- The bytes of a size at checked places. -/
def spansOf (l : List (Nat × Nat × Place)) (size : Nat) : List (Nat × Nat) := l.map fun e => (e.2.2.loc, size)

end Sys2Proof.Machine
end

