-- ==== Sys2Proof/Machine/Debug.lean ====
section
/-!
DEFINITION. Debug records (R363 to R368): arms, the rings of debug-table spills and trace records, and the stall reasons.
-/
namespace Sys2Proof.Machine

/-- Whether DBG.ARM applies to a packet's teams (R363). -/
def State.armed (s : State) (pk : Packet) (bit : Nat) : Bool :=
  s.host.armed.getLsbD bit && decide (s.host.armed.toNat / 2 ^ 16 % 2 ^ 12 = pk.queue) &&
  (decide (s.host.armed.toNat / 2 ^ 32 = pk.seq.toNat) || decide (s.host.armed.toNat / 2 ^ 32 = 2 ^ 32 - 1))

/-- A trace record of a core; a full ring drops and counts it (R364, R367). -/
def State.trace (s : State) (core : Nat) (bs : List Byte) : State :=
  let c := s.coreAt core
  let size := s.host.trcSize.toNat
  if size / 32 ≤ (c.trcWr - c.trcRd).toNat then s.modCore core fun c => { c with lost := c.lost + 0x100000000 }
  else
    let s := s.hwWrite (s.localPa (s.host.trcBase.toNat + core * size + c.trcWr.toNat * 32 % size)) bs
    s.modCore core fun c => { c with trcWr := c.trcWr + 1 }

/-- Core clocks since a core's last reset (R138). -/
def State.coreCycle (s : State) : Nat := s.cycle - s.since

/-- Team coordinates (R14). -/
def Ctx.coords (c : Ctx) : Nat × Nat × Nat :=
  (c.t.index % c.pk.grid.1, c.t.index / c.pk.grid.1 % c.pk.grid.2.1, c.t.index / (c.pk.grid.1 * c.pk.grid.2.1))

/-- The barrier of a team, or of its cluster, held by rank 0 (R232, R234). -/
def State.barrier (s : State) (t : Team) (cluster : Bool) (id : Nat) : Barrier :=
  if cluster then sget {} (((s.team? t.lead).map Team.cbars).getD []) id else sget {} t.bars id

/-- The bytes of a trace record (R367). -/
def State.traceBytes (s : State) (c : Ctx) (kind reason : Nat) (pc : DWord) : List Byte :=
  let x := c.coords
  let bar := match c.g.lastBar with
    | some (id, cl) => id + (if cl then 16 else 0)
    | none => 0
  let ph := match c.g.lastBar with
    | some (id, cl) => (s.barrier c.t cl id).ph.toNat
    | none => 0
  leBytes 8 s.coreCycle ++ leBytes 8 pc.toNat ++ leBytes 4 x.1 ++ leBytes 2 x.2.1 ++ leBytes 2 x.2.2 ++ leBytes 4 ph ++
    leBytes 1 bar ++ leBytes 1 c.g.idx ++ leBytes 1 kind ++ leBytes 1 reason

def State.traceRec (s : State) (c : Ctx) (kind reason : Nat) (pc : DWord) : State :=
  s.trace c.t.core (s.traceBytes c kind reason pc)

/-- The stall reasons (R366). -/
def Stall.reason : Stall → Nat
  | .lookahead | .drain => 1
  | .writewait => 2
  | .queue _ _ => 3
  | .constant => 4
  | .divSpill | .divRefill => 5
  | .barrier _ | .clusterBarrier _ | .barrierRepeat _ _ _ | .barrierValue _ _ => 6
  | .monitor => 7
  | .tagWait _ _ | .tagIssue _ => 8
  | .rangelock _ _ => 9
  | .engine => 10
  | .translate | .tlbi => 11
  | .memorder code => code
  | .pool | .poolRefill _ => 13
  | .distrib => 14

/-- A debug-table spill record in its core's ring (R365). -/
def State.spillEntry (s : State) (core : Nat) (e : DebugEntry) : State :=
  let c := s.coreAt core
  let size := s.host.tabSize.toNat
  if size / 16 ≤ (c.tabWr - c.tabRd).toNat then
    s.modCore core fun c => { c with lost := BitVec.ofNat 64 (c.lost.toNat / 2 ^ 32 * 2 ^ 32 + (c.lost.toNat + 1) % 2 ^ 32) }
  else
    let s := s.hwWrite (s.localPa (s.host.tabBase.toNat + core * size + c.tabWr.toNat * 16 % size))
      (leBytes 8 e.pc.toNat ++ leBytes 4 e.count ++ leBytes 1 e.reason ++ leBytes 1 0 ++ leBytes 2 e.queue)
    s.modCore core fun c => { c with tabWr := c.tabWr + 1 }

/-- One count charged to (QUEUE, PC, REASON) in a core's debug table (R365). -/
def State.charge (s : State) (core queue reason : Nat) (pc : DWord) : State :=
  let i := (pc.toNat / 8 % 4096) ^^^ ((0x111 * reason) % 4096) ^^^ queue
  match sfind (s.coreAt core).table (i % 4096) with
  | none => s.modCore core fun c => { c with table := sins c.table (i % 4096) ⟨queue, pc, reason, 1⟩ }
  | some e =>
    if e.queue = queue ∧ e.pc = pc ∧ e.reason = reason then
      if e.count = 2 ^ 32 - 1 then
        (s.spillEntry core e).modCore core fun c => { c with table := sins c.table (i % 4096) { e with count := 1 } }
      else s.modCore core fun c => { c with table := sins c.table (i % 4096) { e with count := e.count + 1 } }
    else
      (s.spillEntry core e).modCore core fun c => { c with table := sins c.table (i % 4096) ⟨queue, pc, reason, 1⟩ }

/-- DEBUG_COUNT_WRAP: a count that has reached 0xFFFF_FFFF is spilled and restarts at 0 (R365). -/
def State.wrapCount (s : State) (core i : Nat) : State :=
  match sfind (s.coreAt core).table i with
  | none => s
  | some e =>
    if e.count = 2 ^ 32 - 1 then
      (s.spillEntry core e).modCore core fun c => { c with table := sins c.table i { e with count := 0 } }
    else s

/-- Every debug-table entry that a test selects is spilled (R364, R365). -/
def State.flushTable (s : State) (core : Nat) (sel : DebugEntry → Bool) : State :=
  let out := (s.coreAt core).table.filter fun e => sel e.2
  let s := s.modCore core fun c => { c with table := c.table.filter fun e => !(sel e.2) }
  out.foldl (fun s e => s.spillEntry core e.2) s

end Sys2Proof.Machine
end

