-- ==== Sys2Proof/Machine/Context.lean ====
section
/-!
DEFINITION. The group state record of the context image (R345), which is also the layout of window 3 of the on-chip map
(R347), and reads and writes of windows 0, 2 and 3.
-/
namespace Sys2Proof.Machine

/-- Divergence-stack depth, on chip and spilled (R26). -/
def Group.depth (g : Group) : Nat := g.stack.length + 8 * g.spilled

/-- Padding with zero bytes up to a length. -/
def padTo (n : Nat) (l : List Byte) : List Byte := l ++ List.replicate (n - l.length) 0

def leWords (l : List Word) : List Byte := l.flatMap fun w => leBytes 4 w.toNat
def leDwords (l : List DWord) : List Byte := l.flatMap fun w => leBytes 8 w.toNat

/-- The flags and barrier of a waiting group (R345). -/
def Group.waitFlags (g : Group) : Nat × Nat :=
  match g.stall with
  | some (.barrier id) => (4, id)
  | some (.clusterBarrier id) => (4, id + 16)
  | _ => (0, 0)

/-- The predicates of a lane as 16 bits (R345). -/
def Group.predBits (g : Group) (l : Nat) : Nat :=
  (List.range 8).foldl (fun a k => a + (sget 0 g.p (32 * k + l)).toNat * 4 ^ k) 0

/-- The group as a pop that has not performed leaves it: its refills are undone (R24, R26). -/
def Group.unpop (g : Group) : Group :=
  match g.unpopped with
  | none => g
  | some (o, k) => { g with stack := o, spilled := g.spilled + k, unpopped := none }

/-- The 4 KiB group state record (R345). -/
def Group.record (g : Group) : List Byte :=
  let g := g.unpop
  let flags := (if g.hmode then 1 else 0) + (if g.redo then 2 else 0) + g.waitFlags.1
  let a := leDwords [g.pc] ++ leWords [g.mask, g.live] ++ leBytes 8 g.tide ++ leBytes 8 g.lease.toNat ++
    leWords [g.h] ++ leBytes 1 g.nbmode.toNat ++ leBytes 1 flags ++ leBytes 2 g.waitFlags.2 ++
    leBytes 4 g.depth ++ leBytes 4 g.stack.length ++ leDwords [g.tvec, g.tpc, g.tcause, g.tsave] ++ leWords [g.tmask]
  let b := padTo 0x60 a ++ leDwords (lanes.map fun l => sget 0 g.taddr l) ++ leDwords (lanes.map fun l => sget 0 g.tpte l)
  let d := padTo 0x260 b ++ (lanes.flatMap fun l => leBytes 2 (g.predBits l)) ++
    leWords ((List.range 8).map fun k => sget 0 g.hs (56 + k)) ++
    (lanes.flatMap fun l => leBytes 2 ((sget 0 g.hp (192 + l)).toNat + 4 * (sget 0 g.hp (224 + l)).toNat))
  let e := padTo 0x300 d ++ leWords ((List.range 64).map fun n => sget 0 g.s n) ++
    (g.stack.flatMap fun x => leBytes 16 x.toNat)
  padTo 4096 (padTo 0x500 e ++ leDwords [g.mcinfo, g.mcaddr])

def natOf (bs : List Byte) (off n : Nat) : Nat := leNat ((bs.drop off).take n)
def wordOf (bs : List Byte) (off : Nat) : Word := BitVec.ofNat 32 (natOf bs off 4)
def dwordOf (bs : List Byte) (off : Nat) : DWord := BitVec.ofNat 64 (natOf bs off 8)

/-- The wait a state record asks for: at a barrier after arriving, or none; another wait of the group stays. -/
def recordWait (old : Option Stall) (bs : List Byte) : Option Stall :=
  let id := natOf bs 0x26 2 % 16
  if natOf bs 0x25 1 / 4 % 2 = 1 then some (if natOf bs 0x26 2 / 16 % 2 = 1 then .clusterBarrier id else .barrier id)
  else match old with
    | some (.barrier _) => none
    | some (.clusterBarrier _) => none
    | x => x

/-- A group with the registers a state record holds; reserved bits of a register are not stored (R11, R345). -/
def Group.ofRecord (g : Group) (bs : List Byte) : Group :=
  let flags := natOf bs 0x25 1
  let cnt := min 16 (natOf bs 0x2C 4)
  { g with
    pc := dwordOf bs 0, mask := wordOf bs 8, live := wordOf bs 0xC, tide := natOf bs 0x10 8,
    lease := BitVec.ofNat 16 (natOf bs 0x18 8), h := wordOf bs 0x20, nbmode := BitVec.ofNat 2 (natOf bs 0x24 1),
    hmode := flags % 2 == 1, redo := flags / 2 % 2 == 1,
    spilled := (natOf bs 0x28 4 - cnt) / 8,
    tvec := dwordOf bs 0x30, tpc := dwordOf bs 0x38, tcause := (dwordOf bs 0x40).lo.setWidth 64,
    tsave := dwordOf bs 0x48 &&& 0xFFFFFFFFFFFF,
    tmask := wordOf bs 0x50,
    unpopped := none,
    taddr := sputs 0 [] (lanes.map fun l => (l, dwordOf bs (0x60 + 8 * l))),
    tpte := sputs 0 [] (lanes.map fun l => (l, dwordOf bs (0x160 + 8 * l))),
    p := sputs 0 [] ((List.range 8).flatMap fun k => lanes.map fun l =>
      (32 * k + l, BitVec.ofNat 2 (natOf bs (0x260 + 2 * l) 2 / 4 ^ k))),
    hs := sputs 0 [] ((List.range 8).map fun k => (56 + k, wordOf bs (0x2A0 + 4 * k))),
    hp := sputs 0 [] ((List.range 2).flatMap fun k => lanes.map fun l =>
      (32 * (6 + k) + l, BitVec.ofNat 2 (natOf bs (0x2C0 + 2 * l) 2 / 4 ^ k))),
    s := sputs 0 [] ((List.range 64).map fun n => (n, wordOf bs (0x300 + 4 * n))),
    stack := (List.range cnt).map fun j => BitVec.ofNat 128 (natOf bs (0x400 + 16 * j) 16),
    mcinfo := dwordOf bs 0x500, mcaddr := dwordOf bs 0x508, stall := recordWait g.stall bs }

/-! ## Windows of the on-chip map (R347) -/

/-- The group in a slot of a core. -/
def State.slotGroup (s : State) (core slot : Nat) : Option Group := s.group? (48 * core + slot)

/-- The group that owns a physical register of a scheduler, and the register's number in it. -/
def State.regOwner (s : State) (core sched p : Nat) : Option (Nat × Nat) :=
  (List.range 12).findSome? fun i =>
    match s.ctx? (48 * core + 12 * sched + i) with
    | none => none
    | some c =>
      let base := c.t.regAt.getD c.g.idx 0
      if base ≤ p ∧ p < base + c.pk.regs then some (c.gid, p - base) else none

/-- The team that owns a physical tile of a core, and the tile's number in it. -/
def State.tileOwner (s : State) (core p : Nat) : Option (Nat × Nat) :=
  s.teams.findSome? fun e =>
    if e.2.core = core then
      (e.2.tileAt.zipIdx.find? fun b => decide (b.1 = p / 8)).map fun b => (e.1, 8 * b.2 + p % 8)
    else none

/-- The memory image of a tile in its format (R252, R347). -/
def Team.tileImage (t : Team) (z : Nat) : List Byte :=
  let n := if t.tileD.getD z true then 256 else 128
  padTo 1024 (leWords ((List.range n).map fun k => sget 0 t.tiles (256 * z + k)))

/-- Bytes of windows 0, 2 and 3; registers, tiles and slots nothing owns read as zero, and so does a lost place. -/
def State.chipRead (s : State) (core win off n : Nat) : List Byte :=
  (List.range n).map fun i =>
    let o := off + i
    if win = 0 then
      match s.regOwner core (o / 2 ^ 17) (o % 2 ^ 17 / 128) with
      | some (g, r) => ((((s.group? g).map fun x => x.getV r (o % 128 / 4)).getD 0) >>> (8 * (o % 4))).setWidth 8
      | none => 0
    else if win = 2 then
      match s.tileOwner core (o / 1024) with
      | some (h, z) => (((s.team? h).map fun t => t.tileImage z).getD []).getD (o % 1024) 0
      | none => 0
    else if win = 3 then
      match s.slotGroup core (o / 4096) with
      | some g => g.record.getD (o % 4096) 0
      | none => 0
    else 0

/-- Bytes replaced in a list. -/
def patch (l : List Byte) (off : Nat) (bs : List Byte) : List Byte :=
  l.take off ++ bs ++ l.drop (off + bs.length)

/-- A write that lands at once: the group is between runs (R37). -/
def Group.land (g : Group) : Inbound → Group
  | .v r l m x => { g with v := sput 0 g.v (32 * r + l) ((g.getV r l &&& ~~~m) ||| (x &&& m)) }
  | .record off bs => { g.ofRecord (patch g.record off bs) with ibuf := none }

/-- A write from outside: at once between runs, otherwise kept until the run ends; a V register whose engine read has
not happened keeps it waiting too (R37, R178, R249). -/
def State.inbound (s : State) (gid : Nat) (w : Inbound) : State :=
  s.modGroup gid fun g =>
    let busy := match w with
      | .v r _ _ _ => g.unread.any fun u => decide (u.2 = .v r)
      | .record _ _ => false
    if s.runs.contains gid || busy || !g.inbound.isEmpty then { g with inbound := g.inbound ++ [w] } else g.land w

/-- The kept writes that may land now. -/
def Group.landAll (g : Group) : Group :=
  let ready (w : Inbound) : Bool := match w with
    | .v r _ _ _ => !(g.unread.any fun u => decide (u.2 = .v r))
    | .record _ _ => true
  (g.inbound.filter ready).foldl (fun x w => x.land w) { g with inbound := g.inbound.filter fun w => !(ready w) }

/-- Bytes written into a tile's image in its format (R252, R347). -/
def Team.landTile (t : Team) (w : Nat × Nat × List Byte) : Team :=
  let im := patch (t.tileImage w.1) w.2.1 w.2.2
  { t with tiles := sputs 0 t.tiles ((List.range (if t.tileD.getD w.1 true then 256 else 128)).map fun k =>
      (256 * w.1 + k, wordOf im (4 * k))) }
/-- The tile writes that waited for the end of a run of the team's groups. -/
def Team.landTiles (t : Team) : Team := { t.tileIn.foldl Team.landTile t with tileIn := [] }

/-- A write into a tile: at once between runs of the owning team's groups, otherwise at the end of the next run (R178). -/
def State.tileWrite (s : State) (h : Nat) (w : Nat × Nat × List Byte) : State :=
  s.modTeam h fun t =>
    if t.slots.any (fun k => s.runs.contains (48 * t.core + k)) || !t.tileIn.isEmpty then { t with tileIn := t.tileIn ++ [w] }
    else t.landTile w

/-- The parts of a byte range in blocks of a size: block, offset in it, and bytes. -/
def blocksOf (size off : Nat) (bs : List Byte) : List (Nat × Nat × List Byte) :=
  if bs = [] then [] else
  (List.range ((off + bs.length - 1) / size - off / size + 1)).map fun i =>
    let b := off / size + i
    let lo := max off (b * size)
    (b, lo % size, (bs.drop (lo - off)).take (min (b * size + size) (off + bs.length) - lo))

/-- The word and the mask of some bytes of a register word. -/
def wordMask (off : Nat) (bs : List Byte) : Word × Word :=
  (BitVec.ofNat 32 (leNat bs * 2 ^ (8 * off)), BitVec.ofNat 32 ((2 ^ (8 * bs.length) - 1) * 2 ^ (8 * off)))

/-- A write of bytes into windows 0, 2 and 3 (R178, R347). -/
def State.chipWrite (s : State) (core win off : Nat) (bs : List Byte) : State :=
  if win = 0 then
    (blocksOf 4 off bs).foldl (fun s e =>
      match s.regOwner core (e.1 / 2 ^ 15) (e.1 % 2 ^ 15 / 32) with
      | some (g, r) => s.inbound g (.v r (e.1 % 32) (wordMask e.2.1 e.2.2).2 (wordMask e.2.1 e.2.2).1)
      | none => s) s
  else if win = 2 then
    (blocksOf 1024 off bs).foldl (fun s e =>
      match s.tileOwner core e.1 with
      | some (h, z) => s.tileWrite h (z, e.2.1, e.2.2)
      | none => s) s
  else if win = 3 then
    (blocksOf 4096 off bs).foldl (fun s e =>
      match s.slotGroup core e.1 with
      | some _ => s.inbound (48 * core + e.1) (.record e.2.1 e.2.2)
      | none => s) s
  else s

/-- Bytes put at a checked place, which its line's claim has given its time (R178). -/
def State.put (s : State) (p : Place) (bs : List Byte) : State :=
  match p with
  | .mem loc _ =>
    let l := s.fwd loc
    { s with mem := sputs 0 s.mem ((pokes l bs).filter fun e => s.inCarve e.1) }
  | .chip core win off => s.chipWrite core win off bs

/-- Bytes at a checked place, of a load whose line has been read. -/
def State.get (s : State) (src : List (Nat × Source)) (p : Place) (n : Nat) : List Byte :=
  match p with
  | .mem loc _ => (s.loadBytes src loc n).zipIdx.map fun e => if s.inCarve (loc + e.2) then e.1 else 0
  | .chip core win off => s.chipRead core win off n

end Sys2Proof.Machine
end

