-- ==== Sys2Proof/Machine/Record.lean ====
section
/-!
DEFINITION. The decision log and its counters (R307 to R310), and the teams of a cluster, which change state together (R299).
-/
namespace Sys2Proof.Machine

/-! ## Clusters (R299) -/

/-- The group numbers of a team. -/
def Team.gids (t : Team) : List Nat := t.slots.map fun k => 48 * t.core + k
/-- The resident teams of a cluster with their handles, in rank order. -/
def State.clusterOf (s : State) (lead : Nat) : List (Nat × Team) := s.teams.filter fun e => e.2.lead == lead
def State.modCluster (s : State) (lead : Nat) (f : Team → Team) : State :=
  (s.clusterOf lead).foldl (fun s e => s.modTeam e.1 f) s

/-! ## Records (R289, R307 to R310) -/

/-- DIST.CLOCK (R287, R289). -/
def State.distClock (s : State) : Nat := (s.cycle - s.dist.since) / 2

/-- Whether the log has room for n records (R310); without a log none is written (R289). -/
def State.logRoom (s : State) (n : Nat) : Bool :=
  decide (s.dist.logCap = 0) || decide ((s.dist.logWr - s.dist.logRd).toNat + n ≤ s.dist.logCap.toNat)
def State.logFull (s : State) : Bool := !(s.logRoom 1)

/-- A decision record (R307). -/
structure Decision where
  kind : Nat
  reason : Nat
  queue : Nat
  seq : Word
  team : Nat
  core : Nat := 0xFFFF
  actor : Nat
  sched : Nat := 0xFF
  detail : Nat := 0
deriving DecidableEq, Repr

def Decision.bytes (d : Decision) (time : Nat) : List Byte :=
  leBytes 8 time ++ leBytes 2 d.queue ++ leBytes 1 d.kind ++ leBytes 1 d.reason ++ leBytes 4 d.seq.toNat ++
    leBytes 4 d.team ++ leBytes 2 d.core ++ leBytes 1 d.actor ++ leBytes 1 d.sched ++ leBytes 8 d.detail

/-- A counter of the block raised by 1 (R309). -/
def State.countDecision (s : State) (kind reason : Nat) : State :=
  let a := s.dist.cntBase.toNat + 8 * (16 * kind + reason)
  if s.ownPackage a then (s.hwCount a 8).1 else s

/-- One record written in tide order, then its counter (R307, R309); vector 2 once the log is full (R355). -/
def State.decide' (s : State) (d : Decision) : State :=
  let n := s.dist.logWr.toNat
  let cap := s.dist.logCap.toNat
  if cap = 0 then s
  else
    let s := s.hwWrite (s.dist.logBase.toNat + 32 * (n % cap)) (d.bytes s.distClock)
    let s := s.modDist fun x => { x with logWr := x.logWr + 1 }
    let s := s.countDecision d.kind d.reason
    if s.logFull then s.raiseVector 2 else s

/-- The ABORT records of a resident cluster, in rank order (R313). -/
def State.abortRecords (s : State) (lead reason actor : Nat) : State :=
  (s.clusterOf lead).foldl (fun s e =>
    match s.packet? e.2.pid with
    | none => s
    | some pk => s.decide' { kind := 4, reason := reason, queue := pk.queue, seq := pk.seq, team := e.2.index,
                             core := e.2.core, actor := actor, detail := e.1 }) s

end Sys2Proof.Machine
end

