-- ==== Sys2Proof/Machine/Ops.lean ====
section
/-!
DEFINITION. The shared operations of every instruction: the order of checks of R102, lookahead and write hazards (R88 to
R91, R249), latch deposits (R94), the end of a run (R36, R37), stalls, taking a trap (R324) and returning from one (R331),
barriers' completion (R232), and the end of a group (R19).
-/
namespace Sys2Proof.Machine

/-! ## Runs (R36, R37) -/

/-- The end of a run: latches invalid, fetched words dropped, kept writes landed (R36, R37, R178). -/
def Group.endRun (g : Group) : Group := ({ g with latches := [], lptr := 0, pos := 0, ibuf := none }).landAll
/-- The tile writes that waited for the end of a run of a group land (R178). -/
def State.landTiles (s : State) (gid : Nat) : State :=
  match s.group? gid with
  | none => s
  | some g => if (s.team? g.team).all fun t => t.tileIn.isEmpty then s else s.modTeam g.team Team.landTiles
def State.endRun (s : State) (gid : Nat) : State :=
  (({ s with runs := s.runs.filter fun x => x != gid }).modGroup gid Group.endRun).landTiles gid
/-- A run that goes on: another scheduler's group may issue next. -/
def State.rotate (s : State) : State :=
  { s with runs := match s.runs with
      | [] => []
      | g :: r => r ++ [g] }

/-! ## Traps (R320 to R326) -/

def causeCode : Cause → Nat
  | .illegalInstruction => 1 | .illegalOperand => 2 | .lookaheadViolation => 3 | .rangeConflict => 4 | .pageFault => 5
  | .accessViolation => 6 | .cellType => 7 | .denseFallback => 8 | .poolExhausted => 9 | .queueMisuse => 10
  | .breakpoint => 11 | .machineCheck => 12

/-- SYS.TCAUSE (R321). -/
def trapWord (t : TrapInfo) : DWord :=
  BitVec.ofNat 64 (t.imm.toNat * 2 ^ 12 + t.detail.toNat * 2 ^ 8 + t.access.toNat * 2 ^ 6 +
    (if t.src then 32 else 0) + causeCode t.cause)

/-- Whether a register of the group is pending (R88, R93). -/
def Group.pending (g : Group) : Bool := g.pends.any fun p => !p.done

/-- The lanes SYS.TMASK reports (R323): the trap's own, else the active lanes, else the live ones. -/
def trapMask (t : TrapInfo) (g : Group) : Word :=
  match t.lanes with
  | some m => m
  | none => if g.mask &&& g.live = 0 then g.live else g.mask &&& g.live

/-- The trap registers and the jump to the handler (R324); what a pop that did not perform has refilled is undone (R26). -/
def Group.enterTrap (g : Group) (t : TrapInfo) : Group :=
  let g := g.unpop
  { g with
    tpc := g.pc, tcause := trapWord t, tmask := trapMask t g,
    taddr := sputs 0 [] t.addr, tpte := sputs 0 [] t.pte,
    tsave := BitVec.ofNat 64 (g.depth * 2 ^ 32 + g.mask.toNat),
    mask := trapMask t g, hmode := true, pc := g.tvec,
    pends := [], walkFaults := [], mcs := g.dueMcs, trapped := none, stall := none }

/-- The payload of a DOUBLETRAP or HALT message (R357): the second trap's registers, then the first's. -/
def Group.reportOf (g : Group) (cause : DWord) (mask : Word) : List Byte :=
  leDwords [g.pc, cause] ++ leWords [mask] ++ leDwords [g.tpc, g.tcause] ++ leWords [g.tmask]

/-- A team, with its cluster, is ended as by ABORT, without a hart (R299, R326, R332): the records, then the stop; the report
is posted at its end. -/
def State.selfAbort (s : State) (h ty : Nat) (payload : List Byte) : State :=
  match s.team? h with
  | none => s
  | some t =>
    match t.life with
    | .ending => s
    | .aborting _ _ => s
    | _ =>
      let s := s.abortRecords t.lead 10 0x40
      (s.modCluster t.lead fun u => { u with life := .aborting none 10 }).modTeam h fun u =>
        { u with report := some (ty, payload) }
/-- Whether the log has room for those records (R310). -/
def State.abortRoom (s : State) (h : Nat) : Bool :=
  match s.team? h with
  | none => true
  | some t => s.logRoom (s.clusterOf t.lead).length

/-- A group's monitor entry is released (R201). -/
def State.dropMonitor (s : State) (gid : Nat) : State :=
  ({ s with monitors := s.monitors.filter fun m => m.group != gid }).modGroup gid fun g =>
    { g with waitMon := false, waitPred := none }

/-- A group's double trap or HALT ends its team with a report, once the log has room for the records; until then the group stays
where it is and runs no more (R310, R326, R332; notes/assumptions/66). -/
def State.reportEnd (s : State) (gid : Nat) (g : Group) (ty : Nat) (report : List Byte) : State :=
  if s.abortRoom g.team then s.selfAbort g.team ty report
  else s.modGroup gid fun x => { x with doom := some (ty, report) }

/-- Taking a trap: the one operation that every cause goes through (R324, R326). The group's run ends; with registers
pending the trap waits for them (R93); in handler mode it is a double trap, which writes no TRAP record: R363 and R367 name the
record of a trap that is entered (notes/assumptions/132). -/
def State.takeTrap (s : State) (gid : Nat) (t : TrapInfo) : State :=
  let s := (s.endRun gid).dropMonitor gid
  match s.group? gid with
  | none => s
  | some g =>
    if g.pending then s.setGroup gid { g with trapped := some { t with lanes := some (trapMask t g) } }
    else if g.hmode then
      (s.setGroup gid { g with trapped := none }).reportEnd gid g 1 (g.reportOf (trapWord t) (trapMask t g))
    else
      let s := s.setGroup gid (g.enterTrap t)
      match s.ctx? gid with
      | some c => if s.armed c.pk 3 then s.traceRec c 2 (causeCode t.cause) g.pc else s
      | none => s

/-- TRET (R331); nothing is pending after it (R93). -/
def Group.trapReturn (g : Group) : Group :=
  { g with mask := g.tsave.lo &&& g.live, hmode := false, pc := g.tpc, pends := [] }

/-- A trap the instruction causes, not a lane (R323). -/
def trapOf (c : Cause) : TrapInfo := { cause := c }
def illegalInstruction : TrapInfo := trapOf .illegalInstruction
def illegalOperand : TrapInfo := trapOf .illegalOperand

/-! ## What an instruction declares, and what it did -/

/-- The declaration of an instruction form: what steps 2 to 4 of R102, the hazards and the latch look at. -/
structure Gate where
  hd : Hd
  size : Nat := 1                 -- positions filled (R88)
  long : Option (BitVec 4) := none -- LA of a long-latency form (R87)
  hold : Option Src := none       -- the source deposited (R94)
  rds : List Rd := []
  win : Option (Nat × Nat × Nat) := none
  wrs : List Wr := []
  exReads : List Reg := []        -- implicit operands (R89)
  guards : List (BitVec 3) := []  -- guard predicates of a pair word
  priv : Bool := false            -- R101
  noHandler : Bool := false       -- R325
  badOperand : Bool := false      -- a further failure of step 3
  mma : Option Nat := none        -- the tile an MMA accumulates into (R91)
  half : Bool := false            -- vector FP64 interval arithmetic (R39)
  memory : Bool := false          -- a memory access, which waits for earlier ones (R36)
  memCode : Nat := 12             -- the code that wait is charged under (R366)
  target : Option Src := none     -- a computed target (R86, R120)
  drains : Bool := false          -- waits until nothing is pending (R93)
  whole : Bool := false           -- acts on the whole group, whatever M (R121)
  zs : List Nat := []             -- tiles that must be allocated (R241)
  slot : Option Nat := none       -- scale slot that must be held (R240)
  uncharged : Bool := false       -- its reads are the engine's (R249)
deriving Repr

/-- What an instruction did when it performed. -/
structure Perf where
  s : State
  w : Writes := {}
  jump : Option DWord := none     -- a taken control transfer (R36)
  endRun : Bool := false
  wait : Option Stall := none     -- a wait that begins after it has performed
  outstanding : Nat := 0          -- replies awaited (R208)
  pend : Nat := 0                 -- number of the pending entry that an event completes
  engine : Bool := false
  remote : Bool := false
  lines : List (Nat × Nat) := []  -- lane and line of data read at a home (R328)
deriving Repr

inductive Res where
  | ok (p : Perf)
  | trap (t : TrapInfo) (s : State)
  | stall (w : Stall) (s : State)
deriving Repr

/-- HOLD's source among the three fields (R94). -/
def holdSrc (h : Hold) (a b c : Option Src) : Option Src :=
  match h with
  | .none => none
  | .a => a
  | .b => b
  | .c => c

def regB : SrcB → Option Src
  | .reg a => some a
  | .win _ _ => none

def guardRegs : Guard → List Reg
  | .always => []
  | .on p _ => [.p p.toNat]

/-- Every register a word reads (R89). -/
def Gate.reads (i : Gate) : List Reg :=
  guardRegs i.hd.g ++ (i.guards.map fun p => Reg.p p.toNat) ++ i.rds.flatMap Rd.regs ++ i.exReads
/-- Every register a word writes. -/
def Gate.writes (i : Gate) : List Reg := i.wrs.flatMap Wr.regs

/-- Step 2: privilege (R101, R325). -/
def Gate.privOk (i : Gate) (g : Group) : Bool := (!i.priv || g.hmode) && !(i.noHandler && g.hmode)

/-- Step 3 but for a computed target (R47, R77, R78, R83, R116). -/
def Gate.fieldsOk (i : Gate) (c : Ctx) : Bool :=
  i.rds.all (Rd.ok c.pk.regs c.g) && i.wrs.all (Wr.ok c.pk.regs c.pk.acc) && !i.badOperand && i.zs.all (fun z => decide (z < c.pk.acc)) &&
  (match i.slot with
    | some n => decide (8 * n < c.pk.acc)
    | none => true) &&
  (match i.win with
    | some (_, off, n) => decide (off + n ≤ 0x20000)
    | none => true)
/-- Step 3 of a computed target, judged by what its registers hold (R86; notes/assumptions/32). -/
def Gate.targetOk (i : Gate) (c : Ctx) : Bool :=
  match i.target with
  | some a => decide ((c.g.src64 a 0).toNat % 8 = 0)
  | none => true
/-- Step 3 (R86, R102). -/
def Gate.operandsOk (i : Gate) (c : Ctx) : Bool := i.fieldsOk c && i.targetOk c

/-- Whether an instruction of a size lies inside a window (R88). -/
def Pend.covers (p : Pend) (size : Nat) : Bool := decide (size ≤ p.left)

/-- A pending tile that an MMA may name (R91). -/
def Gate.mmaFree (i : Gate) (p : Pend) (r : Reg) : Bool :=
  match i.mma with
  | some z => p.engine && decide (r = .z z)
  | none => false

/-- Step 4: a read inside a window (R89). -/
def Gate.violates (i : Gate) (g : Group) : Bool :=
  g.pends.any fun p => p.covers i.size && i.reads.any fun r =>
    p.regs.contains r && !p.wrote.contains r && !(i.mmaFree p r && !i.rds.any fun x => x.regs.contains r)

/-- An MMA that names a tile pending from earlier MMAs does not wait for them (R91). -/
def Gate.mmaExempt (i : Gate) (p : Pend) : Bool :=
  match i.mma with
  | some z => p.engine && p.regs.contains (.z z)
  | none => false

/-- The wait of position n + 1 (R88). -/
def Gate.lookaheadWait (i : Gate) (g : Group) : Bool :=
  g.pends.any fun p => !p.done && !(p.covers i.size) && !p.past && !(i.mmaExempt p)

/-- The wait behind a pending write or an unread fragment (R90, R249). -/
def Gate.writeWait (i : Gate) (g : Group) : Bool :=
  i.writes.any fun r =>
    (g.pends.any fun p => !p.done && p.regs.contains r && !(i.mmaFree p r)) || g.unread.any fun u => decide (u.2 = r)

/-- Whether the next memory access must wait (R180, R195, R252, R254, R264, R278). -/
def Group.memBusy (g : Group) : Bool := decide (g.reds ≠ 0) || decide (g.rems ≠ 0) || decide (g.xfers ≠ 0)

/-- The outcome of the checks before an instruction's own. -/
inductive GateRes where
  | go
  | trap (t : TrapInfo)
  | stall (w : Stall)
deriving DecidableEq, Repr

/-- Steps 2 to 4 of R102 and the waits that hold an instruction from issuing. A transfer's target is read once no result it must
wait for is outstanding (R88; notes/assumptions/32). -/
def Gate.check (i : Gate) (c : Ctx) (act : Word) : GateRes :=
  let lanes' := if act = 0 then c.g.live else act
  if !(i.privOk c.g) then .trap { illegalInstruction with lanes := some lanes' }
  else if !(i.fieldsOk c) then .trap { illegalOperand with lanes := some lanes' }
  else if i.target.isSome && i.lookaheadWait c.g then .stall .lookahead
  else if !(i.targetOk c) then .trap { illegalOperand with lanes := some lanes' }
  else if i.violates c.g then .trap { trapOf .lookaheadViolation with lanes := some lanes' }
  else if i.lookaheadWait c.g then .stall .lookahead
  else if i.drains && c.g.pending then .stall .drain
  else if (decide (act ≠ 0) || i.whole) && i.writeWait c.g then .stall .writewait
  else if i.memory && decide (act ≠ 0) && c.g.memBusy then .stall (.memorder i.memCode)
  else .go

/-! ## Constant windows (R83, R84) -/

inductive WinRes where
  | words (l : List Word)
  | trap (t : TrapInfo)
  | stall (w : Stall) (s : State)
deriving Repr

/-- A line of the constant cache (R83). -/
def State.constLine (s : State) (core loc : Nat) : Option (List Byte) := sfind (s.coreAt core).consts (loc / 128)
/-- Lines the cache of 64 KiB holds (R3). -/
def constLines : Nat := 512
/-- A line filled on a miss: a load at the home, which merges the line's partials (R196). A full cache drops one of the lines
that are not in `keep`, an open choice (R3). -/
def State.fillConst (s : State) (core loc : Nat) (keep : List Nat) : State :=
  let l := (s.coreAt core).consts
  let out := (l.map Prod.fst).filter fun k => !(keep.contains k)
  let f := s.fresh
  let s := if l.length < constLines then s
    else f.2.modCore core fun k => { k with consts := sdel k.consts (out.getD ((Config.openWord f.1).toNat % out.length) 0) }
  let s := s.settle (leaseKey (s.fwd loc)) 0
  s.modCore core fun k => { k with consts := sins k.consts (loc / 128) (s.bytesAt (s.fwd (loc / 128 * 128)) 128) }

/-- A byte of a cached line: where a store has changed it since, the old or the new value, which is open (R84). -/
def State.constByte (s : State) (line : List Byte) (l : Nat) : Byte :=
  let old := line.getD (l % 128) 0
  let new := s.byteAt (s.fwd l)
  if old = new then old else if Config.constFresh s.cycle (l / 4) then new else old
/-- Bytes through the constant cache; none where a line is missing. -/
def State.constBytes (s : State) (core : Nat) (locs : List Nat) : Option (List Byte) :=
  locs.mapM fun l => (s.constLine core l).map fun d => s.constByte d l
/-- The lines of some places filled for a group; those a request itself names stay. A lost line raises Machine Check (R378). -/
def State.fillConsts (s : State) (c : Ctx) (locs : List Nat) : State :=
  let keep := locs.map fun l => l / 128
  locs.foldl (fun s l =>
    if (s.constLine c.t.core l).isSome then s else (s.fillConst c.t.core l keep).poisonCheck c l) s

def State.readWindow (s : State) (c : Ctx) (act : Word) (w : Option (Nat × Nat × Nat)) : WinRes :=
  match w with
  | none => .words []
  | some (k, off, n) =>
    let va := (c.pk.kwin.getD k 0).toNat + 4 * off
    match s.check24 c .window 1 1 ((List.range (4 * n)).map fun i => (i, (va + i) % 2 ^ 64)) with
    | .trap t => .trap (onceFor t act)
    | .miss vas => .stall .translate (s.startWalks c vas)
    | .ok l =>
      let locs := l.map fun e => e.2.2.loc
      match s.constBytes c.t.core locs with
      | some bs => .words ((List.range n).map fun i => wordOf bs (4 * i))
      | none => .stall .constant (s.fillConsts c locs)

/-! ## Performing and finishing -/

/-- Issue cycles (R39, R96). -/
def Gate.cost (i : Gate) : Nat :=
  1 + (if i.uncharged then 0 else bankExtra (i.rds.flatMap Rd.banks ++ (i.exReads.filterMap fun r => match r with
    | .v n => some (0, n)
    | _ => none))) + (if i.half then 1 else 0)

/-- A pending entry after an instruction of a size and with some writes (R88, R89). -/
def Pend.tick (size : Nat) (ws : List Reg) (p : Pend) : Pend :=
  { p with
    left := p.left - size, past := p.past || !(p.covers size),
    wrote := if p.covers size then p.wrote ++ ws.filter p.regs.contains else p.wrote }

/-- Entries whose window is over and whose registers are written are dropped. -/
def livePends (l : List Pend) : List Pend := l.filter fun p => !(p.done && decide (p.left = 0))

/-- The latch deposit of an instruction at the position it fills (R94, R95). -/
def Group.deposit (g : Group) (old : Group) (h : Option Src) : Group :=
  match h with
  | none => g
  | some a =>
    { g with latches := sins g.latches g.lptr ⟨lanes.map fun l => old.src32 a l, old.pos + 1⟩, lptr := (g.lptr + 1) % 3 }

/-- The pending entry of a long-latency instruction (R88). -/
def newPend (i : Gate) (p : Perf) (la : BitVec 4) (bank : Bool) : Pend :=
  { id := p.pend, bank := bank, regs := i.writes, writes := p.w, left := la.toNat, wrote := [], outstanding := p.outstanding,
    engine := p.engine, remote := p.remote, done := false, lines := p.lines }

/-- A pending entry's result is written, and its registers are pending no longer (R88). -/
def Group.writeResult (g : Group) (id : Nat) : Group :=
  match g.pends.find? fun p => p.id == id && !p.done with
  | none => g
  | some p =>
    let g := { Group.apply { g with hmode := p.bank } p.writes with hmode := g.hmode }
    { g with pends := livePends (g.pends.map fun q => if q.id = id then { q with done := true } else q) }
/-- An event supplies a pending entry's values and writes them. -/
def Group.supply (g : Group) (id : Nat) (w : Writes) : Group :=
  Group.writeResult { g with pends := g.pends.map fun q =>
    if q.id = id then { q with writes := w, outstanding := 0 } else q } id

/-- The group after an instruction performed: windows, writes or a pending entry, the latch, the next pc and position. -/
def Group.after (g old : Group) (i : Gate) (act : Word) (p : Perf) : Group :=
  let ws := if decide (act = 0) && !i.whole then [] else i.writes
  let g := { g with pends := livePends (g.pends.map (Pend.tick i.size ws)) }
  let g := match i.long with
    | some la => if act = 0 then g else { g with pends := g.pends ++ [newPend i p la old.hmode] }
    | none => g.apply p.w
  let g := g.deposit old i.hold
  { g with
    pc := p.jump.getD (g.pc + 8), pos := g.pos + i.size, walkFaults := [], stall := p.wait, poolTry := false,
    barHere := false, redo := false, unpopped := none }

/-- Whether the run ends after an instruction (R36). -/
def runEnds (i : Gate) (p : Perf) (g : Group) : Bool :=
  i.hd.b || p.endRun || p.jump.isSome || p.wait.isSome || decide (24 ≤ g.pos) || g.ended || decide (g.ibuf = some [])

/-- A long-latency instruction whose entry no event completes by number gets a number of its own. -/
def Perf.numbered (p : Perf) (i : Gate) : Perf :=
  if i.long.isSome && decide (p.pend = 0) then { p with pend := p.s.newId.1, s := p.s.newId.2 } else p

/-- The state after an instruction performed. -/
def State.finish (gid : Nat) (old : Group) (i : Gate) (act : Word) (p : Perf) : State :=
  let p := p.numbered i
  let s := { p.s with cycle := p.s.cycle + i.cost }
  match s.group? gid with
  | none => { s with runs := s.runs.filter fun x => x != gid }
  | some g =>
    let g' := g.after old i act p
    let s := s.setGroup gid g'
    if runEnds i p g' then s.endRun gid else s.rotate

/-- A stall: the run ends, the instruction has performed nothing and will issue again (R36). -/
def State.stallAt (s : State) (gid : Nat) (w : Stall) : State :=
  (s.modGroup gid fun g => { g with stall := some w }).endRun gid

/-- What an instruction's own checks and effect see: the state, its context, the active lanes, the window words. -/
abbrev Body := State → Ctx → Word → List Word → Res

/-- An instruction's answer once it may issue: its window operand's, else its own checks' and effect's. -/
def Gate.answer (i : Gate) (body : Body) (s : State) (c : Ctx) (act : Word) : Res :=
  match s.readWindow c act (if act = 0 then none else i.win) with
  | .trap t => .trap t s
  | .stall w s' => .stall w s'
  | .words ws => body s c act ws

/-- A wait for earlier accesses is charged to the lower code of another cause of the stall (R366). -/
def Stall.charged (w : Stall) (r : Res) : Stall :=
  match w, r with
  | .memorder k, .stall x _ => .memorder (min k x.reason)
  | _, _ => w

/-- Whether a stall's own event reads or writes memory in tide order: it waits for the group's earlier accesses (R195, R335). -/
def Stall.accesses : Stall → Bool
  | .translate | .divSpill | .divRefill | .pool | .poolRefill _ => true
  | _ => false

/-- The shared path of every instruction word: checks in the order of R102, then its effect. -/
def issue (i : Gate) (body : Body) (s : State) : Host.Outcome State Fault Refusal :=
  match s.runs.head? with
  | none => .fault .noGroup
  | some gid =>
    match s.ctx? gid with
    | none => .fault .brokenState
    | some c =>
      let act := c.g.active i.hd.g
      match i.check c act with
      | .trap t => .next (s.takeTrap gid t)
      | .stall w => .next (s.stallAt gid (w.charged (i.answer body s c act)))
      | .go =>
        match i.answer body s c act with
        | .trap t s' => .next (s'.takeTrap gid t)
        | .stall w s' =>
          if w.accesses && c.g.memBusy then .next (s.stallAt gid (.memorder (min 12 w.reason)))
          else .next (s'.stallAt gid w)
        | .ok p => .next (State.finish gid c.g i act p)

/-- A word whose declaration depends on the launch and on its group. -/
def issueBy (gate : Ctx → Gate) (body : Body) (s : State) : Host.Outcome State Fault Refusal :=
  match s.runs.head? with
  | none => .fault .noGroup
  | some gid =>
    match s.ctx? gid with
    | none => .fault .brokenState
    | some c => issue (gate c) body s

/-- An effect that only writes registers. -/
def pureRes (f : Ctx → Word → List Word → Writes) : Body := fun s c act ws => .ok { s := s, w := f c act ws }

/-- A trap of an instruction's own, with its active lanes (R323). -/
def ownTrap (c : Ctx) (act : Word) (k : Cause) (detail : BitVec 4 := 0) (imm : BitVec 20 := 0) : TrapInfo :=
  { cause := k, detail := detail, imm := imm, lanes := some (if act = 0 then c.g.live else act) }

/-! ## Tags (R224, R282) -/

def Team.tag (t : Team) (n : Nat) : Tag := sget {} t.tags n
def State.setTag (s : State) (h n : Nat) (x : Tag) : State := s.modTeam h fun t => { t with tags := sput {} t.tags n x }

/-- Whether a Dense Fallback of a tag is to be delivered to a group: one of its own gathers', or one a restore has left to the
first group that asks (R282). -/
def Tag.denseFor (x : Tag) (idx : Nat) : Bool := x.denses.contains (some idx) || x.denses.contains none
/-- The tag once that Dense Fallback is delivered. -/
def Tag.took (x : Tag) (idx : Nat) : Tag :=
  { x with denses := if x.denses.contains (some idx) then x.denses.erase (some idx) else x.denses.erase none }
/-- The Dense Fallback trap of a tag, consumed (R282). -/
def denseTrap (s : State) (c : Ctx) (act : Word) (n : Nat) : Res :=
  .trap (ownTrap c act .denseFallback 0 (BitVec.ofNat 20 n)) (s.setTag c.g.team n ((c.t.tag n).took c.g.idx))

/-- A Dense Fallback pending for a group, delivered at the EXIT of its last live lane (R282). -/
def exitDense (c : Ctx) (act : Word) : Option Nat :=
  if c.g.live &&& ~~~act = 0 then (List.range 64).find? fun n => (c.t.tag n).denseFor c.g.idx else none

/-! ## Barriers (R232 to R234) -/

/-- The teams a barrier spans: one, or the cluster's resident ones (R234). -/
def State.barTeams (s : State) (t : Team) (cluster : Bool) : List Team :=
  if cluster then (s.teams.filter fun e => e.2.lead == t.lead).map Prod.snd else [t]

/-- The bit of a group in an arrival mask. -/
def barBit (t : Team) (idx : Nat) (cluster : Bool) : Nat := (if cluster then 32 * t.rank else 0) + idx

/-- The groups that have not ended, as bits of an arrival mask. -/
def State.barLive (s : State) (t : Team) (cluster : Bool) : List Nat :=
  (s.barTeams t cluster).flatMap fun u => u.gids.filterMap fun g =>
    match s.group? g with
    | some x => if x.ended then none else some (barBit u x.idx cluster)
    | none => none

def State.setBarrier (s : State) (h : Nat) (t : Team) (cluster : Bool) (id : Nat) (b : Barrier) : State :=
  if cluster then s.modTeam t.lead fun u => { u with cbars := sput {} u.cbars id b }
  else s.modTeam h fun u => { u with bars := sput {} u.bars id b }

/-- Release of the groups that wait for a completed phase (R232). -/
def State.release (s : State) (t : Team) (cluster : Bool) (id : Nat) (tide : Nat) : State :=
  (s.barTeams t cluster).foldl (fun s u => u.gids.foldl (fun s g => s.modGroup g fun x =>
    match x.stall with
    | some (.barrier i) => if i = id ∧ !cluster then { x with stall := none, tide := max x.tide tide } else x
    | some (.clusterBarrier i) => if i = id ∧ cluster then { x with stall := none, tide := max x.tide tide } else x
    | some (.barrierRepeat i _ k) => if i = id ∧ k = cluster then { x with stall := none } else x
    | _ => x) s) s

/-- Completion of a phase once its condition holds (R232). -/
def State.settleBarrier (s : State) (h : Nat) (cluster : Bool) (id : Nat) : State :=
  match s.team? h with
  | none => s
  | some t =>
    let b := s.barrier t cluster id
    let live := s.barLive t cluster
    let full := match b.need with
      | none => false
      | some 0 => !live.isEmpty && live.all fun i => b.arrived.testBit i
      | some n => decide (n ≤ b.count)
    if decide (b.count ≠ 0) && full then
      (s.setBarrier h t cluster id { ph := b.ph + 1, rel := b.tide, relMax := max b.relMax b.tide }).release t cluster id
        b.tide
    else s

/-- Withdrawal of an ended group's arrivals under c = 0, and the conditions re-evaluated (R232). -/
def State.withdraw (s : State) (h idx : Nat) (cluster : Bool) (ids : Nat) : State :=
  (List.range ids).foldl (fun s id =>
    match s.team? h with
    | none => s
    | some t =>
      let b := s.barrier t cluster id
      let bit := barBit t idx cluster
      let s := if b.need = some 0 ∧ b.arrived.testBit bit then
          s.setBarrier h t cluster id { b with arrived := b.arrived - 2 ^ bit, count := b.count - 1 }
        else s
      s.settleBarrier h cluster id) s

/-! ## The end of a group (R19, R299) -/

/-- Whether the open phase of a barrier counts every group of a team: c is 0 or the team's group count (R232, R370). -/
def Barrier.counts (b : Barrier) (groups : Nat) : Bool := decide (b.need = some 0) || decide (b.need = some groups)

/-- Whether a stalled group waits at a barrier whose count includes another group of its team (R232 to R234, R370). -/
def State.waitsFor (s : State) (c : Ctx) : Stall → Bool
  | .barrier id => (s.barrier c.t false id).counts c.pk.groups
  | .barrierValue id _ => (s.barrier c.t false id).counts c.pk.groups
  | .barrierRepeat id _ false => (s.barrier c.t false id).counts c.pk.groups
  | .clusterBarrier _ => true
  | .barrierRepeat _ _ true => true
  | _ => false

/-- Another group of the team waits at a barrier whose count includes an ending group (R370). -/
def State.exitCheck (s : State) (c : Ctx) : Bool :=
  c.t.gids.any fun g => decide (g ≠ c.gid) &&
    (match (s.group? g).map Group.stall with
      | some (some w) => s.waitsFor c w
      | _ => false)

/-- Ask for a stop of a team and its cluster (R368); the stop itself is TEAM_STOP. -/
def State.askStop (s : State) (h : Nat) (by' : StopTrigger) : State :=
  match s.team? h with
  | none => s
  | some t => s.modCluster t.lead fun u =>
      if u.stopped.isNone ∧ u.life = .run then { u with stopped := some by', dumped := false } else u

/-- A group ends: it leaves arbitration, barriers are re-evaluated, and the team's cluster ends with its last group (R19, R299). -/
def State.endGroup (s : State) (gid : Nat) : State :=
  match s.ctx? gid with
  | none => s
  | some c =>
    let s := if s.armed c.pk 1 ∧ s.exitCheck c then
        let s := s.traceRec c 4 0 c.g.pc
        if s.armed c.pk 2 then s.askStop c.g.team .check else s
      else s
    let s := s.modGroup gid fun g => { g with ended := true }
    let s := s.modCore c.t.core fun k => { k with age := k.age.map fun l => l.filter fun x => x != gid }
    let s := { s with monitors := s.monitors.filter fun m => m.group != gid }
    let s := s.withdraw c.g.team c.g.idx false 16
    let s := s.withdraw c.g.team c.g.idx true 4
    if (s.clusterOf c.t.lead).all fun e => e.2.gids.all fun g => ((s.group? g).map Group.ended).getD true then
      s.modCluster c.t.lead fun t => match t.life with
        | .aborting h r => { t with life := .aborting h r }
        | _ => { t with life := .ending }
    else s

end Sys2Proof.Machine
end

