-- ==== Sys2Proof/Machine/Flags.lean ====
section
/-!
DEFINITION. Predicate computations: the three-valued logic of R126 on codes and across lanes, the values PMOVP writes
(R127), counts and masks of a value, and the comparisons that write predicates (R139, R155). No instruction sets a flag
(R115); predicates are the machine's flags.
-/
namespace Sys2Proof.Machine

/-- Kleene's AND, OR, XOR and NOT (R126). -/
def triAnd : Tri → Tri → Tri
  | .f, _ => .f
  | _, .f => .f
  | .t, .t => .t
  | _, _ => .u
def triOr : Tri → Tri → Tri
  | .t, _ => .t
  | _, .t => .t
  | .f, .f => .f
  | _, _ => .u
def triNot : Tri → Tri
  | .f => .t
  | .t => .f
  | .u => .u
def triXor : Tri → Tri → Tri
  | .u, _ => .u
  | _, .u => .u
  | a, b => if a = b then .f else .t

/-- PKNOWN and PRESOLVE (R127). -/
def triKnown : Tri → Tri
  | .u => .f
  | _ => .t
def triResolve (t : Bool) : Tri → Tri
  | .u => if t then .t else .f
  | x => x

/-- PMOVP's value of bits [1:0] (R127). -/
def triOfWord (x : Word) : Tri :=
  if x.toNat % 4 = 0 then .f else if x.toNat % 4 = 1 then .t else .u

/-- T or F (R139, R155). -/
def triBool (b : Bool) : Tri := if b then .t else .f

/-- A predicate source in a lane (R125). -/
def Group.tri (g : Group) (p : BitVec 3) (l : Nat) : Tri := triOf (g.getP p.toNat l)

/-- PANY and PALL over the active lanes (R127). -/
def triAny (l : List Tri) : Tri := l.foldl triOr .f
def triAll (l : List Tri) : Tri := l.foldl triAnd .t

/-- The active lanes whose predicate has a value (PCOUNT, PMASK: R127). -/
def triMask (g : Group) (act : Word) (p : BitVec 3) (v : Tri) : Word :=
  maskOf fun l => act.getLsbD l && decide (g.tri p l = v)

/-- Predicate writes in the active lanes. -/
def triWrites (act : Word) (p : BitVec 3) (f : Nat → Tri) : Writes := pWrites act p.toNat fun l => triCode (f l)

end Sys2Proof.Machine
end

