-- ==== Sys2Proof/Machine/LoadStore.lean ====
section
/-!
DEFINITION. The load and store instructions, MAJ 0x0D (R204 to R217).
-/
namespace Sys2Proof.Machine

/-! ## Widths and addresses (R204, R205) -/

def ldBytes : LdW → Nat
  | .u8 | .s8 => 1
  | .u16 | .s16 | .pbf => 2
  | .w | .ps => 4
  | .x | .pd => 8
  | .q => 16
def ldWr (d : Dst) : LdW → Wr
  | .x => .g64 d
  | .q => .dst d 4 4
  | .pbf | .ps => .iv .s d
  | .pd => .iv .d d
  | _ => .g32 d
def ldWords : LdW → Nat
  | .x | .pbf | .ps => 2
  | .q | .pd => 4
  | _ => 1
/-- Word k of what a load writes for its bytes (R205). -/
def ldWord (fm : LdW) (bs : List Byte) (k : Nat) : Word :=
  match fm with
  | .s8 => (bs.getD 0 0).signExtend 32
  | .s16 => (BitVec.ofNat 16 (leNat bs)).signExtend 32
  | .pbf => ivWord .s (Ival.ofPt b32 (bf16.dec (leNat bs))) k
  | .ps => ivWord .s (Ival.ofPt b32 (b32.dec (leNat bs))) k
  | .pd => ivWord .d (Ival.ofPt b64 (b64.dec (leNat bs))) k
  | _ => wordOf bs (4 * k)

def stSize : StW → Nat
  | .u8 => 1
  | .u16 => 2
  | .w => 4
  | .x => 8
  | .q => 16
def stRd (b : Src) : StW → Rd
  | .x => .w64 b
  | .q => .quad b
  | _ => .w32 b
/-- The bytes a store writes for a lane (R205). -/
def stData (fm : StW) (g : Group) (b : Src) (l : Nat) : List Byte :=
  (leWords ((List.range 4).map fun k => g.src b l k)).take (stSize fm)

/-- disp × size (R204). -/
def dispBytes (disp : BitVec 6) (size : Nat) : DWord := BitVec.ofInt 64 (disp.toInt * size)
/-- The effective address from a 64-bit base and a 32-bit offset (R204). -/
def eaLoad (g : Group) (a b : Src) (disp : BitVec 6) (size l : Nat) : Nat :=
  (g.src64 a l + (g.src32 b l).signExtend 64 + dispBytes disp size).toNat
def eaStore (g : Group) (a : Src) (disp : BitVec 6) (size l : Nat) : Nat := (g.src64 a l + dispBytes disp size).toNat
/-- The scratchpad address of LDS and STS (R213). -/
def eaScratch (g : Group) (a b : Src) (disp : BitVec 6) (size l : Nat) : Nat :=
  0xFFFE * 2 ^ 48 + (g.src32 a l + g.src32 b l + (dispBytes disp size).lo).toNat

/-! ## Loads and stores of checked lanes -/

/-- The lanes that perform an access: the lowest alone for a scalar destination (R207). -/
def loadLanes (act : Word) : Dst → List Nat
  | .v _ => lanesOf act
  | .s _ => (lanesOf act).take 1
def onceIf (d : Dst) (t : TrapInfo) (act : Word) : TrapInfo :=
  match d with
  | .v _ => t
  | .s _ => onceFor t act

/-- The bytes each lane loaded. -/
abbrev LaneBytes := List (Nat × List Byte)
def bytesOfLane (l : LaneBytes) (n : Nat) : List Byte := ((l.find? fun e => e.1 == n).map Prod.snd).getD []

/-- A checked load performed: the state, the replies awaited, the pending entry's number, each lane's bytes, and the lines read
at their homes. -/
def State.loadPlaces (s : State) (c : Ctx) (size : Nat) (l : List (Nat × Nat × Place)) :
    State × Nat × Nat × LaneBytes × List (Nat × Nat) :=
  let i := s.newId
  let r := i.2.loadLines c l (some i.1)
  (r.1.raiseTide c.gid r.2.1, r.2.2.1, i.1, l.map fun e => (e.1, r.1.get r.2.2.2 e.2.2 size), homeLanes r.2.2.2 l)

/-- A load: its checks, its accesses, and the words `f` makes of each lane's bytes (R206 to R208). -/
def loadRes (s : State) (c : Ctx) (act : Word) (rule : Rule) (size cnt : Nat) (d : Dst) (ea : Nat → Nat)
    (f : List Byte → Nat → Word) : Res :=
  if act = 0 then .ok { s := s }
  else match s.checkAll c rule size size ((loadLanes act d).map fun l => (l, ea l)) with
    | .trap t => .trap (onceIf d t act) s
    | .miss vas => .stall .translate (s.startWalks c vas)
    | .ok l =>
      let r := s.loadPlaces c size l
      .ok { s := r.1, w := dstWrites act d cnt fun n k => f (bytesOfLane r.2.2.2.1 n) k,
            outstanding := r.2.1, pend := r.2.2.1, lines := r.2.2.2.2 }

/-- A checked store performed: claims, bytes in ascending lane order, notices (R210). -/
def State.storePlaces (s : State) (c : Ctx) (l : List (Nat × Nat × Place)) (data : Nat → List Byte) : State :=
  let r := s.claimLines c l
  ((l.foldl (fun s e => s.put e.2.2 (data e.1)) r.1).wroteAll r.2.2 (l.map fun e => (e.2.2.loc, (data e.1).length))).raiseTide c.gid r.2.1

/-- A store: its checks, and its bytes in ascending lane order (R206, R210). -/
def storeRes (s : State) (c : Ctx) (act : Word) (size : Nat) (ea : Nat → Nat) (data : Nat → List Byte) : Res :=
  if act = 0 then .ok { s := s }
  else match s.checkAll c .st size size ((lanesOf act).map fun l => (l, ea l)) with
    | .trap t => .trap t s
    | .miss vas => .stall .translate (s.startWalks c vas)
    | .ok l => .ok { s := s.storePlaces c l data }

/-! ## The instructions -/

/-- LD (R209, R211, R212). -/
def ldGate (o : OpLd) : Gate :=
  { hd := o.h, long := some o.la, hold := holdSrc o.hold none (some o.b) none, rds := [.a64 o.a, .w32 o.b],
    wrs := [ldWr o.d o.w], memory := true }
def ldBody (o : OpLd) : Body := fun s c act _ =>
  loadRes s c act .ld (ldBytes o.w) (ldWords o.w) o.d (eaLoad c.g o.a o.b o.disp (ldBytes o.w)) (ldWord o.w)
def execLd (o : OpLd) (s : State) : Host.Outcome State Fault Refusal := issue (ldGate o) (ldBody o) s

/-- ST (R209 to R212). -/
def stGate (o : OpSt) : Gate :=
  { hd := o.h, hold := holdSrc o.hold none (some o.b) none, rds := [.a64 o.a, stRd o.b o.w], memory := true }
def stBody (o : OpSt) : Body := fun s c act _ =>
  storeRes s c act (stSize o.w) (eaStore c.g o.a o.disp (stSize o.w)) (stData o.w c.g o.b)
def execSt (o : OpSt) (s : State) : Host.Outcome State Fault Refusal := issue (stGate o) (stBody o) s

/-- LDS (R213). -/
def ldsGate (o : OpLd) : Gate :=
  { hd := o.h, long := some o.la, hold := holdSrc o.hold (some o.a) (some o.b) none, rds := [.w32 o.a, .w32 o.b],
    wrs := [ldWr o.d o.w], memory := true }
def ldsBody (o : OpLd) : Body := fun s c act _ =>
  loadRes s c act .ld (ldBytes o.w) (ldWords o.w) o.d (eaScratch c.g o.a o.b o.disp (ldBytes o.w)) (ldWord o.w)
def execLds (o : OpLd) (s : State) : Host.Outcome State Fault Refusal := issue (ldsGate o) (ldsBody o) s

/-- STS (R213). -/
def stsGate (o : OpSt) : Gate :=
  { hd := o.h, hold := holdSrc o.hold (some o.a) (some o.b) none, rds := [.w32 o.a, stRd o.b o.w], memory := true }
def stsBody (o : OpSt) : Body := fun s c act _ =>
  storeRes s c act (stSize o.w) (eaScratch c.g o.a .zero o.disp (stSize o.w)) (stData o.w c.g o.b)
def execSts (o : OpSt) (s : State) : Host.Outcome State Fault Refusal := issue (stsGate o) (stsBody o) s

/-- LDK's bytes, through the constant cache (R84, R214). -/
def ldkBody (o : OpLd) : Body := fun s c act _ =>
  if act = 0 then .ok { s := s }
  else
    let n := (ldBytes o.w)
    match s.checkAll c .ldk n n ((loadLanes act o.d).map fun l => (l, eaLoad c.g o.a o.b o.disp n l)) with
    | .trap t => .trap (onceIf o.d t act) s
    | .miss vas => .stall .translate (s.startWalks c vas)
    | .ok l =>
      let s := s.fillConsts c (l.map fun e => e.2.2.loc)
      let bs := l.map fun e => (e.1, (s.constBytes c.t.core ((List.range n).map fun i => e.2.2.loc + i)).getD [])
      .ok { s := s, w := dstWrites act o.d (ldWords o.w) fun i k => (ldWord o.w) (bytesOfLane bs i) k }
/-- LDK (R214). -/
def execLdk (o : OpLd) (s : State) : Host.Outcome State Fault Refusal := issue (ldGate o) (ldkBody o) s

/-- LDMRAD (R215). -/
def ldmradGate (o : OpLdMrad) : Gate :=
  { hd := o.h, long := some o.la, hold := holdSrc o.hold none (some o.b) none, rds := [.a64 o.a, .w32 o.b],
    wrs := [.iv o.w o.d], memory := true }
def ldmradBody (o : OpLdMrad) : Body := fun s c act _ =>
  let n := fwBytes o.w
  loadRes s c act .ld n (n / 2) o.d (eaLoad c.g o.a o.b o.disp n) fun bs k => ivWord o.w (mradDec o.w (leNat bs)) k
def execLdmrad (o : OpLdMrad) (s : State) : Host.Outcome State Fault Refusal := issue (ldmradGate o) (ldmradBody o) s

/-- STMRAD (R215). -/
def stmradBody (o : OpStMrad) : Body := fun s c act _ =>
  let n := fwBytes o.w
  storeRes s c act n (eaStore c.g o.a o.disp n) fun l => leBytes n (mradEnc o.w (ivOfWords o.w (c.g.src o.b l)))
def execStmrad (o : OpStMrad) (s : State) : Host.Outcome State Fault Refusal :=
  issue { hd := o.h, rds := [.a64 o.a, .iv o.w o.b], memory := true } (stmradBody o) s

/-- STP's source width, target format and bytes (R216). -/
def stpWidth : StpFmt → FW
  | .f32 | .bf => .s
  | .f64 | .f32d => .d
def stpTarget : StpFmt → Fmt
  | .f32 | .f32d => b32
  | .f64 => b64
  | .bf => bf16
def stpSize : StpFmt → Nat
  | .f32 | .f32d => 4
  | .f64 => 8
  | .bf => 2
/-- The bytes STP stores for an interval (R57, R216). -/
def stpBytes (f : StpFmt) (m : PtMode) (x : Ival) : List Byte :=
  leBytes (stpSize f) ((stpTarget f).encPt (x.take (stpWidth f) (stpTarget f) m))
def stpBody (o : OpStp) : Body := fun s c act _ =>
  storeRes s c act (stpSize o.fmt) (eaStore c.g o.a o.disp (stpSize o.fmt)) fun l =>
    stpBytes o.fmt o.mode (ivOfWords (stpWidth o.fmt) (c.g.src o.b l))
/-- STP (R216). -/
def execStp (o : OpStp) (s : State) : Host.Outcome State Fault Refusal :=
  issue { hd := o.h, rds := [.a64 o.a, .iv (stpWidth o.fmt) o.b], memory := true } (stpBody o) s

/-- The places PREF may bring into the L1: lanes whose address would fault bring nothing (R217). -/
def prefPlaces (s : State) (c : Ctx) (act : Word) (o : OpPref) : List (Nat × Nat × Place) :=
  (lanesOf act).flatMap fun l => match s.check24 c .pref 1 1 [(l, eaLoad c.g o.a o.b o.disp 4 l)] with
    | .ok r => r
    | _ => []
def prefBody (o : OpPref) : Body := fun s c act _ =>
  .ok { s := if o.sc then s else (s.readLines c (prefPlaces s c act o) none).1 }
/-- PREF (R217): the copies it asks for arrive as replies; the tidemark stays, and no lost line shows (R378). -/
def execPref (o : OpPref) (s : State) : Host.Outcome State Fault Refusal :=
  issue { hd := o.h, hold := holdSrc o.hold none (some o.b) none, rds := [.a64 o.a, .w32 o.b] } (prefBody o) s

end Sys2Proof.Machine
end

