-- ==== Sys2Proof/Machine/Atomic.lean ====
section
/-!
DEFINITION. The atomic and reduction instructions, MAJ 0x0E (R218 to R223), the commutative state (R195), and remote
accesses, which are performed when their acknowledgement arrives (R180, R361).
-/
namespace Sys2Proof.Machine

/-! ## One element -/

/-- What an atomic does to an element. -/
inductive ElemOp where
  | int (o : AtomOp) (x : Bool)
  | cas (x : Bool)
  | flt (o : FAtomOp) (w : FW)
deriving DecidableEq, Repr

def intBytes (x : Bool) : Nat := if x then 8 else 4
def ElemOp.size : ElemOp → Nat
  | .int _ x => intBytes x
  | .cas x => intBytes x
  | .flt _ w => 2 * fwBytes w

/-- The new image of an element, if it is written (R219 to R221). -/
def ElemOp.new (op : ElemOp) (old b n : Nat) : Option Nat :=
  match op with
  | .int o false => some (atomFn o (BitVec.ofNat 32 old) (BitVec.ofNat 32 b)).toNat
  | .int o true => some (atomFn o (BitVec.ofNat 64 old) (BitVec.ofNat 64 b)).toNat
  | .cas _ => if old = b then some n else none
  | .flt o w => some (ivToNat w (fatomFn o w (ivOfNat w old) (ivOfNat w b)))
/-- What the destination receives (R219, R221). -/
def ElemOp.old (op : ElemOp) (old : Nat) : Nat :=
  match op with
  | .flt _ w => ivToNat w (ivOfNat w old)
  | _ => old

/-- The place of a key of `Place.loc`. -/
def placeOf (loc : Nat) : Place :=
  if loc < devTop * 4 then .mem loc none
  else .chip ((loc - devTop * 4) / 2 ^ 30) ((loc - devTop * 4) / 2 ^ 24 % 64) (loc % 2 ^ 24)

/-- Every write into windows 0, 2 and 3 that waits has landed. -/
def State.landed (s : State) : State :=
  { s with groups := s.groups.map fun e => (e.1, { (e.2.inbound.foldl Group.land e.2) with inbound := [] }),
           teams := s.teams.map fun e => (e.1, e.2.landTiles) }

/-- The bytes of an element at its home; in windows 0, 2 and 3, with the writes of the lanes below (R186). -/
def State.elemAt (s : State) (loc n : Nat) : Nat :=
  leNat ((if devTop * 4 ≤ loc then s.landed else s).get [] (placeOf loc) n)

/-- One lane's atomic at its home: the state, what it returned, and whether it wrote. -/
def State.doElem (s : State) (op : ElemOp) (a : LaneAct) : State × Nat × Bool :=
  let old := s.elemAt a.loc op.size
  match op.new old a.b a.n with
  | some x => (s.put (placeOf a.loc) (leBytes op.size x), op.old old, true)
  | none => (s, op.old old, false)

/-- The lanes' atomics one after another (R219): the state, each lane's old value, and the places written. -/
def State.doElems (s : State) (op : ElemOp) (l : List LaneAct) : State × List (Nat × Nat) × List Nat :=
  l.foldl (fun (a : State × List (Nat × Nat) × List Nat) e =>
    let r := a.1.doElem op e
    (r.1, a.2.1 ++ [(e.lane, r.2.1)], if r.2.2 then a.2.2 ++ [e.loc] else a.2.2)) (s, [], [])

def valueOf (l : List (Nat × Nat)) (n : Nat) : Nat := ((l.find? fun e => e.1 == n).map Prod.snd).getD 0

/-- Claims of the lines of some lane actions, at one tide time each and in lane order, with the owner each leaves, whose L1
makes room for it (R3, R186, R207). -/
def State.claimActs (s : State) (acts : List LaneAct) (tide : Nat) (owner : Nat → Option Nat) :
    State × Nat × List (Nat × Nat) :=
  let ls := joinLines ((acts.filter fun e => e.loc < devTop * 4).map fun e => (e.loc / 128, e.loc))
  let ts := lineTimes (fun loc t => (s.claim loc t none).2) tide ls (2 * ls.length) []
  ls.foldl (fun (a : State × Nat × List (Nat × Nat)) e =>
    if a.2.2.any (fun x => x.1 / 128 == e.1) then a
    else
      let s := match owner e.2 with
        | some k => a.1.l1Room k (a.1.fwd e.2 / 128)
        | none => a.1
      let r := s.claim e.2 (max tide (timeOf ts e.1)) (owner e.2)
      (r.1, max a.2.1 r.2, a.2.2 ++ [(e.2, r.2)])) (s, tide, [])

/-- The lines written among those claimed. -/
def writtenLines (claims : List (Nat × Nat)) (locs : List Nat) : List (Nat × Nat) :=
  claims.filter fun e => locs.any fun x => x / 128 == e.1 / 128

/-- The core that will own a line's write lease: a C page's atomics are performed in the L1 (R223). -/
def ownerOf (l : List (Nat × Nat × Place)) (core loc : Nat) : Option Nat :=
  ((l.find? fun e => e.2.2.loc / 128 == loc / 128).map fun e => e.2.2.owner core).getD none

/-- The L1 that becomes owner drops its old copies. -/
def State.dropOwn (s : State) (core : Nat) (claims : List (Nat × Nat)) (owner : Nat → Option Nat) : State :=
  claims.foldl (fun s e => if (owner e.1).isSome then
    s.modCore core fun k => { k with l1 := sdel k.l1 (s.fwd e.1 / 128) } else s) s

/-- Value-returning atomics at their homes, whose replies carry their slices' bases and generations, or in the L1 that owns the
line (R189, R192, R223): the state, the tidemark, each lane's old value. -/
def State.runElems (s : State) (op : ElemOp) (acts : List LaneAct) (tide core : Nat) (owner : Nat → Option Nat) :
    State × Nat × List (Nat × Nat) :=
  let r := s.claimActs acts tide owner
  let heard := r.2.2.foldl (fun x e => if s.inL1 core (s.fwd e.1 / 128) (owner e.1) then x else x.hear core e.1) r.1
  let x := (heard.dropOwn core r.2.2 owner).doElems op acts
  (x.1.wroteAll (writtenLines r.2.2 x.2.2) (x.2.2.map fun a => (a, op.size)), r.2.1, x.2.1)

/-! ## Links (R360, R361) -/

/-- The links that may carry traffic toward a package (R360, R361). -/
def State.linksTo (s : State) (dest : Nat) : List Nat :=
  (List.range 18).filter fun l => (sget 0 s.host.routes dest).getLsbD l && !(sget false s.host.linksDown l)
/-- Credits a link has free for a class: 0 requests, 1 replies, 2 notices (R360). -/
def State.creditsFree (s : State) (link cls : Nat) : Nat := Config.linkCredits link cls - sget 0 s.host.credits (4 * link + cls)
def State.setCredits (s : State) (link cls n : Nat) : State :=
  s.modHost fun h => { h with credits := sput 0 h.credits (4 * link + cls) n }
/-- A packet takes a credit of the link it leaves by; a flit that arrives over the link, or the answer to a request, brings one
back (DESIGN CHOICE, notes/assumptions/117). -/
def State.takeCredit (s : State) (link cls : Nat) : State := s.setCredits link cls (sget 0 s.host.credits (4 * link + cls) + 1)
def State.creditBack (s : State) (link cls : Nat) : State := s.setCredits link cls (sget 0 s.host.credits (4 * link + cls) - 1)
/-- The permitted link with the most free credits, the lowest of equals; none while no link has one. -/
def State.bestLink (s : State) (dest cls : Nat) : Option Nat :=
  ((s.linksTo dest).filter fun l => decide (0 < s.creditsFree l cls)).foldl (fun b l => match b with
    | none => some l
    | some x => if s.creditsFree x cls < s.creditsFree l cls then some l else some x) none
/-- The requests of a remote access, one to each package it names, leave by the best link each (R360): the state, and the links. -/
def State.takeLinks (s : State) (locs : List Nat) : State × List Nat :=
  ((locs.filter s.isFar).map packageOf).eraseDups.foldl (fun (a : State × List Nat) d =>
    match a.1.bestLink d 0 with
    | some l => (a.1.takeCredit l 0, a.2 ++ [l])
    | none => a) (s, [])
/-- Their credits come back with the answers. -/
def State.linksBack (s : State) (l : List Nat) : State := l.foldl (fun s k => s.creditBack k 0) s

/-! ## Atomics -/

def isRemote : Place → Bool
  | .mem _ (some t) => t.remote
  | _ => false

/-- A remote access is sent over the links of R360: it is performed when its acknowledgement arrives. -/
def State.sendRemote (s : State) (c : Ctx) (act : Word) (word : Instr) (l : List (Nat × Nat × Place)) (acts : List LaneAct)
    (pend : Option Nat) : State :=
  let at' := ((l.find? fun e => isRemote e.2.2).map fun e => e.2.2.loc).getD 0
  let r := s.takeLinks (acts.map LaneAct.loc)
  ({ r.1 with remotes := r.1.remotes ++ [Remote.mk c.gid c.t.core c.g.pc word act acts at' pend r.2] } : State).modGroup
    c.gid fun g => { g with rems := g.rems + 1 }

/-- What an atomic word declares: its operation, its destination and the images of its operands in a lane. -/
structure AtomForm where
  op : ElemOp
  d : Dst
  cnt : Nat
  b : Group → Nat → Nat
  n : Group → Nat → Nat

/-- The register words of an old value. -/
def oldWords (act : Word) (d : Dst) (cnt : Nat) (olds : List (Nat × Nat)) : Writes :=
  dstWrites act d cnt fun l k => BitVec.ofNat 32 (valueOf olds l / 2 ^ (32 * k))

/-- The image of a group of words in a lane, low word first. -/
def srcNat (g : Group) (a : Src) (cnt off l : Nat) : Nat :=
  (List.range cnt).foldl (fun x k => x + (g.src a l (off + k)).toNat * 2 ^ (32 * k)) 0

/-- A value-returning atomic (R206, R207, R219 to R223). -/
def atomRes (s : State) (c : Ctx) (act : Word) (word : Instr) (f : AtomForm) (a : Src) : Res :=
  if act = 0 then .ok { s := s }
  else match s.checkAll c .atom f.op.size f.op.size ((loadLanes act f.d).map fun l => (l, (c.g.src64 a l).toNat)) with
    | .trap t => .trap (onceIf f.d t act) s
    | .miss vas => .stall .translate (s.startWalks c vas)
    | .ok l =>
      let acts := l.map fun e => LaneAct.mk e.1 e.2.2.loc (f.b c.g e.1) (f.n c.g e.1)
      let i := s.newId
      if l.any fun e => isRemote e.2.2 then
        .ok { s := i.2.sendRemote c act word l acts (some i.1), outstanding := 1, pend := i.1, remote := true }
      else
        let r := s.runElems f.op acts c.g.tide c.t.core (ownerOf l c.t.core)
        .ok { s := (acts.foldl (fun s a => s.poisonCheck c a.loc) r.1).raiseTide c.gid r.2.1,
              w := oldWords act f.d f.cnt r.2.2, lines := acts.map fun a => (a.lane, a.loc / 128) }

def xWords (x : Bool) : Nat := if x then 2 else 1
def atomForm (o : OpAtom) : AtomForm :=
  ⟨.int o.op o.x, o.d, xWords o.x, fun g l => srcNat g o.b (xWords o.x) 0 l, fun _ _ => 0⟩
def casForm (o : OpCas) : AtomForm :=
  ⟨.cas o.x, o.d, xWords o.x, fun g l => srcNat g o.b (xWords o.x) 0 l, fun g l => srcNat g o.b (xWords o.x) (xWords o.x) l⟩
def fatomForm (o : OpFAtom) : AtomForm :=
  ⟨.flt o.op o.w, o.d, fwBytes o.w / 2, fun g l => srcNat g o.b (fwBytes o.w / 2) 0 l, fun _ _ => 0⟩

def rdX (b : Src) (x : Bool) : Rd := if x then .w64 b else .w32 b
def wrX (d : Dst) (x : Bool) : Wr := if x then .g64 d else .g32 d

/-- ATOM (R219). -/
def atomGate (o : OpAtom) : Gate :=
  { hd := o.h, long := some o.la, hold := holdSrc o.hold none (some o.b) none, rds := [.a64 o.a, rdX o.b o.x],
    wrs := [wrX o.d o.x], memory := true }
def atomBody (o : OpAtom) : Body := fun s c act _ => atomRes s c act (.atom o) (atomForm o) o.a
def execAtom (o : OpAtom) (s : State) : Host.Outcome State Fault Refusal := issue (atomGate o) (atomBody o) s

/-- ATOMCAS (R220). -/
def casGate (o : OpCas) : Gate :=
  { hd := o.h, long := some o.la, rds := [.a64 o.a, if o.x then .quad o.b else .w64 o.b], wrs := [wrX o.d o.x],
    memory := true }
def casBody (o : OpCas) : Body := fun s c act _ => atomRes s c act (.atomcas o) (casForm o) o.a
def execAtomcas (o : OpCas) (s : State) : Host.Outcome State Fault Refusal := issue (casGate o) (casBody o) s

/-- FATOM (R221). -/
def fatomGate (o : OpFAtom) : Gate :=
  { hd := o.h, long := some o.la, rds := [.a64 o.a, .iv o.w o.b], wrs := [.iv o.w o.d], memory := true }
def fatomBody (o : OpFAtom) : Body := fun s c act _ => atomRes s c act (.fatom o) (fatomForm o) o.a
def execFatom (o : OpFAtom) (s : State) : Host.Outcome State Fault Refusal := issue (fatomGate o) (fatomBody o) s

/-! ## Reductions (R195, R222) -/

/-- A value joins the partials of a die. -/
def joinPart (op : RedOp) (die addr value : Nat) : List (Nat × Nat × Nat) → List (Nat × Nat × Nat)
  | [] => [(die, addr, value)]
  | e :: r => if e.1 = die ∧ e.2.1 = addr then (die, addr, redFn op e.2.2 value) :: r else e :: joinPart op die addr value r

/-- The leased copies of a line, and those that replies under way grant, are dropped: every later read of the line reaches
its home, where it triggers the merge (R185, R196). -/
def State.dropCopies (s : State) (line : Nat) : State :=
  (s.cores.filter fun e => (sfind e.2.l1 line).isSome).foldl
    (fun s e => s.modCore e.1 fun k => { k with l1 := sdel k.l1 line })
    { s with replies := s.replies.map fun r => if r.line = line then { r with copy := none } else r }

/-- A reduction is accepted: another kind of reduction merges the line first; the line's write lease is recalled, its copies
are dropped, and the line keeps the largest tidemark of its reducers (R185, R195). -/
def State.acceptRed (s : State) (op : RedOp) (die loc value tide : Nat) : State :=
  if devTop * 4 ≤ loc then
    s.put (placeOf loc) (leBytes op.size (redFn op (s.elemAt loc op.size) value))
  else
    let at' := s.fwd loc
    let key := leaseKey at'
    let s := match (s.lineAt key).comm with
      | some c => if c.op = op then s else s.merge key tide
      | none => s
    let l := s.lineAt key
    let parts := joinPart op die at' value ((l.comm.map Comm.parts).getD [])
    let c : Comm := ⟨op, parts, max ((l.comm.map Comm.time).getD 0) tide⟩
    (s.dropCopies key).setLine key { l with owner := none, evicting := false, comm := some c }

/-- RED and FRED (R206, R222): one reduction for each active lane. -/
def redRes (s : State) (c : Ctx) (act : Word) (word : Instr) (op : RedOp) (a : Src) (b : Group → Nat → Nat) : Res :=
  if act = 0 then .ok { s := s }
  else match s.checkAll c .atom op.size op.size ((lanesOf act).map fun l => (l, (c.g.src64 a l).toNat)) with
    | .trap t => .trap t s
    | .miss vas => .stall .translate (s.startWalks c vas)
    | .ok l =>
      let far := l.filter fun e => isRemote e.2.2
      let near := l.filter fun e => !isRemote e.2.2
      let flights := near.map fun e => RedFlight.mk c.gid (coreDie c.t.core) op e.2.2.loc (b c.g e.1) c.g.tide
      let s := ({ s with reds := s.reds ++ flights }).modGroup c.gid fun g => { g with reds := g.reds + flights.length }
      if far.isEmpty then .ok { s := s }
      else .ok { s := s.sendRemote c act word far (far.map fun e => ⟨e.1, e.2.2.loc, b c.g e.1, 0⟩) none }

def redImage (o : OpRed) (g : Group) (l : Nat) : Nat := srcNat g o.b (xWords o.x) 0 l
def fredImage (o : OpFRed) (g : Group) (l : Nat) : Nat := srcNat g o.b (fwBytes o.w / 2) 0 l

/-- RED (R222). -/
def redGate (o : OpRed) : Gate :=
  { hd := o.h, hold := holdSrc o.hold none (some o.b) none, rds := [.a64 o.a, rdX o.b o.x], memory := true }
def redBody (o : OpRed) : Body := fun s c act _ => redRes s c act (.red o) (.int o.op o.x) o.a (redImage o)
def execRed (o : OpRed) (s : State) : Host.Outcome State Fault Refusal := issue (redGate o) (redBody o) s

/-- FRED (R222). -/
def fredGate (o : OpFRed) : Gate := { hd := o.h, rds := [.a64 o.a, .iv o.w o.b], memory := true }
def fredBody (o : OpFRed) : Body := fun s c act _ => redRes s c act (.fred o) (.flt o.op o.w) o.a (fredImage o)
def execFred (o : OpFRed) (s : State) : Host.Outcome State Fault Refusal := issue (fredGate o) (fredBody o) s

/-- PARTIAL_ACCEPT (R195): a reduction joins its die's partial, and its group may access memory again. -/
def execPartialAccept (i : Nat) (s : State) : Host.Outcome State Fault Refusal :=
  match s.reds[i]? with
  | none => .next s
  | some f =>
    .next ((({ s with reds := s.reds.eraseIdx i }).acceptRed f.op f.die f.addr f.value f.tide).modGroup f.group
      fun g => { g with reds := g.reds - 1 })

end Sys2Proof.Machine
end

