-- ==== Sys2Proof/Machine/Pool.lean ====
section
/-!
DEFINITION. Pools of tasks: entries and their bytes (R163), spills and refills (R41, R165), pushes and pops, the live count
(R44, R173), the ends of tasks (R164), and steal requests (R42, R43).
-/
namespace Sys2Proof.Machine

/-- The place of a pool entry, and the address of a spill-segment entry (R163, R296). -/
def Team.poolAt (t : Team) (pk : Packet) (e : Nat) : Nat := t.scratch (pk.poolOff + e * pk.entryBytes)
def Team.spillVa (t : Team) (pk : Packet) (e : Nat) : Nat :=
  pk.arena.toNat + 64 + (t.index * pk.spillEnt + e) * pk.entryBytes

/-- A pool entry read in tide order at its scratchpad (R184): the state, the tide time and the bytes. -/
def State.poolRead (s : State) (t : Team) (pk : Packet) (e : PoolEnt) (tide : Nat) : State × Nat × List Byte :=
  s.readSpan (t.poolAt pk e.ent) pk.entryBytes (max tide e.time)

/-- SITE and FRAME of an entry's bytes (R163). -/
def siteOf (bs : List Byte) : Nat := natOf bs 0 1 % 8
def frameWord (bs : List Byte) (k : Nat) : Word := wordOf bs (4 + 4 * k)
def taskBytes (site : Nat) (frame : List Word) : List Byte := leBytes 4 site ++ leWords frame

/-- The least entry number not in use: which entry holds which task is open (R163; DESIGN CHOICE,
notes/assumptions/107). -/
def freeEnt (l : List PoolEnt) : Nat :=
  ((List.range (l.length + 1)).find? fun k => !(l.any fun e => e.ent == k)).getD 0

/-- Free entries that no request has reserved (R41, R43). -/
def Team.poolFree (t : Team) (pk : Packet) : Nat := pk.poolEnt - t.pool.length - t.resvPool
def Team.spillFree (t : Team) (pk : Packet) : Nat := pk.spillEnt - t.spill.length - t.resvSpill

/-- The oldest half, and whether the spill segment can take it (R41). -/
def halfOf (h : Nat) : Nat := (h + 1) / 2
def spillRoom (h free : Nat) : Bool := decide (0 < h) && decide (halfOf h ≤ free)

/-- Spilling the n oldest tasks (R41). -/
def State.spillTasks (s : State) (h : Nat) (pk : Packet) (tide : Nat) : Nat → Except TrapInfo (State × Nat)
  | 0 => .ok (s, tide)
  | n + 1 =>
    match s.team? h with
    | none => .ok (s, tide)
    | some t =>
      match t.pool with
      | [] => .ok (s, tide)
      | e :: r => do
        let k := freeEnt t.spill
        let p := s.poolRead t pk e tide
        let x ← p.1.hwStore (t.spillVa pk k) p.2.2 p.2.1
        (x.1.modTeam h fun t => { t with pool := r, spill := t.spill ++ [⟨k, x.2, siteOf p.2.2⟩] }).spillTasks h pk x.2 n

/-- A new youngest task (R40), with the tide time of its push. -/
def State.pushTask (s : State) (h : Nat) (pk : Packet) (bs : List Byte) (tide : Nat) : State × Nat :=
  match s.team? h with
  | none => (s, tide)
  | some t =>
    let k := freeEnt t.pool
    let w := s.writeSpan (t.poolAt pk k) bs tide
    (w.1.modTeam h fun t => { t with pool := t.pool ++ [⟨k, w.2, siteOf bs⟩] }, w.2)

/-- The site of a pooled task, from the bytes that stand in its entry (R163). -/
def State.poolSite (s : State) (t : Team) (pk : Packet) (e : PoolEnt) : Nat := siteOf (s.poolRead t pk e 0).2.2
/-- The site of a spilled task: from its bytes where they can be read, else as it was put there. -/
def State.spillSite (s : State) (t : Team) (pk : Packet) (e : PoolEnt) : Nat :=
  match s.hwLoad (t.spillVa pk e.ent) 4 0 with
  | .ok x => siteOf x.2.2
  | .error _ => e.site

/-- The newest pooled task of a site leaves the pool (R40): read in tide order, and no earlier than its push. -/
def State.popTask (s : State) (h : Nat) (pk : Packet) (site tide : Nat) : Option (Task × State) :=
  match s.team? h with
  | none => none
  | some t =>
    (t.pool.reverse.find? fun e => s.poolSite t pk e == site).map fun e =>
      let r := s.poolRead t pk e tide
      (⟨r.2.2, r.2.1⟩, r.1.modTeam h fun t => { t with pool := t.pool.filter fun x => x != e })

/-- Spilled entries read at their homes, in order: the state, the tide time, and each entry with its bytes. -/
def State.spillRead (s : State) (t : Team) (pk : Packet) (tide : Nat) (l : List PoolEnt) :
    Except TrapInfo (State × Nat × List (PoolEnt × List Byte)) :=
  l.foldlM (fun (a : State × Nat × List (PoolEnt × List Byte)) e => do
    let x ← a.1.hwLoad (t.spillVa pk e.ent) pk.entryBytes (max a.2.1 e.time)
    return (x.1, x.2.1, a.2.2 ++ [(e, x.2.2)])) (s, tide, [])

/-- A refill of a site: the newest spilled tasks of it, at most half the capacity and the free slots (R165). -/
def State.refillTasks (s : State) (h : Nat) (pk : Packet) (site tide : Nat) : Except TrapInfo (State × Nat) :=
  match s.team? h with
  | none => .ok (s, tide)
  | some t => do
    let mine := t.spill.filter fun e => s.spillSite t pk e == site
    let k := min (pk.poolEnt / 2) (t.poolFree pk)
    let out := mine.drop (mine.length - k)
    let x ← s.spillRead t pk tide out
    let s := x.1.modTeam h fun t => { t with spill := t.spill.filter fun e => !(out.contains e) }
    return x.2.2.foldl (fun a e => a.1.pushTask h pk e.2 a.2) (s, x.2.1)

/-- The sites of the pooled and spilled tasks, as POOLQ counts them (R172). -/
def State.poolSites (s : State) (t : Team) (pk : Packet) : List Nat := t.pool.map (s.poolSite t pk)
def State.spillSites (s : State) (t : Team) (pk : Packet) : List Nat := t.spill.map (s.spillSite t pk)

/-- A reply has carried its slice's base and generation to the core that asked, if one did (R192). -/
def State.hearAt (s : State) (core : Option Nat) (loc : Nat) : State :=
  match core with
  | some k => s.hear k loc
  | none => s

/-- One atomic addition to the live count at its home (R44, R173), asked for by a core or by the distributor. -/
def State.liveAdd (s : State) (core : Option Nat) (pk : Packet) (delta : Int) (tide : Nat) : Except TrapInfo (State × Nat) := do
  let r ← s.hwTr 2 pk.arena.toNat tide
  let c := r.1.claim r.2.2 r.2.1 none
  let at' := c.1.fwd r.2.2
  let v := ((c.1.natAt at' 8 : Int) + delta) % (2 ^ 64 : Int)
  return (((c.1.poke at' (leBytes 8 v.toNat)).wrote [(at', 8)] c.2).hearAt core r.2.2, c.2)

/-- The live count (R170). -/
def State.liveRead (s : State) (core : Nat) (pk : Packet) (lease tide : Nat) : Except TrapInfo (State × Nat × Nat) := do
  let r ← s.hwTr 0 pk.arena.toNat tide
  let c := r.1.readHome r.2.2 lease r.2.1
  return (c.1.hear core r.2.2, c.2, c.1.natAt (c.1.fwd r.2.2) 8)

/-- The lanes of a mask end their tasks (R164). -/
def State.endTasks (s : State) (c : Ctx) (m : Word) : Except TrapInfo State := do
  let e := m &&& c.g.h
  if e = 0 ∨ c.pk.poolEnt = 0 then return s
  else
    let r ← s.liveAdd (some c.t.core) c.pk (-(popcount e : Int)) c.g.tide
    return (r.1.raiseTide c.gid r.2).modGroup c.gid fun g => { g with h := g.h &&& ~~~e }

/-- How many of n pushes are made, from h tasks held, with what is reserved and the spill entries free (R41). -/
def pushCount (cap : Nat) : Nat → Nat → Nat → Nat
  | 0, _, _ => 0
  | n + 1, h, free =>
    if h < cap then pushCount cap n (h + 1) free + 1
    else if spillRoom h free then pushCount cap n (h - halfOf h + 1) (free - halfOf h) + 1
    else 0

/-- One push, with the spill it needs (R41): the state and the tide time of the push. -/
def State.pushSpill (s : State) (h : Nat) (pk : Packet) (bs : List Byte) (tide : Nat) : Except TrapInfo (State × Nat) :=
  match s.team? h with
  | none => .ok (s, tide)
  | some t =>
    if t.poolFree pk = 0 then do
      let x ← s.spillTasks h pk tide (halfOf t.pool.length)
      return x.1.pushTask h pk bs x.2
    else .ok (s.pushTask h pk bs tide)

/-! ## Steals (R42, R43, R165) -/

/-- A steal request, if one may be sent. -/
def State.sendSteal (s : State) (h : Nat) (pk : Packet) (site : Nat) : State :=
  match s.team? h with
  | none => s
  | some t =>
    let f := t.poolFree pk + t.spillFree pk
    if t.steals.getLsbD site || f == 0 then s
    else
      let r := min 8 f
      let rs := min r (t.spillFree pk)
      let s := s.modTeam h fun t => { t with
        steals := t.steals ||| (1#32 <<< site), resvPool := t.resvPool + (r - rs), resvSpill := t.resvSpill + rs }
      { s with steals := s.steals ++ [⟨h, site, r - rs, rs, [], none⟩] }

/-- The order in which a request visits the teams of a grid (R42). -/
def victimKey (die core : Nat) : Nat := (coreDie core + 4 - die) % 4 * 128 + coreIn core

/-- The next team a request asks: resident, of the same grid, not asked yet. R42 orders the own die's teams by core number and
the other dies by number; teams of one core go in order of their handles, and the teams of another die by core
number, which is the model's choice (notes/assumptions/101). -/
def State.nextVictim (s : State) (q : Steal) : Option Nat :=
  match s.team? q.thief with
  | none => none
  | some t =>
    (s.teams.filter fun e => decide (e.1 ≠ q.thief) && decide (e.2.pid = t.pid) && !(q.asked.contains e.1) &&
        decide (e.2.life = .run)).foldl (fun best e =>
      match best with
      | none => some e.1
      | some b =>
        let kb := victimKey (coreDie t.core) (((s.team? b).map Team.core).getD 0)
        if victimKey (coreDie t.core) e.2.core < kb then some e.1 else best) none

/-- The tasks a victim ships (R43, R165), with the state after; none where the spill segment's pages do not translate
(DESIGN CHOICE, notes/assumptions/102). -/
def State.shipFrom (s : State) (v : Nat) (pk : Packet) (site r : Nat) : List Task × State :=
  match s.team? v with
  | none => ([], s)
  | some t =>
    let sp := t.spill.filter fun e => s.spillSite t pk e == site
    let po := t.pool.filter fun e => s.poolSite t pk e == site
    if !sp.isEmpty then
      let out := sp.take (min r (halfOf sp.length))
      match s.spillRead t pk 0 out with
      | .error _ => ([], s)
      | .ok x =>
        (x.2.2.map fun e => ⟨e.2, max x.2.1 e.1.time⟩,
          x.1.modTeam v fun t => { t with spill := t.spill.filter fun e => !(out.contains e) })
    else
      let out := po.take (min r (halfOf po.length))
      let x := out.foldl (fun (a : State × List Task) e =>
        let r := a.1.poolRead t pk e 0
        (r.1, a.2 ++ [⟨r.2.2, r.2.1⟩])) (s, [])
      (x.2, x.1.modTeam v fun t => { t with pool := t.pool.filter fun e => !(out.contains e) })

/-- STEAL_REQUEST: the request reaches the next team, which ships or passes it on (R43). -/
def State.stealAsk (s : State) (i : Nat) : State :=
  match s.steals[i]? with
  | none => s
  | some q =>
    match q.shipped, s.nextVictim q, s.team? q.thief with
    | none, some v, some t =>
      match s.packet? t.pid with
      | none => s
      | some pk =>
        let r := s.shipFrom v pk q.site (q.pool + q.spill)
        if r.1.isEmpty then { s with steals := setAt s.steals i { q with asked := q.asked ++ [v] } }
        else { r.2 with steals := setAt s.steals i { q with shipped := some r.1 } }
    | _, _, _ => s

/-- The end of a request: reservations released (R43). -/
def State.stealDone (s : State) (i : Nat) (q : Steal) : State :=
  { s.modTeam q.thief fun t => { t with
      steals := t.steals &&& ~~~(1#32 <<< q.site), resvPool := t.resvPool - q.pool, resvSpill := t.resvSpill - q.spill }
    with steals := s.steals.eraseIdx i }

/-- Older tasks of a shipment go into the thief's spill segment, where they are the newest (DESIGN CHOICE, notes/assumptions/106). -/
def State.landSpill (s : State) (h : Nat) (pk : Packet) (l : List Task) : Except TrapInfo State :=
  l.foldlM (fun s t => do
    match s.team? h with
    | none => return s
    | some tm =>
      let k := freeEnt tm.spill
      let x ← s.hwStore (tm.spillVa pk k) t.bytes t.time
      return x.1.modTeam h fun u => { u with spill := u.spill ++ [⟨k, x.2, siteOf t.bytes⟩] }) s

/-- STEAL_SHIPMENT: the newest tasks fill the free pool slots, older ones the reserved spill entries (R43). Where a page of the
spill segment does not translate, the shipment stays in transit (DESIGN CHOICE, notes/assumptions/102). -/
def State.stealLand (s : State) (i : Nat) : State :=
  match s.steals[i]? with
  | none => s
  | some q =>
    match q.shipped, s.team? q.thief with
    | some l, some t =>
      match s.packet? t.pid with
      | none => s
      | some pk =>
        let s1 := s.stealDone i q
        let k := min l.length (t.poolFree pk + q.pool)
        match s1.landSpill q.thief pk (l.take (l.length - k)) with
        | .error _ => s
        | .ok s2 => (l.drop (l.length - k)).foldl (fun s e => (s.pushTask q.thief pk e.bytes e.time).1) s2
    | _, _ => s

/-- STEAL_EMPTY: no resident team holds a task of the site (R165). -/
def State.stealEnd (s : State) (i : Nat) : State :=
  match s.steals[i]? with
  | none => s
  | some q => if q.shipped.isNone ∧ (s.nextVictim q).isNone then s.stealDone i q else s

end Sys2Proof.Machine
end

