-- ==== Sys2Proof/Machine/Control.lean ====
section
/-!
DEFINITION. The control instructions, MAJ 0x00 (R120 to R124), and the divergence stack (R21 to R26).
-/
namespace Sys2Proof.Machine

/-! ## Divergence-stack entries (R25) -/

def entPc (e : BitVec 128) : DWord := (e >>> 64).setWidth 64
def entMask (e : BitVec 128) : Word := (e >>> 32).setWidth 32
def entKind (e : BitVec 128) : BitVec 2 := (e >>> 30).setWidth 2
def entArmed (e : BitVec 128) : Bool := e.getLsbD 29
def mkEntry (pc : DWord) (mask : Word) (kind : BitVec 2) (armed : Bool) : BitVec 128 :=
  pc ++ mask ++ kind ++ (BitVec.ofBool armed) ++ 0#29
def pathEntry (pc : DWord) (mask : Word) : BitVec 128 := mkEntry pc mask 1 false
def reconvEntry (pc : DWord) (mask : Word) (armed : Bool) : BitVec 128 := mkEntry pc mask 0 armed
/-- A refilled entry that no pop may use (R26). -/
def entBad (e : BitVec 128) : Bool := e.getLsbD 31 || decide ((entPc e).toNat % 8 ≠ 0)
/-- Exited lanes are cleared (R19). -/
def clearLanes (gone : Word) (e : BitVec 128) : BitVec 128 :=
  e &&& ~~~((gone.setWidth 128) <<< 32)

/-- What a pop finds: the mask and target it sets, a refill that must come first, or no entry it may take. -/
inductive Popped where
  | to (mask : Word) (pc : Option DWord) (rest : List (BitVec 128))
  | refill
  | illegal
deriving DecidableEq, Repr

/-- JOIN at an address on the entries, newest first (R24). -/
def popJoin (live : Word) (self : DWord) (spilled : Nat) : List (BitVec 128) → Popped
  | [] => if spilled = 0 then .illegal else .refill
  | e :: r =>
    let m := entMask e &&& live
    if entBad e then .illegal
    else if entKind e = 1 then
      if m = 0 then popJoin live self spilled r else .to m (some (entPc e)) r
    else if entPc e = self then .to m none r
    else .illegal

/-- The implied JOIN of EXIT (R19). -/
def popImplied (live : Word) (spilled : Nat) : List (BitVec 128) → Popped
  | [] => if spilled = 0 then .to live none [] else .refill
  | e :: r =>
    let m := entMask e &&& live
    if entBad e then .illegal
    else if m = 0 then popImplied live spilled r
    else .to m (some (if entKind e = 1 then entPc e else entPc e + 8)) r

/-! ## Pushes, spills and refills (R26) -/

/-- The address of line k of a group's spill region. -/
def spillEa (k : Nat) : Nat := 0xFFFD * 2 ^ 48 + 128 * k

/-- The checks of a spill or a refill, as accesses of lane 0. -/
def State.stackCheck (s : State) (c : Ctx) (rule : Rule) (k : Nat) : Checked := s.checkAll c rule 128 128 [(0, spillEa k)]

/-- What a push of n entries needs first: nothing, a trap, or a stall. -/
def State.pushNeeds (s : State) (c : Ctx) (act : Word) (n : Nat) : Option Res :=
  let act := if act = 0 then c.g.live else act
  if 1024 < c.g.depth + n then some (.trap { illegalInstruction with lanes := some act } s)
  else if c.g.stack.length + n ≤ 16 then none
  else match s.stackCheck c .st c.g.spilled with
    | .trap t => some (.trap (onceFor t act) s)
    | .miss vas => some (.stall .translate (s.startWalks c vas))
    | .ok _ => some (.stall .divSpill s)

/-- The wait after a pop that leaves the on-chip stack empty while entries remain spilled. -/
def refillWait (g : Group) (rest : List (BitVec 128)) : Option Stall :=
  if rest.isEmpty && decide (g.spilled ≠ 0) then some .divRefill else none

/-- DIVERGENCE_SPILL: the eight oldest entries go to the next line (R26). -/
def State.divSpill (s : State) (gid : Nat) : State :=
  match s.ctx? gid with
  | none => s
  | some c =>
    if c.g.stall ≠ some .divSpill then s
    else match s.stackCheck c .st c.g.spilled with
      | .ok l =>
        let r := s.claimLines c l
        let bs := (c.g.stack.take 8).flatMap fun e => leBytes 16 e.toNat
        let s := (l.foldl (fun s e => s.put e.2.2 bs) r.1).wroteAll r.2.2 (spansOf l 128)
        s.modGroup gid fun g => { g with
          stack := g.stack.drop 8, spilled := g.spilled + 1, stall := none, tide := max g.tide r.2.1 }
      | _ => s.modGroup gid fun g => { g with stall := none }

/-- The entries of a refilled line, each mask with the live lanes. -/
def entriesOf (live : Word) (bs : List Byte) : List (BitVec 128) :=
  (List.range 8).map fun j => clearLanes (~~~live) (BitVec.ofNat 128 (natOf bs (16 * j) 16))

/-- The eight newest spilled entries return: below an empty stack, or for a pop that has found its on-chip entries empty of lanes;
what they were stays until the pop performs (R24, R26). -/
def Group.refilled (g : Group) (l : List (BitVec 128)) : Group :=
  { g with
    stack := l, spilled := g.spilled - 1, stall := none,
    unpopped := if g.stack.isEmpty && g.unpopped.isNone then none else match g.unpopped with
      | none => some (g.stack, 1)
      | some (o, k) => some (o, k + 1) }

/-- DIVERGENCE_REFILL: the eight newest spilled entries return, after the group's earlier accesses (R26, R195). -/
def State.divRefill (s : State) (gid : Nat) : State :=
  match s.ctx? gid with
  | none => s
  | some c =>
    if c.g.stall ≠ some .divRefill ∨ c.g.memBusy then s
    else match s.stackCheck c .ld (c.g.spilled - 1) with
      | .ok l =>
        let r := s.loadLines c l none
        let bs := l.flatMap fun e => r.1.get r.2.2.2 e.2.2 128
        r.1.modGroup gid fun g => { g.refilled (entriesOf g.live bs) with tide := max g.tide r.2.1 }
      | .miss vas => s.startWalks c vas
      | .trap t => s.takeTrap gid (onceFor t (trapMask (trapOf t.cause) c.g))

/-! ## The instructions -/

/-- The header of a form that takes no guard. -/
def bare (b : Bool) : Hd := { b := b, g := .always }

/-- PC + 8 × a signed word offset (R86). -/
def branchTo {n : Nat} (pc : DWord) (off : BitVec n) : DWord := pc + 8 * off.signExtend 64

/-- A transfer to an address taken from registers, whose alignment step 3 has checked (R86, R102, R120). -/
def jumpBody (a : Src) : Body := fun s c _ _ => .ok { s := s, jump := some (c.g.src64 a 0) }

/-- A scalar pair written whatever M. -/
def pairWrites (n : Nat) (x : DWord) : Writes := { s := [(n, x.lo), (n + 1, x.hi)] }

/-- BRA (R120, R121). -/
def execBra (b : Bool) (off : BitVec 38) (s : State) : Host.Outcome State Fault Refusal :=
  issue { hd := bare b } (fun s c _ _ => .ok { s := s, jump := some (branchTo c.g.pc off) }) s

/-- The lanes of a branch predicate with a value (R21). -/
def brSet (g : Group) (p : BitVec 3) (v : Tri) : Word := triMask g (g.mask &&& g.live) p v

/-- The entries a diverging branch pushes (R22). -/
def brPushes (c : Ctx) (p : BitVec 3) (f : DWord) : List (BitVec 128) :=
  let mt := brSet c.g p .t
  let mf := brSet c.g p .f
  let mu := brSet c.g p .u
  (if mu = 0 then [] else [pathEntry (c.g.pc + 8) mu]) ++ (if mf = 0 ∨ mt = 0 then [] else [pathEntry f mf])

/-- The stack with the top entry's armed bit cleared. -/
def disarm (l : List (BitVec 128)) : List (BitVec 128) :=
  match l.reverse with
  | [] => []
  | e :: r => (reconvEntry (entPc e) (entMask e) false :: r).reverse

def topArmed (l : List (BitVec 128)) : Bool :=
  match l.getLast? with
  | some e => decide (entKind e = 0) && entArmed e
  | none => false

/-- BRP (R21 to R23). -/
def brpBody (p : BitVec 3) (t f : BitVec 19) : Body := fun s c act _ =>
  let mt := brSet c.g p .t
  let mf := brSet c.g p .f
  let mu := brSet c.g p .u
  let sets := (if mt = 0 then 0 else 1) + (if mf = 0 then 0 else 1) + (if mu = 0 then 0 else 1)
  let tt := branchTo c.g.pc t
  let tf := branchTo c.g.pc f
  if sets ≤ 1 then .ok { s := s, jump := if mt ≠ 0 then some tt else if mf ≠ 0 then some tf else none }
  else if c.g.stack.isEmpty && decide (c.g.spilled ≠ 0) then .stall .divRefill s
  else if !topArmed c.g.stack then .trap { illegalInstruction with lanes := some act } s
  else
    let new := brPushes c p tf
    match s.pushNeeds c act new.length with
    | some r => r
    | none =>
      let s := s.modGroup c.gid fun g => { g with stack := disarm g.stack ++ new, mask := if mt ≠ 0 then mt else mf }
      .ok { s := s, jump := some (if mt ≠ 0 then tt else tf) }
def execBrp (b : Bool) (p : BitVec 3) (t f : BitVec 19) (s : State) : Host.Outcome State Fault Refusal :=
  issue { hd := bare b, exReads := [.p p.toNat] } (brpBody p t f) s

/-- BRX (R120). -/
def execBrx (b : Bool) (a : Src) (s : State) : Host.Outcome State Fault Refusal :=
  issue { hd := bare b, rds := [.sgroup a 2 2], target := some a } (jumpBody a) s

/-- CALL (R120, R121). -/
def execCall (b : Bool) (off : BitVec 38) (s : State) : Host.Outcome State Fault Refusal :=
  issue { hd := bare b, wrs := [.s 62, .s 63], whole := true }
    (fun s c _ _ => .ok { s := s, w := pairWrites 62 (c.g.pc + 8), jump := some (branchTo c.g.pc off) }) s

/-- RET (R120, R121). -/
def execRet (b : Bool) (s : State) : Host.Outcome State Fault Refusal :=
  issue { hd := bare b, exReads := [.s 62, .s 63], target := some (.s 62) } (jumpBody (.s 62)) s

/-- DIV (R23, R26). -/
def divBody (off : BitVec 38) : Body := fun s c act _ =>
  match s.pushNeeds c act 1 with
  | some r => r
  | none => .ok { s := s.modGroup c.gid fun g =>
      { g with stack := g.stack ++ [reconvEntry (branchTo c.g.pc off) c.g.mask true] } }
def execDiv (b : Bool) (off : BitVec 38) (s : State) : Host.Outcome State Fault Refusal :=
  issue { hd := bare b } (divBody off) s

/-- JOIN (R24). -/
def joinBody : Body := fun s c act _ =>
  match popJoin c.g.live c.g.pc c.g.spilled c.g.stack.reverse with
  | .illegal => .trap { illegalInstruction with lanes := some (if act = 0 then c.g.live else act) } s
  | .refill => .stall .divRefill s
  | .to m pc rest =>
    .ok { s := s.modGroup c.gid fun g => { g with mask := m, stack := rest.reverse }, jump := pc, wait := refillWait c.g rest }
def execJoin (b : Bool) (s : State) : Host.Outcome State Fault Refusal := issue { hd := bare b } joinBody s

/-- The number of a LOOP counter. -/
def counterOf : Src → Nat
  | .s n => n.toNat
  | _ => 0

/-- LOOP (R122). -/
def loopBody (k : Src) (off : BitVec 20) : Body := fun s c _ _ =>
  let x := c.g.src32 k 0 - 1
  .ok { s := s, w := { s := [(counterOf k, x)] }, jump := if x = 0 then none else some (branchTo c.g.pc off) }
def execLoop (b : Bool) (k : Src) (off : BitVec 20) (s : State) : Host.Outcome State Fault Refusal :=
  issue { hd := bare b, rds := [.sgroup k 1 1], wrs := [.s (counterOf k)], whole := true } (loopBody k off) s

/-- The group after some lanes have ended (R19). -/
def Group.dropLanes (g : Group) (gone : Word) : Group :=
  { g with mask := g.mask &&& ~~~gone, live := g.live &&& ~~~gone, stack := g.stack.map (clearLanes gone) }

/-- Ended lanes cleared from the masks of a spilled line's entries (R19): a read and a write at the line's home. Where its page
does not translate, the refill clears them. -/
def State.clearSpilled (s : State) (c : Ctx) (gone : Word) (k : Nat) : State :=
  let va := (c.pk.psBase.toNat + (c.t.index * (32 * c.pk.groups) + 32 * c.g.idx) * c.pk.psSize + 128 * k) % 2 ^ 64
  match s.hwLoad va 128 (((s.group? c.gid).map Group.tide).getD 0) with
  | .error _ => s
  | .ok r =>
    let bs := (List.range 8).flatMap fun j =>
      leBytes 16 (clearLanes gone (BitVec.ofNat 128 (natOf r.2.2 (16 * j) 16))).toNat
    if bs = r.2.2 then s
    else match r.1.hwStore va bs r.2.1 with
      | .error _ => s
      | .ok x => x.1.raiseTide c.gid x.2

/-- EXIT (R19, R164, R282). -/
def exitBody : Body := fun s c act _ =>
  match exitDense c act, s.endTasks c act with
  | some n, _ => denseTrap s c act n
  | none, .error t => .trap (onceFor t act) s
  | none, .ok s' =>
    let g' := c.g.dropLanes act
    let s1 := (if act = 0 then s' else (List.range c.g.spilled).foldl (fun s k => s.clearSpilled c act k) s').modGroup
      c.gid fun g => g.dropLanes act
    if g'.live = 0 then .ok { s := s1.endGroup c.gid, endRun := true }
    else if g'.mask &&& g'.live ≠ 0 then .ok { s := s1, endRun := true }
    else match popImplied g'.live c.g.spilled g'.stack.reverse with
      | .illegal => .trap { illegalInstruction with lanes := some (if act = 0 then c.g.live else act) } s
      | .refill => .stall .divRefill s
      | .to m pc rest =>
        .ok { s := s1.modGroup c.gid fun g => { g with mask := m, stack := rest.reverse }, jump := pc,
              endRun := true, wait := refillWait c.g rest }
/-- EXIT accesses memory where it ends tasks or clears spilled entries. -/
def exitGate (h : Hd) (c : Ctx) : Gate :=
  { hd := h, noHandler := true, memory := decide (c.pk.poolEnt ≠ 0 ∧ c.g.h &&& c.g.active h.g ≠ 0) || decide (c.g.spilled ≠ 0) }
def execExit (h : Hd) (s : State) : Host.Outcome State Fault Refusal := issueBy (exitGate h) exitBody s

/-- YIELD (R120, R124). -/
def execYield (h : Hd) (s : State) : Host.Outcome State Fault Refusal :=
  issue { hd := h } (fun s _ act _ => .ok { s := s, endRun := decide (act ≠ 0) }) s

/-- The Breakpoint trap of TRAP and BRK (R123). -/
def breakpointTrap (act : Word) (brk : Bool) (imm : BitVec 20) : TrapInfo :=
  { cause := .breakpoint, src := brk, imm := imm, lanes := some act }

/-- TRAP (R123). -/
def execTrap (h : Hd) (imm : BitVec 20) (s : State) : Host.Outcome State Fault Refusal :=
  issue { hd := h }
    (fun s _ act _ => if act = 0 then .ok { s := s } else .trap (breakpointTrap act false imm) s) s

/-- BRK (R123, R367, R368): the Breakpoint trap, or a team stop while it is armed. -/
def brkBody (imm : BitVec 20) : Body := fun s c act _ =>
  if act = 0 then .ok { s := s }
  else if s.armed c.pk 0 then
    .ok { s := (s.traceRec c 1 0 c.g.pc).askStop c.g.team .brk, endRun := true }
  else .trap (breakpointTrap act true imm) s
def execBrk (h : Hd) (imm : BitVec 20) (s : State) : Host.Outcome State Fault Refusal :=
  issue { hd := h } (brkBody imm) s

end Sys2Proof.Machine
end

