-- ==== Sys2Proof/Machine/Engine.lean ====
section
/-!
DEFINITION. The copy engine and tags, MAJ 0x0F (R224 to R230): descriptors, checks of ranges, range locks (R197 to R199),
transfers, and completion tags with their pending Dense Fallback (R282).
-/
namespace Sys2Proof.Machine

/-! ## Tags (R224, R282) -/

/-- The checks an operation makes on the tag it names (R224, R282), then the rest. -/
def withTag (s : State) (c : Ctx) (act : Word) (n : Nat) (k : Unit → Res) : Res :=
  if c.pk.tags ≤ n then .trap (ownTrap c act .illegalOperand) s
  else k ()
def tagFree (s : State) (c : Ctx) (act : Word) (n : Nat) (k : Unit → Res) : Res :=
  if (c.t.tag n).denseFor c.g.idx then denseTrap s c act n
  else if (c.t.tag n).st = .pending then .stall (.tagIssue n) s
  else k ()

/-- The masked tags in a state; bits at or above the tag count read as CLEAR (R224). -/
def tagsIn (c : Ctx) (mask : DWord) (st : TagState) : List Nat :=
  (List.range 64).filter fun n => mask.getLsbD n && decide (n < c.pk.tags) && decide ((c.t.tag n).st = st)
def tagMask (mask : DWord) : List Nat := (List.range 64).filter fun n => mask.getLsbD n

/-! ## Ranges (R206, R226, R227) -/

/-- A range of virtual addresses under a rule, cut at 64 KiB. -/
def cutPages : Nat → Nat → Nat → List (Nat × Nat)
  | 0, _, _ => []
  | f + 1, ea, n =>
    if n = 0 then []
    else
      let k := min n (65536 - ea % 65536)
      (ea % 2 ^ 64, k) :: cutPages f (ea + k) (n - k)
def piecesOf (ea n : Nat) : List (Nat × Nat) := cutPages (n / 65536 + 2) (ea % 2 ^ 64) n

structure Range where
  rule : Rule
  ea : Nat
  len : Nat
deriving DecidableEq, Repr

def Range.cut (r : Range) : List Range := (piecesOf r.ea r.len).map fun p => ⟨r.rule, p.1, p.2⟩

inductive RangeRes where
  | ok
  | trap (t : TrapInfo)
  | miss (vas : List Nat)
deriving DecidableEq, Repr

def rangeTrap (r : Range) (off : Nat) (c : Cause) (d : BitVec 4) (pte : DWord) : TrapInfo :=
  { cause := c, detail := d, access := r.rule.access, lanes := some 1,
    addr := [(0, BitVec.ofNat 64 (r.ea + off))], pte := [(0, pte)] }

/-- The first 4-byte word of a range a test refuses. -/
def firstWord {α : Type} (r : Range) (f : Nat → Chk α) : Option (Nat × Cause × BitVec 4 × DWord) :=
  (List.range ((r.len + 3) / 4)).findSome? fun k => match f (r.ea + 4 * k) with
    | .bad c d p => some (4 * k, c, d, p)
    | _ => none

/-- Step 2 on a piece: its aperture. -/
def State.pieceAp (s : State) (c : Ctx) (r : Range) : Option TrapInfo :=
  match s.aperture c r.rule 0 r.ea r.len 1 with
  | .bad k d p =>
    match firstWord r (fun ea => s.aperture c r.rule 0 ea 4 1) with
    | some w => some (rangeTrap r w.1 w.2.1 w.2.2.1 w.2.2.2)
    | none => some (rangeTrap r 0 k d p)
  | _ => none
/-- Step 3 on a piece. -/
def State.pieceTr (s : State) (c : Ctx) (r : Range) : Chk Place :=
  match s.aperture c r.rule 0 r.ea r.len 1 with
  | .good p => s.transStep c p
  | .bad k d p => .bad k d p
  | .miss => .miss
/-- Step 4 on a piece. -/
def State.pieceAttr (s : State) (c : Ctx) (r : Range) : Option TrapInfo :=
  match s.pieceTr c r with
  | .good p =>
    match s.attrStep c r.rule r.ea r.len p with
    | .bad k d pte =>
      match firstWord r (fun ea => s.attrStep c r.rule ea 4 p) with
      | some w => some (rangeTrap r w.1 w.2.1 w.2.2.1 w.2.2.2)
      | none => some (rangeTrap r 0 k d pte)
    | _ => none
  | _ => none

/-- Steps 2 to 4 of R206 on ranges, in the order given. -/
def State.checkRanges (s : State) (c : Ctx) (l : List Range) : RangeRes :=
  let ps := l.flatMap Range.cut
  match ps.findSome? (s.pieceAp c) with
  | some t => .trap t
  | none =>
    let misses := (ps.filter fun r => decide (s.pieceTr c r = .miss)).map Range.ea
    if misses.isEmpty then
      match ps.findSome? (fun r => match s.pieceTr c r with
        | .bad k d p => some (rangeTrap r 0 k d p)
        | _ => none) with
      | some t => .trap t
      | none =>
        match ps.findSome? (s.pieceAttr c) with
        | some t => .trap t
        | none => .ok
    else .miss misses

/-- The places of a range that has passed its checks. -/
def State.placesOf (s : State) (c : Ctx) (r : Range) : List (Nat × Nat) :=
  r.cut.filterMap fun p => match s.pieceTr c p with
    | .good x => some (x.loc, p.len)
    | _ => none
def State.ownsTlb (s : State) (c : Ctx) (r : Range) : List Nat :=
  r.cut.filterMap fun p => match s.aperture c p.rule 0 p.ea p.len 1 with
    | .good (.virt va) => some (va / 65536)
    | _ => none

/-! ## Range locks (R197) -/

def insRun (x : Nat × Nat) : List (Nat × Nat) → List (Nat × Nat)
  | [] => [x]
  | y :: r => if x.1 < y.1 then x :: y :: r else y :: insRun x r
/-- Runs in order of their first lines: those that touch or overlap become one. -/
def joinFrom (x : Nat × Nat) : List (Nat × Nat) → List (Nat × Nat)
  | [] => [x]
  | y :: r => if y.1 ≤ x.2 + 1 then joinFrom (x.1, max x.2 y.2) r else x :: joinFrom y r
def joinRuns : List (Nat × Nat) → List (Nat × Nat)
  | [] => []
  | x :: r => joinFrom x r
/-- The contiguous runs of lines of some places. -/
def runsOf (l : List (Nat × Nat)) : List (Nat × Nat) :=
  joinRuns ((l.map fun e => (e.1 / 128, (e.1 + e.2 - 1) / 128)).foldr insRun [])

def minGap : List (Nat × Nat) → Option Nat
  | x :: y :: r =>
    match minGap (y :: r) with
    | some g => some (min g (y.1 - x.2))
    | none => some (y.1 - x.2)
  | _ => none
/-- The first two neighbours separated by a gap are joined. -/
def closeGap (g : Nat) : List (Nat × Nat) → List (Nat × Nat)
  | x :: y :: r => if y.1 - x.2 = g then (x.1, y.2) :: r else x :: closeGap g (y :: r)
  | l => l
/-- Entries merged until 64 remain. -/
def shrinkRuns : Nat → List (Nat × Nat) → List (Nat × Nat) → List (Nat × Nat) × List (Nat × Nat)
  | 0, d, s => (d, s)
  | f + 1, d, s =>
    if d.length + s.length ≤ 64 then (d, s)
    else match minGap d, minGap s with
      | some g, some h => if g ≤ h then shrinkRuns f (closeGap g d) s else shrinkRuns f d (closeGap h s)
      | some g, none => shrinkRuns f (closeGap g d) s
      | none, some h => shrinkRuns f d (closeGap h s)
      | none, none => (d, s)

/-- The entries an operation registers: whether a destination, first and last line. -/
def lockNeed (dst src : List (Nat × Nat)) : List (Bool × Nat × Nat) :=
  let d := runsOf dst
  let r := runsOf src
  let x := shrinkRuns (d.length + r.length) d r
  (x.1.map fun e => (true, e.1, e.2)) ++ (x.2.map fun e => (false, e.1, e.2))

def overlapping (a b c d : Nat) : Bool := decide (a ≤ d) && decide (c ≤ b)
/-- A range of another operation that forbids one of these (R197). -/
def State.lockConflict (s : State) (need : List (Bool × Nat × Nat)) : Bool :=
  need.any fun n => s.locks.any fun k => (n.1 || k.dst) && overlapping n.2.1 n.2.2 k.first k.last
def State.lockRoom (s : State) (need : List (Bool × Nat × Nat)) : Bool := decide (s.locks.length + need.length ≤ 512)
/-- Entries may be registered, while `reads` of the same operation, which takes no entries, meet no other's range (R197, R281). -/
def State.mayLock (s : State) (need : List (Bool × Nat × Nat)) (reads : List (Bool × Nat × Nat) := []) : Bool :=
  s.lockRoom need && !s.lockConflict (need ++ reads)
def State.lock (s : State) (id : Nat) (need : List (Bool × Nat × Nat)) : State :=
  { s with locks := s.locks ++ need.map fun n => ⟨id, n.1, n.2.1, n.2.2⟩ }

/-- RANGE_LOCK_REGISTRATION: a waiting operation's entries fit and conflict with none, so its group goes on (R197). -/
def execRangeLockRegistration (gid : Nat) (s : State) : Host.Outcome State Fault Refusal :=
  match (s.group? gid).map Group.stall with
  | some (some (.rangelock need reads)) =>
    if s.mayLock need reads then .next (s.modGroup gid fun g => { g with stall := none }) else .next s
  | _ => .next s

/-! ## Transfers (R199, R228) -/

/-- Bytes written at places by hardware, line by line in tide order. -/
def State.writeAt (s : State) (loc : Nat) (bs : List Byte) (tide : Nat) : State × Nat :=
  if devTop * 4 ≤ loc then (s.put (placeOf loc) bs, tide)
  else (cutLines (bs.length + 1) loc bs).foldl (fun (a : State × Nat) e =>
    let r := a.1.claim e.1 a.2 none
    ((r.1.put (.mem e.1 none) e.2).wrote [(r.1.fwd e.1, e.2.length)] r.2, r.2)) (s, tide)
/-- Bytes read at places by hardware, with a lease of 0. -/
def State.readAt (s : State) (loc n tide : Nat) : State × Nat × List Byte :=
  if devTop * 4 ≤ loc then (s, tide, s.get [] (placeOf loc) n)
  else
    let r := (cutLines (n + 1) loc (List.replicate n 0)).foldl (fun (a : State × Nat × List Byte) e =>
      let x := a.1.readHome e.1 0 a.2.1
      (x.1, x.2, a.2.2 ++ x.1.get [] (.mem e.1 none) e.2.length)) (s, tide, [])
    r

/-- The fill pattern repeated. -/
def patternBytes (w : Word) (n : Nat) : List Byte := (List.replicate ((n + 3) / 4) (leBytes 4 w.toNat)).flatten.take n

/-- A unit that works for a group has read some places: a lost line among them raises Machine Check with DETAIL 3 to the group,
while it belongs to the team still (R328, R378). -/
def State.unitCheck (s : State) (gid team : Nat) (pc : DWord) (locs : List Nat) : State :=
  if s.poisoned ≠ [] ∧ (s.group? gid).map Group.team = some team then
    ((locs.map fun l => s.fwd l / 128).filter s.poisoned.contains).eraseDups.foldl (fun x k =>
      x.machineCheck gid 3 pc (BitVec.ofNat 64 (k * 128))) s
  else s

/-- One line's transfer (R199). -/
def State.moveOne (s : State) (x : Transfer) (tide : Nat) : State × Nat :=
  match x.src with
  | some a =>
    let r := s.readAt a x.len tide
    r.1.writeAt x.dst r.2.2 r.2.1
  | none => s.writeAt x.dst (patternBytes x.fill x.len) tide

/-- ENGINE_TRANSFER (R199): one line is moved; every transfer touches the source and the destination range, so the locks of
both are released with the last one. -/
def execEngineTransfer (i : Nat) (s : State) : Host.Outcome State Fault Refusal :=
  match s.ops[i]? with
  | none => .next s
  | some o =>
    match o.todo with
    | [] => .next s
    | x :: r =>
      let m := (s.unitCheck o.group o.team o.pc x.src.toList).moveOne x o.time
      .next { m.1 with
        ops := setAt m.1.ops i { o with todo := r, time := m.2 },
        locks := if r.isEmpty then m.1.locks.filter fun k => k.op != o.id else m.1.locks }

/-- An operation leaves: its locks are released and its tag is SET, a Dense Fallback of its group's added to those that are still
pending (R199, R224, R228, R282). -/
def State.endOp (s : State) (i : Nat) (o : EngineOp) (dense : Bool) : State :=
  let s := { s with ops := s.ops.eraseIdx i, locks := s.locks.filter fun k => k.op != o.id }
  s.setTag o.team o.tag { st := .set, time := o.time,
                          denses := (((s.team? o.team).map fun t => (t.tag o.tag).denses).getD []) ++
                            (if dense then [(s.group? o.group).map Group.idx] else []) }

/-- ENGINE_COMPLETION (R228). -/
def execEngineCompletion (i : Nat) (s : State) : Host.Outcome State Fault Refusal :=
  match s.ops[i]? with
  | none => .next s
  | some o =>
    match o.kind, o.todo with
    | .copy, [] => .next (s.endOp i o false)
    | .fill, [] => .next (s.endOp i o false)
    | _, _ => .next s

/-! ## XCOPY and XFILL (R225 to R227) -/

def descOf : Src → Nat
  | .s n => n.toNat
  | _ => 0
def descWord (c : Ctx) (a : Src) (k : Nat) : Word := c.g.getS (descOf a + k)
def descDword (c : Ctx) (a : Src) (k : Nat) : DWord := DWord.ofWords (descWord c a (k + 1)) (descWord c a k)

/-- A descriptor's fields outside their limits (R226). -/
def descBad (c : Ctx) (a : Src) (copy : Bool) : Bool :=
  let rb := (descWord c a 4).toNat
  let rows := (descWord c a 5).toNat
  decide ((descDword c a 0).toNat % 4 ≠ 0) || (copy && decide ((descDword c a 2).toNat % 4 ≠ 0)) ||
    decide (rb % 4 ≠ 0) || decide (rb < 4) || decide (1048576 < rb) || decide (rows < 1) || decide (65535 < rows) ||
    decide ((descWord c a 6).toNat % 4 ≠ 0) || (copy && decide ((descWord c a 7).toNat % 4 ≠ 0))

/-- The address of row r. -/
def rowEa (base : DWord) (stride : Word) (r : Nat) : Nat := (base + BitVec.ofInt 64 (stride.toInt * r)).toNat

/-- The valid rows' ranges. -/
def dstRanges (c : Ctx) (a : Src) (v : Nat) (rule : Rule) : List Range :=
  (List.range (min (descWord c a 5).toNat v)).map fun r =>
    ⟨rule, rowEa (descDword c a 0) (descWord c a 6) r, (descWord c a 4).toNat⟩
def srcRanges (c : Ctx) (a : Src) (v : Nat) : List Range :=
  (List.range (min (descWord c a 5).toNat v)).map fun r =>
    ⟨.xsrc, rowEa (descDword c a 2) (descWord c a 7) r, (descWord c a 4).toNat⟩

/-- The rest of a list of places after n bytes of its first. -/
def advance (n : Nat) : List (Nat × Nat) → List (Nat × Nat)
  | [] => []
  | x :: r => if x.2 ≤ n then r else (x.1 + n, x.2 - n) :: r

/-- The line transfers of a row: slots of 128 bytes, cut where a page ends. -/
def rowMoves : Nat → Nat → List (Nat × Nat) → List (Nat × Nat) → List Transfer
  | 0, _, _, _ => []
  | f + 1, off, d, s =>
    match d, s with
    | x :: _, y :: _ =>
      let n := min (min x.2 y.2) (128 - off % 128)
      ⟨some y.1, x.1, n, 0⟩ :: rowMoves f (off + n) (advance n d) (advance n s)
    | _, _ => []
def rowFills : Nat → Nat → Word → List (Nat × Nat) → List Transfer
  | 0, _, _, _ => []
  | f + 1, off, w, d =>
    match d with
    | x :: _ =>
      let n := min x.2 (128 - off % 128)
      ⟨none, x.1, n, w⟩ :: rowFills f (off + n) w (advance n d)
    | [] => []

/-- The places among some rows' pieces; those whose translation was lost are none (R328). -/
def heldPlaces (l : List (List (Nat × Nat))) : List (Nat × Nat) := l.flatten.filter fun e => !(isLost e.1)
def bytesOverlap (d s : List (Nat × Nat)) : Bool :=
  d.any fun x => s.any fun y => decide (x.1 < y.1 + y.2) && decide (y.1 < x.1 + x.2)

/-- A new engine operation: its locks, its tag PENDING (R197, R224). Its time starts from the issuing group's tidemark, which is the
tag's time where no transfer is made (DESIGN CHOICE, notes/assumptions/133). -/
def State.startOp (s : State) (c : Ctx) (tag : Nat) (kind : EngineKind) (todo : List Transfer) (pages : List Nat)
    (need : List (Bool × Nat × Nat)) : State :=
  let i := s.newId
  let s := (i.2.lock i.1 need).setTag c.g.team tag { c.t.tag tag with st := .pending }
  { s with ops := s.ops ++ [⟨i.1, c.gid, c.g.team, tag, kind, todo, c.g.tide, pages, c.g.pc⟩] }

/-- The issue of an engine operation over checked places (R197, R227). -/
def engineIssue (s : State) (c : Ctx) (tag : Nat) (kind : EngineKind) (todo : List Transfer) (pages : List Nat)
    (need : List (Bool × Nat × Nat)) : Res :=
  if s.mayLock need then .ok { s := s.startOp c tag kind todo pages need } else .stall (.rangelock need []) s

/-- The stall of an issue that waits for a walk: a PENDING tag is the lower cause (R224, R366). -/
def tagOr (c : Ctx) (tag : Nat) : Stall := if (c.t.tag tag).st = .pending then .tagIssue tag else .translate

/-- XCOPY and XFILL in the order of R206 and R227; the wait for a PENDING tag and a pending Dense Fallback come after the checks
of addresses (DESIGN CHOICE, notes/assumptions/111). -/
def xBody (copy : Bool) (a b : Src) (tag : Nat) : Body := fun s c act _ =>
  if act = 0 then .ok { s := s }
  else withTag s c act tag fun _ =>
    if descBad c a copy then .trap (ownTrap c act .illegalOperand) s
    else
      let v := (c.g.src32 b 0).toNat
      let dr := dstRanges c a v (if copy then .xdst else .xfill)
      let sr := if copy then srcRanges c a v else []
      match s.checkRanges c (dr ++ sr) with
      | .trap t => .trap (onceFor t act) s
      | .miss vas => .stall (tagOr c tag) (s.startWalks c vas)
      | .ok =>
        let dp := dr.map (s.placesOf c)
        let sp := sr.map (s.placesOf c)
        if bytesOverlap (heldPlaces dp) (heldPlaces sp) then .trap (ownTrap c act .illegalOperand) s
        else tagFree s c act tag fun _ =>
          let rb := (descWord c a 4).toNat
          let todo := if copy then (dp.zip sp).flatMap fun e => rowMoves rb 0 e.1 e.2
            else dp.flatMap fun d => rowFills rb 0 (descWord c a 2) d
          engineIssue s c tag (if copy then .copy else .fill) todo ((dr ++ sr).flatMap (s.ownsTlb c))
            (lockNeed (heldPlaces dp) (heldPlaces sp))

def xGate (o : OpX) : Gate := { hd := o.h, rds := [.sgroup o.a 8 8, .u32 o.b], memory := true }
/-- XCOPY (R225 to R228). -/
def execXcopy (o : OpX) (s : State) : Host.Outcome State Fault Refusal := issue (xGate o) (xBody true o.a o.b o.tag.toNat) s
/-- XFILL (R225 to R228). -/
def execXfill (o : OpX) (s : State) : Host.Outcome State Fault Refusal := issue (xGate o) (xBody false o.a o.b o.tag.toNat) s

/-! ## XWAIT, XTEST, XCLEAR (R229, R230) -/

/-- Whether an XWAIT completes, and its predicate (R229). -/
def xwaitDone (c : Ctx) (mask : DWord) (all : Bool) : Option Tri :=
  let st := tagsIn c mask .set
  let pend := tagsIn c mask .pending
  if all then
    if !pend.isEmpty then none
    else if (tagMask mask).isEmpty then some .f
    else some (triBool (st.length == (tagMask mask).length))
  else if !st.isEmpty then some .t
  else if pend.isEmpty then some .f else none

/-- The largest time among some tags. -/
def tagTime (c : Ctx) (l : List Nat) : Nat := l.foldl (fun m n => max m (c.t.tag n).time) 0

def xwaitBody (d : BitVec 3) (a : Src) (all : Bool) : Body := fun s c act _ =>
  if act = 0 then .ok { s := s }
  else
    let mask := c.g.src64 a 0
    match xwaitDone c mask all with
    | none => .stall (.tagWait mask all) s
    | some v =>
      match (tagsIn c mask .set).find? fun n => (c.t.tag n).denseFor c.g.idx with
      | some n => denseTrap s c act n
      | none =>
        .ok { s := s.raiseTide c.gid (tagTime c (tagsIn c mask .set)), w := triWrites act d fun _ => v }
/-- XWAIT (R229). -/
def execXwait (h : Hd) (d : BitVec 3) (a : Src) (all : Bool) (s : State) : Host.Outcome State Fault Refusal :=
  issue { hd := h, rds := [.u64 a], wrs := [.p d.toNat] } (xwaitBody d a all) s

def xtestBody (d : Dst) (a : Src) : Body := fun s c act _ =>
  if act = 0 then .ok { s := s }
  else match tagsIn c (c.g.src64 a 0) .set with
    | [] => .ok { s := s, w := dstWrites act d 1 fun _ _ => 64 }
    | n :: _ =>
      if (c.t.tag n).denseFor c.g.idx then denseTrap s c act n
      else .ok { s := s.raiseTide c.gid (c.t.tag n).time, w := dstWrites act d 1 fun _ _ => BitVec.ofNat 32 n }
/-- XTEST (R230). -/
def execXtest (h : Hd) (d : Dst) (a : Src) (s : State) : Host.Outcome State Fault Refusal :=
  issue { hd := h, rds := [.u64 a], wrs := [.g32 d] } (xtestBody d a) s

def xclearBody (a : Src) : Body := fun s c act _ =>
  if act = 0 then .ok { s := s }
  else
    let l := tagsIn c (c.g.src64 a 0) .set
    .ok { s := l.foldl (fun s n => s.setTag c.g.team n { c.t.tag n with st := .clear }) s }
/-- XCLEAR (R230). -/
def execXclear (h : Hd) (a : Src) (s : State) : Host.Outcome State Fault Refusal :=
  issue { hd := h, rds := [.u64 a] } (xclearBody a) s

end Sys2Proof.Machine
end

