-- ==== Sys2Proof/Machine/Move.lean ====
section
/-!
DEFINITION. The move instructions, MAJ 0x05 (R133 to R138), with pushes to and pops from queue registers (R31 to R35).
-/
namespace Sys2Proof.Machine

/-! ## Queues (R31 to R35) -/

/-- Bytes of an entry: 4 for a scalar queue, 128 for a vector queue. -/
def Queue.width (q : Queue) : Nat := if q.kind = 2 then 128 else 4
/-- Offset in the scratchpad of the entry of an index. -/
def Queue.off (q : Queue) (i : Nat) : Nat := q.base + q.width * (i % q.depth)
def Queue.full (q : Queue) : Bool := decide (q.depth ≤ q.wr - q.rd)
def Queue.empty (q : Queue) : Bool := decide (q.wr ≤ q.rd)
def Queue.push (q : Queue) (time : Nat) : Queue := { q with wr := q.wr + 1, times := q.times ++ [time] }
/-- A pop; the indices stay within two turns of the ring. -/
def Queue.pop (q : Queue) : Queue :=
  let r := q.rd + 1
  if q.depth ≤ r then { q with rd := r - q.depth, wr := q.wr - q.depth, times := q.times.tail }
  else { q with rd := r, times := q.times.tail }

def Team.queue (t : Team) (n : Nat) : Queue := sget {} t.queues n
def State.setQueue (s : State) (h n : Nat) (q : Queue) : State :=
  s.modTeam h fun t => { t with queues := sput {} t.queues n q }

/-- Queue Misuse (R35, R136): unbound, or of the other kind. -/
def queueMisuse (q : Queue) (kind n : Nat) (act : Word) : Option TrapInfo :=
  let t (d : BitVec 4) : TrapInfo :=
    { cause := .queueMisuse, detail := d, imm := BitVec.ofNat 20 n, lanes := some act }
  if q.kind = 0 then some (t 0) else if q.kind ≠ kind then some (t 1) else none

/-- The Range Conflict of a queue access (R198). -/
def queueConflict (off : Nat) (access : BitVec 2) (act : Word) : TrapInfo :=
  { cause := .rangeConflict, access := access, lanes := some act,
    addr := (lanesOf act).map fun l => (l, BitVec.ofNat 64 (0xFFFE * 2 ^ 48 + 0xFF * 2 ^ 24 + off)) }

/-- The bytes a push writes (R32). -/
def pushBytes (c : Ctx) (act : Word) (kind : Nat) (a : Src) : List Byte :=
  if kind = 2 then leWords (lanes.map fun l => if act.getLsbD l then c.g.src32 a l else 0)
  else leWords [c.g.src32 a ((lanesOf act).headD 0)]

/-- The queue kind a push's source serves (R136). -/
def pushKind : Src → Nat
  | .v _ | .left _ | .right _ => 2
  | .s _ | .zero => 1
  | _ => 0

/-- A push (R32 to R35, R136). -/
def pushBody (n : Nat) (a : Src) : Body := fun s c act _ =>
  let q := c.t.queue n
  let live := if act = 0 then c.g.live else act
  match queueMisuse q (pushKind a) n live with
  | some t => .trap t s
  | none =>
    if act = 0 then .ok { s := s }
    else if q.full then .stall (.queue n false) s
    else
      let off := q.off q.wr
      let loc := c.t.scratch off
      if s.locked true loc q.width then .trap (queueConflict off 1 act) s
      else
        let r := s.writeHome loc (pushBytes c act q.kind a) c.g.tide
        .ok { s := (r.1.raiseTide c.gid r.2).setQueue c.g.team n (q.push r.2) }

def dstKind : Dst → Nat
  | .v _ => 2
  | .s _ => 1

/-- A pop (R32 to R35, R136). -/
def popBody (n : Nat) (d : Dst) : Body := fun s c act _ =>
  let q := c.t.queue n
  let live := if act = 0 then c.g.live else act
  match queueMisuse q (dstKind d) n live with
  | some t => .trap t s
  | none =>
    if act = 0 then .ok { s := s }
    else if q.empty then .stall (.queue n true) s
    else
      let off := q.off q.rd
      let loc := c.t.scratch off
      if s.locked false loc q.width then .trap (queueConflict off 0 act) s
      else
        let r := s.readHome loc c.g.lease.toNat c.g.tide
        let tide := max r.2 (q.times.headD 0)
        let bs := r.1.bytesAt loc q.width
        .ok { s := (r.1.raiseTide c.gid tide).setQueue c.g.team n q.pop,
              w := dstWrites act d 1 fun l _ => wordOf bs (if q.kind = 2 then 4 * l else 0) }

/-! ## Source lanes (R133 to R135) -/

/-- SHFL's source lane (R134). -/
def shflLane (m : ShflMode) (l : Nat) (b : Word) : Nat :=
  let keep (t : Int) : Nat := if 0 ≤ t ∧ t ≤ 31 then t.toNat else l
  match m with
  | .idx => b.toNat % 32
  | .up => keep ((l : Int) - b.toInt)
  | .down => keep ((l : Int) + b.toInt)
  | .xor => l ^^^ (b.toNat % 32)

/-- NMOV's value (R135). -/
def nmovVal (mode : BitVec 2) (a : Nat → Word) (l : Nat) (b : Word) : Word :=
  let t := (l : Int) + b.toInt
  if 0 ≤ t ∧ t ≤ 31 then a t.toNat
  else if mode = 0 then 0
  else if mode = 1 then a (t % 32).toNat
  else if t < 0 then a 0 else a 31

/-- The two words of a special value (R138). -/
def specialVal (s : State) (c : Ctx) (x : Special) (l : Nat) : DWord :=
  let n (k : Nat) : DWord := BitVec.ofNat 64 (k % 2 ^ 32)
  match x with
  | .laneid => n l
  | .group => n c.g.idx
  | .teamx => n c.coords.1
  | .teamy => n c.coords.2.1
  | .teamz => n c.coords.2.2
  | .crank => n c.t.rank
  | .cwidth => n c.pk.clw
  | .cheight => n c.pk.clh
  | .gridx => n c.pk.grid.1
  | .gridy => n c.pk.grid.2.1
  | .gridz => n c.pk.grid.2.2
  | .core => n (coreIn c.t.core)
  | .die => n (coreDie c.t.core)
  | .package => n s.host.number.toNat
  | .cycle => BitVec.ofNat 64 s.coreCycle

def gateVU (o : OpVU) (rdA : Src → Rd) : Gate :=
  { hd := o.h, hold := holdSrc o.hold (some o.a) (regB o.b) none, rds := rdA o.a :: rdsB o.b .u32,
    win := windowB o.b 1, wrs := [.v o.d.toNat 1 1] }

/-! ## The instructions -/

/-- MOV (R133). -/
def execMov (o : Op1) (s : State) : Host.Outcome State Fault Refusal :=
  issue { hd := o.h, hold := holdSrc o.hold (some o.a) none none, rds := [.w32 o.a], wrs := [.g32 o.d] }
    (pureRes fun c act _ => dstWrites act o.d 1 fun l _ => c.g.src32 o.a l) s
/-- MOV, queue push (R136). -/
def execMovQueuePush (h : Hd) (q : BitVec 4) (a : Src) (s : State) : Host.Outcome State Fault Refusal :=
  issue { hd := h, rds := [.w32 a], badOperand := pushKind a == 0, noHandler := true, memory := true } (pushBody q.toNat a) s
/-- MOV, queue pop (R136). -/
def execMovQueuePop (h : Hd) (d : Dst) (q : BitVec 4) (s : State) : Host.Outcome State Fault Refusal :=
  issue { hd := h, wrs := [.g32 d], noHandler := true, memory := true } (popBody q.toNat d) s
/-- MOV64 (R133). -/
def execMov64 (o : Op1) (s : State) : Host.Outcome State Fault Refusal :=
  issue { hd := o.h, rds := [.w64 o.a], wrs := [.g64 o.d] }
    (pureRes fun c act _ => dstWrites act o.d 2 fun l k => c.g.src o.a l k) s
/-- MOVS (R133). -/
def execMovs (h : Hd) (hold : Hold) (d : BitVec 6) (a : Src) (s : State) : Host.Outcome State Fault Refusal :=
  issue { hd := h, hold := holdSrc hold (some a) none none, rds := [.w32 a], wrs := [.s d.toNat] }
    (pureRes fun c act _ => dstWrites act (.s d) 1 fun l _ => c.g.src32 a l) s
/-- BCAST (R133). -/
def execBcast (o : OpVU) (s : State) : Host.Outcome State Fault Refusal :=
  issue (gateVU o .w32) (pureRes fun c act ws =>
    dstWrites act (.v o.d) 1 fun _ _ => c.g.src32 o.a ((c.g.srcB o.b ws 0 0).toNat % 32)) s
/-- RDLANE (R133). -/
def execRdlane (h : Hd) (la : BitVec 4) (hold : Hold) (d : BitVec 6) (a : Src) (b : SrcB) (s : State) :
    Host.Outcome State Fault Refusal :=
  issue { hd := h, long := some la, hold := holdSrc hold (some a) (regB b) none, rds := .w32 a :: rdsB b .u32,
          win := windowB b 1, wrs := [.s d.toNat] }
    (pureRes fun c act ws => dstWrites act (.s d) 1 fun _ _ => c.g.src32 a ((c.g.srcB b ws 0 0).toNat % 32)) s
/-- WRLANE (R133). -/
def execWrlane (o : OpVU) (s : State) : Host.Outcome State Fault Refusal :=
  issue (gateVU o .u32) (pureRes fun c act ws =>
    let j := (c.g.srcB o.b ws 0 0).toNat % 32
    if act.getLsbD j then { v := [(32 * o.d.toNat + j, c.g.src32 o.a 0)] } else {}) s
/-- SHFL (R134). -/
def execShfl (h : Hd) (la : BitVec 4) (hold : Hold) (d : BitVec 8) (a b : Src) (m : ShflMode) (s : State) :
    Host.Outcome State Fault Refusal :=
  issue { hd := h, long := some la, hold := holdSrc hold (some a) (some b) none, rds := [.w32 a, .w32 b],
          wrs := [.v d.toNat 1 1] }
    (pureRes fun c act _ => dstWrites act (.v d) 1 fun l _ => c.g.src32 a (shflLane m l (c.g.src32 b l))) s
/-- NMOV (R135). -/
def execNmov (o : OpVU) (s : State) : Host.Outcome State Fault Refusal :=
  issue (gateVU o .w32) (pureRes fun c act ws =>
    dstWrites act (.v o.d) 1 fun l _ => nmovVal c.g.nbmode (c.g.src32 o.a) l (c.g.srcB o.b ws 0 0)) s
/-- MOVM (R18, R137). -/
def movmBody (h : Hd) (a : Src) : Body := fun s c act _ =>
  if act = 0 ∧ h.g ≠ .always then .ok { s := s }
  else .ok { s := s.modGroup c.gid fun g => { g with mask := c.g.src32 a 0 &&& g.live } }
def execMovm (h : Hd) (hold : Hold) (a : Src) (s : State) : Host.Outcome State Fault Refusal :=
  issue { hd := h, hold := holdSrc hold (some a) none none, rds := [.u32 a] } (movmBody h a) s
/-- RDSP (R138). -/
def execRdsp (h : Hd) (d : Dst) (x : Special) (s : State) : Host.Outcome State Fault Refusal :=
  issue { hd := h, wrs := [if x = .cycle then .g64 d else .g32 d] }
    (fun s c act _ =>
      let n := if x = .cycle then 2 else 1
      .ok { s := s, w := dstWrites act d n fun l k => dwordPart (specialVal s c x l) k }) s

end Sys2Proof.Machine
end

