-- ==== Sys2Proof/Machine/Sync.lean ====
section
/-!
DEFINITION. The synchronisation instructions, MAJ 0x10 (R231 to R237), and the notice that wakes a waiting group (R201).
-/
namespace Sys2Proof.Machine

/-! ## Arrivals (R232 to R234) -/

/-- Whether a barrier instruction acts: always without a guard, else with an active lane (R231). -/
def barActs (h : Hd) (act : Word) : Bool := decide (h.g = .always) || decide (act ≠ 0)
/-- The lanes a barrier's trap reports. -/
def barLanes (c : Ctx) (act : Word) : Word := if act = 0 then c.g.live else act

/-- The barrier checker (R370). -/
def State.barCheck (s : State) (c : Ctx) : State :=
  if s.armed c.pk 1 && (decide (c.g.mask ≠ c.g.live) || decide (c.g.depth ≠ 0)) then
    let s := s.traceRec c 4 1 c.g.pc
    if s.armed c.pk 2 then s.askStop c.g.team .check else s
  else s

/-- Whether a count is refused (R232). -/
def countBad (c : Ctx) (b : Barrier) (n : Nat) : Bool :=
  decide (c.pk.groups < n) || (match b.need with
    | some m => decide (m ≠ n)
    | none => false)

/-- An arrival once it may be counted: the state, and whether it completed the phase. An arriving group that `waits` for the
phase is released with it (R232, R233). -/
def State.arrive (s : State) (c : Ctx) (cluster waits : Bool) (id n : Nat) : State × Bool :=
  let b := s.barrier c.t cluster id
  let bit := barBit c.t c.g.idx cluster
  let s := (s.barCheck c).modGroup c.gid fun g => { g with lastBar := some (id, cluster) }
  let s := s.setBarrier c.g.team c.t cluster id { b with
    count := b.count + 1, need := some n, arrived := b.arrived + 2 ^ bit, tide := max b.tide c.g.tide }
  let s := s.settleBarrier c.g.team cluster id
  let done := decide ((s.barrier (((s.team? c.g.team)).getD c.t) cluster id).ph ≠ b.ph)
  (if done && waits then s.raiseTide c.gid (max b.tide c.g.tide) else s, done)

/-- An arrival: the count checks, a repeated arrival, the earlier accesses, then `k` with the phase arrived in (R232). That a
repeated arrival is checked against the open phase's count is the model's choice (notes/assumptions/109). -/
def arrival (s : State) (c : Ctx) (h : Hd) (act : Word) (cluster waits : Bool) (id n : Nat)
    (k : State → Bool → Word → Res) : Res :=
  let b := s.barrier c.t cluster id
  if !(barActs h act) then .ok { s := s }
  else if countBad c b n then .trap { illegalOperand with lanes := some (barLanes c act) } s
  else if b.arrived.testBit (barBit c.t c.g.idx cluster) then .stall (.barrierRepeat id b.ph cluster) s
  else if c.g.memBusy then .stall (.memorder 12) s
  else
    let r := s.arrive c cluster waits id n
    k r.1 r.2 b.ph

/-- BAR (R232). -/
def barBody (h : Hd) (a : Src) (id : Nat) : Body := fun s c act _ =>
  arrival s c h act false true id (c.g.src32 a 0).toNat fun s done _ =>
    .ok { s := s, wait := if done then none else some (.barrier id) }
def execBar (h : Hd) (hold : Hold) (a : Src) (id : BitVec 4) (s : State) : Host.Outcome State Fault Refusal :=
  issue { hd := h, hold := holdSrc hold (some a) none none, rds := [.u32 a], noHandler := true }
    (barBody h a id.toNat) s

/-- BARC (R234). -/
def barcBody (h : Hd) (id : Nat) : Body := fun s c act _ =>
  arrival s c h act true true id 0 fun s done _ =>
    .ok { s := s, wait := if done then none else some (.clusterBarrier id) }
def execBarc (h : Hd) (id : BitVec 2) (s : State) : Host.Outcome State Fault Refusal :=
  issue { hd := h, noHandler := true } (barcBody h id.toNat) s

/-- BARA (R233). -/
def baraBody (h : Hd) (d : Dst) (a : Src) (id : Nat) : Body := fun s c act _ =>
  arrival s c h act false false id (c.g.src32 a 0).toNat fun s _ ph =>
    .ok { s := s, w := dstWrites act d 1 fun _ _ => ph }
def execBara (h : Hd) (hold : Hold) (d : Dst) (a : Src) (id : BitVec 4) (s : State) : Host.Outcome State Fault Refusal :=
  issue { hd := h, hold := holdSrc hold (some a) none none, rds := [.u32 a], wrs := [.g32 d], noHandler := true }
    (baraBody h d a id.toNat) s

/-- Whether BARW goes on waiting (R233). -/
def barwWaits (ph a : Word) : Bool := decide (ph - a = 0) || decide (2 ^ 31 ≤ (ph - a).toNat)
/-- The tidemark a BARW on a phase takes: that phase's, or that of every phase completed since. -/
def barwTide (b : Barrier) (a : Word) : Nat := if b.ph - a = 1 then b.rel else b.relMax

/-- BARW (R233). -/
def barwBody (h : Hd) (a : Src) (id : Nat) : Body := fun s c act _ =>
  let b := s.barrier c.t false id
  let x := c.g.src32 a 0
  if !(barActs h act) then .ok { s := s }
  else if barwWaits b.ph x then .stall (.barrierValue id x) s
  else .ok { s := s.raiseTide c.gid (barwTide b x) }
def execBarw (h : Hd) (hold : Hold) (a : Src) (id : BitVec 4) (s : State) : Host.Outcome State Fault Refusal :=
  issue { hd := h, hold := holdSrc hold (some a) none none, rds := [.u32 a], noHandler := true }
    (barwBody h a id.toNat) s

/-! ## Queues (R235, R236) -/

def isZero : Src → Bool
  | .zero => true
  | _ => false

/-- The operands QMAP's kind requires (R78, R235). -/
def qmapForm (kind : QKind) (a b : Src) : Bool :=
  match kind with
  | .off => isZero a && isZero b
  | .s => true
  | .v => true
/-- A binding QMAP refuses (R235). -/
def qmapBad (c : Ctx) (kind : QKind) (a b : Src) : Bool :=
  let base := (c.g.src32 a 0).toNat
  let n := (c.g.src32 b 0).toNat
  match kind with
  | .off => false
  | .s => decide (base % 4 ≠ 0) || decide (n < 1) || decide (4096 < n) || decide (c.pk.granules * 2048 < base + 4 * n)
  | .v => decide (base % 128 ≠ 0) || decide (n < 1) || decide (4096 < n) || decide (c.pk.granules * 2048 < base + 128 * n)

/-- QMAP's new binding (R31, R235). -/
def qmapQueue (c : Ctx) (kind : QKind) (a b : Src) : Queue :=
  match kind with
  | .off => {}
  | .s => { kind := 1, base := (c.g.src32 a 0).toNat, depth := (c.g.src32 b 0).toNat }
  | .v => { kind := 2, base := (c.g.src32 a 0).toNat, depth := (c.g.src32 b 0).toNat }

/-- Groups that wait on a queue look again once it is bound anew. -/
def State.wakeQueue (s : State) (t : Team) (q : Nat) : State :=
  t.gids.foldl (fun s g => s.modGroup g fun x => match x.stall with
    | some (.queue n _) => if n = q then { x with stall := none } else x
    | _ => x) s
def qmapBody (kind : QKind) (q : Nat) (a b : Src) : Body := fun s c act _ =>
  if act = 0 then .ok { s := s }
  else if qmapBad c kind a b then .trap { illegalOperand with lanes := some act } s
  else .ok { s := (s.setQueue c.g.team q (qmapQueue c kind a b)).wakeQueue c.t q }
/-- QMAP (R235). -/
def execQmap (h : Hd) (kind : QKind) (q : BitVec 4) (a b : Src) (s : State) : Host.Outcome State Fault Refusal :=
  issue { hd := h, rds := [.u32 a, .u32 b], noHandler := true, badOperand := !(qmapForm kind a b) } (qmapBody kind q.toNat a b) s

/-- QTRY's value (R236). -/
def qtryVal (q : Queue) (pop : Bool) : Tri :=
  if q.kind = 0 then .u else if pop then triBool (!q.empty) else triBool (!q.full)
/-- QTRY (R236). -/
def execQtry (h : Hd) (d : BitVec 3) (q : BitVec 4) (pop : Bool) (s : State) : Host.Outcome State Fault Refusal :=
  issue { hd := h, wrs := [.p d.toNat] }
    (pureRes fun c act _ => triWrites act d fun _ => qtryVal (c.t.queue q.toNat) pop) s

/-! ## Monitors (R201, R237) -/

/-- A free entry in a die's monitor table. -/
def State.monitorFree (s : State) (die : Nat) : Bool := decide ((s.monitors.filter fun m => m.die == die).length < 256)
/-- An entry armed for a group with the value it has read, and the group waiting (R201). -/
def State.arm (s : State) (c : Ctx) (line value : Nat) (pd : Option (Nat × Word)) : State :=
  if c.g.waitMon then
    { s with monitors := s.monitors.map fun m => if m.group = c.gid then { m with value := value } else m }
  else ({ s with monitors := s.monitors ++ [Monitor.mk (coreDie c.t.core) line c.gid value] } : State).modGroup c.gid
    fun g => { g with waitMon := true, waitPred := pd }

/-- The home marks the line as watched; where a write has changed the bytes since the group's copy of them, its notice follows at
once (R201; DESIGN CHOICE, notes/assumptions/41). -/
def State.noticeStale (s : State) (gid loc n value : Nat) : State :=
  if s.natAt (s.fwd loc) n = value then s
  else { s with notices := s.notices ++ [⟨gid, (s.lineAt (s.fwd loc / 128)).wts⟩] }

/-- The wait on bytes at a checked place, read as any load (R189): what `f` makes of them, U when no entry is free, else the group
waits; `pre` for the wait that a pre-emption completes with U (R238). Of a place whose translation was lost it reads zero, and
writes F at once (R328). -/
def waitOn (s : State) (c : Ctx) (act : Word) (d : BitVec 3) (p : Place) (n : Nat) (pre : Bool) (f : Nat → Option Tri) : Res :=
  let r := s.loadLines c [(0, 0, p)] none
  let v := leNat (r.1.get r.2.2.2 p n)
  let s := r.1.raiseTide c.gid r.2.1
  if isLost p.loc then .ok { s := s.dropMonitor c.gid, w := triWrites act d fun _ => .f }
  else match f v with
  | some x => .ok { s := s.dropMonitor c.gid, w := triWrites act d fun _ => x }
  | none =>
    if !c.g.waitMon && !s.monitorFree (coreDie c.t.core) then .ok { s := s, w := triWrites act d fun _ => .u }
    else .stall .monitor ((s.arm c (p.line s) v (if pre then some (d.toNat, act) else none)).noticeStale c.gid p.loc n v)

/-- The lane whose private stack an access made once for a group names: the lowest active one (DESIGN CHOICE,
notes/assumptions/110). -/
def firstLane (act : Word) : Nat := ((lanesOf act).head?).getD 0

def waitvBody (d : BitVec 3) (a : Src) (b : SrcB) : Body := fun s c act ws =>
  if act = 0 then .ok { s := s }
  else match s.checkAll c .wait 4 4 [(firstLane act, (c.g.src64 a 0).toNat)] with
    | .trap t => .trap (onceFor t act) s
    | .miss vas => .stall .translate (s.startWalks c vas)
    | .ok l => waitOn s c act d ((l.head?.map fun e => e.2.2).getD lostPlace) 4 true fun v =>
        if v = (c.g.srcB b ws 0 0).toNat then none else some .t
/-- WAITV (R237). -/
def execWaitv (h : Hd) (hold : Hold) (d : BitVec 3) (a : Src) (b : SrcB) (s : State) : Host.Outcome State Fault Refusal :=
  issue { hd := h, hold := holdSrc hold none (regB b) none, rds := .u64 a :: rdsB b .u32, win := windowB b 1,
          wrs := [.p d.toNat], memory := true } (waitvBody d a b) s

/-- MONITOR_NOTICE (R201): a notice wakes its group and raises its tidemark to the write's time. -/
def execMonitorNotice (i : Nat) (s : State) : Host.Outcome State Fault Refusal :=
  match s.notices[i]? with
  | none => .next s
  | some n =>
    .next (({ s with notices := s.notices.eraseIdx i }).modGroup n.group fun g =>
      if g.stall = some Stall.monitor then { g with stall := none, tide := max g.tide n.time } else g)

end Sys2Proof.Machine
end

