-- ==== Sys2Proof/Machine/DistInstr.lean ====
section
/-!
DEFINITION. The distributor instructions, MAJ 0x14 (R315 to R319), and the completion event (R305, R306).
-/
namespace Sys2Proof.Machine

/-- Room for an entry in the distributor's FIFO (R293, R316). -/
def State.fifoRoom (s : State) : Bool := decide (s.dist.fifo.length < 256) && s.dist.held.isEmpty

/-- A completion event's 16 bytes (R305). -/
def eventBytes (team : Nat) (seq code : Word) (flags : Nat) : List Byte :=
  leBytes 4 team ++ leBytes 4 seq.toNat ++ leBytes 4 code.toNat ++ leBytes 4 flags
/-- The address of a team's event (R305). -/
def Packet.eventVa (p : Packet) (team : Nat) : Nat := (p.events.toNat + 16 * team) % 2 ^ 64

/-- FIFO entries of the distributor instructions (R293). -/
def dqnextEntry (handle tag slot : Nat) : DWord := fifoEntry 3 (handle + tag * 2 ^ 15 + slot % 2 ^ 24 * 2 ^ 21)
def dqdoneEntry (handle : Nat) (item : Word) : DWord := fifoEntry 4 (handle + item.toNat * 2 ^ 15)
def eventwEntry (handle flags : Nat) : DWord := fifoEntry 5 (handle + flags * 2 ^ 15)

/-- The slot of DQNEXT: the issuing team's own scratchpad (R317). -/
def slotRule : Rule := { access := 1, priv := false }
def slotEa (a : Word) : Nat := 0xFFFE * 2 ^ 48 + a.toNat
def slotAv (c : Ctx) (act : Word) (a : Word) : TrapInfo :=
  onceFor { ownTrap c act .accessViolation with access := 1, addr := [(0, BitVec.ofNat 64 (slotEa a))], pte := [(0, 0)] } act

/-- DQNEXT in the order of R317: the wait for a PENDING tag and a pending Dense Fallback come after the checks of its slot's address,
as XCOPY's do (DESIGN CHOICE, notes/assumptions/111). -/
def dqnextBody (a : Src) (tag : BitVec 6) : Body := fun s c act _ =>
  let x := c.g.src32 a 0
  if act = 0 then .ok { s := s }
  else if c.pk.items = 0 then .trap (ownTrap c act .illegalInstruction) s
  else withTag s c act tag.toNat fun _ =>
    if x.toNat / 2 ^ 24 ≠ 255 then .trap (slotAv c act x) s
    else match s.checkAll c slotRule 8 8 [(0, slotEa x)] with
      | .trap t => .trap (onceFor t act) s
      | .miss vas => .stall .translate (s.startWalks c vas)
      | .ok _ => tagFree s c act tag.toNat fun _ =>
        if s.fifoRoom then
          .ok { s := (s.setTag c.g.team tag.toNat { c.t.tag tag.toNat with st := .pending }).pushFifo
                  (dqnextEntry c.g.team tag.toNat x.toNat) (some (c.t.pid, c.t.index)) }
        else .stall .distrib s
/-- DQNEXT (R317). -/
def execDqnext (h : Hd) (hold : Hold) (a : Src) (tag : BitVec 6) (s : State) : Host.Outcome State Fault Refusal :=
  issue { hd := h, hold := holdSrc hold (some a) none none, rds := [.u32 a], noHandler := true, memory := true }
    (dqnextBody a tag) s

def dqdoneBody (a : Src) : Body := fun s c act _ =>
  if act = 0 then .ok { s := s }
  else if c.pk.items = 0 then .trap (ownTrap c act .illegalInstruction) s
  else if s.fifoRoom then .ok { s := s.pushFifo (dqdoneEntry c.g.team (c.g.src32 a 0)) (some (c.t.pid, c.t.index)) }
  else .stall .distrib s
/-- DQDONE (R318). -/
def execDqdone (h : Hd) (hold : Hold) (a : Src) (s : State) : Host.Outcome State Fault Refusal :=
  issue { hd := h, hold := holdSrc hold (some a) none none, rds := [.u32 a], noHandler := true, memory := true }
    (dqdoneBody a) s

/-- The EARLY event, written at the group's tide time through the page tables (R289, R318). -/
def devent (s : State) (c : Ctx) (act : Word) (code : Word) : Res :=
  let s' := (s.modTeam c.g.team fun t => { t with code := code, early := true }).pushFifo (eventwEntry c.g.team 2)
    (some (c.t.pid, c.t.index))
  if c.pk.events = 0 then .ok { s := s' }
  else match s'.hwStore (c.pk.eventVa c.t.index) (eventBytes c.t.index c.pk.seq code 2) c.g.tide with
    | .error t => .trap (onceFor t act) s
    | .ok r => .ok { s := r.1.raiseTide c.gid r.2 }
def deventBody (a : Src) : Body := fun s c act _ =>
  if act = 0 then .ok { s := s }
  else if s.fifoRoom then devent s c act (c.g.src32 a 0)
  else .stall .distrib s
/-- DEVENT (R318). -/
def execDevent (h : Hd) (hold : Hold) (a : Src) (s : State) : Host.Outcome State Fault Refusal :=
  issue { hd := h, hold := holdSrc hold (some a) none none, rds := [.u32 a], noHandler := true, memory := true }
    (deventBody a) s

/-- What DWAIT makes of an event: SEQ in bytes [7:4], FLAGS in [15:12] (R305, R319). -/
def dwaitTest (seq : Word) (e : Nat) : Option Tri :=
  let flags := e / 2 ^ 96
  if e / 2 ^ 32 % 2 ^ 32 ≠ seq.toNat then none
  else if flags.testBit 2 then some .f
  else if flags.testBit 0 || flags.testBit 1 then some .t
  else none
def dwaitBody (d : BitVec 3) (a : Src) (b : SrcB) : Body := fun s c act ws =>
  if act = 0 then .ok { s := s }
  else match s.checkAll c .dwait 16 16 [(0, (c.g.src64 a 0).toNat)] with
    | .trap t => .trap (onceFor t act) s
    | .miss vas => .stall .translate (s.startWalks c vas)
    | .ok l => waitOn s c act d ((l.head?.map fun e => e.2.2).getD lostPlace) 16 false (dwaitTest (c.g.srcB b ws 0 0))
/-- DWAIT (R319). -/
def execDwait (h : Hd) (hold : Hold) (d : BitVec 3) (a : Src) (b : SrcB) (s : State) : Host.Outcome State Fault Refusal :=
  issue { hd := h, hold := holdSrc hold none (regB b) none, rds := .u64 a :: rdsB b .u32, win := windowB b 1,
          wrs := [.p d.toNat], memory := true } (dwaitBody d a b) s

end Sys2Proof.Machine
end

