-- ==== Sys2Proof/Machine/Cove.lean ====
section
/-!
DEFINITION. The cove instructions, MAJ 0x13 (R269 to R286, R382): descriptors and slots, key signatures, appends, gathers and
clears.
-/
namespace Sys2Proof.Machine

/-! ## Descriptors and slots (R269, R270, R277) -/

def CoveSlot.nat (x : CoveSlot) (off n : Nat) : Nat := natOf x.image off n
def CoveSlot.ctl (x : CoveSlot) : Nat := x.nat 0 8
def CoveSlot.poolCount (x : CoveSlot) : Nat := x.nat 8 4
def CoveSlot.thresh (x : CoveSlot) : Nat := x.nat 12 4
def CoveSlot.tokMax (x : CoveSlot) : Nat := x.nat 20 4
def CoveSlot.kstride (x : CoveSlot) : Nat := x.nat 24 4
def CoveSlot.keyBase (x : CoveSlot) : Nat := x.nat 32 8
def CoveSlot.poolBase (x : CoveSlot) : Nat := x.nat 40 8
def CoveSlot.freeHead (x : CoveSlot) : Nat := x.nat 48 8
def CoveSlot.proj (x : CoveSlot) (t : Nat) : Nat := x.nat (56 + 16 * t) 8
def CoveSlot.dir (x : CoveSlot) (t : Nat) : Nat := x.nat (64 + 16 * t) 8
/-- The STATUS word's address. -/
def CoveSlot.status (x : CoveSlot) : Nat := x.addr.toNat + 16
def CoveSlot.dcode (x : CoveSlot) : Nat := x.ctl % 4
def CoveSlot.dim (x : CoveSlot) : Nat := 64 * 2 ^ x.dcode
def CoveSlot.fp32 (x : CoveSlot) : Bool := x.ctl / 8 % 2 == 1
def CoveSlot.bits (x : CoveSlot) : Nat := x.ctl / 16 % 32
def CoveSlot.tables (x : CoveSlot) : Nat := x.ctl / 512 % 4 + 1
def CoveSlot.matrix (x : CoveSlot) (t : Nat) : Bool := x.ctl / 2048 / 2 ^ t % 2 == 1
def CoveSlot.traps (x : CoveSlot) : Bool := x.ctl / 2 ^ 15 % 2 == 1
def CoveSlot.elemBytes (x : CoveSlot) : Nat := if x.fp32 then 4 else 2
def CoveSlot.keyBytes (x : CoveSlot) : Nat := x.dim * x.elemBytes
/-- Registers a key or query occupies in each lane (R272). -/
def CoveSlot.keyRegs (x : CoveSlot) : Nat := if x.fp32 then 2 * (x.dim / 32) else x.dim / 32 / 2

/-- Fields KTABLE refuses (R277). -/
def CoveSlot.bad (x : CoveSlot) : Bool :=
  let ts := List.range x.tables
  decide (x.nat 120 8 ≠ 0) || decide (x.nat 28 4 ≠ 0) || decide (x.ctl / 2 ^ 16 ≠ 0) || decide (x.ctl / 4 % 2 ≠ 0) ||
    decide (x.dcode = 3) || decide (x.bits < 4) || decide (16 < x.bits) ||
    decide (x.keyBase % 128 ≠ 0) || decide (x.poolBase % 128 ≠ 0) || decide (x.freeHead % 8 ≠ 0) ||
    ts.any (fun t => decide (x.dir t % 128 ≠ 0) || (x.matrix t && decide (x.proj t % 8 ≠ 0))) ||
    decide (x.kstride < x.keyBytes) || decide (x.kstride % 128 ≠ 0) || decide (x.tokMax < 1) ||
    decide (x.poolCount < 1) || decide (0x7FFFFFFF < x.poolCount)

/-- The ranges a slot translates, in the order of R277. -/
def CoveSlot.ranges (x : CoveSlot) : List Range :=
  let ts := List.range x.tables
  let r (ea len : Nat) : Range := ⟨Rule.key true, ea, len⟩
  [r x.keyBase (x.tokMax * x.kstride)] ++ (ts.map fun t => r (x.dir t) (8 * 2 ^ x.bits)) ++
    ((ts.filter x.matrix).map fun t => r (x.proj t) (x.bits * (x.dim / 8))) ++
    [r x.poolBase (64 * x.poolCount), r x.freeHead 8, r x.status 4]

/-- Page frames of ranges that have passed their checks; a page whose walk met a lost line lies at the lost place (R328). -/
def State.pagesOf (s : State) (c : Ctx) (l : List Range) : List (Nat × Nat) :=
  (l.flatMap Range.cut).filterMap fun p => match s.pieceTr c p with
    | .good x => some (p.ea / 65536, if isLost x.loc then lostPlace.loc else x.loc - p.ea % 65536)
    | _ => none
/-- A slot's frames; one that lacks a page to a lost line is translated again at its next use (R277, R328). -/
def CoveSlot.withPages (x : CoveSlot) (l : List (Nat × Nat)) : CoveSlot :=
  { x with loaded := true, pages := l, stale := l.any fun e => isLost e.2 }

/-- The place of an address in a slot's ranges. -/
def CoveSlot.place (x : CoveSlot) (va : Nat) : Nat :=
  let va := va % 2 ^ 64
  (((x.pages.find? fun e => e.1 == va / 65536).map Prod.snd).getD 0) + va % 65536

/-- The places of an explicit matrix's bytes. -/
def CoveSlot.matrixPlaces (x : CoveSlot) (t : Nat) : List Nat :=
  (List.range (x.bits * (x.dim / 8))).map fun k => x.place (x.proj t + k)
/-- A slot is loaded or translated anew: its matrices are read from memory again, so that only a store made while it is loaded
leaves their bytes open (R84, R271). -/
def State.dropMatrices (s : State) (core : Nat) (x : CoveSlot) : State :=
  let old := ((List.range x.tables).filter x.matrix).flatMap fun t => (x.matrixPlaces t).map fun l => l / 128
  s.modCore core fun k => { k with consts := k.consts.filter fun e => !(old.contains e.1) }

/-- A slot whose translations are current, or the trap or stall that stops its use (R277). -/
inductive SlotRes where
  | ok (x : CoveSlot) (s : State)
  | stop (r : Res)
deriving Repr

def translateSlot (s : State) (c : Ctx) (act : Word) (x : CoveSlot) (w : Stall) : SlotRes :=
  match s.checkRanges c x.ranges with
  | .trap t => .stop (.trap (onceFor t act) s)
  | .miss vas => .stop (.stall w (s.startWalks c vas))
  | .ok => .ok (x.withPages (s.pagesOf c x.ranges)) s

def Team.cove (t : Team) (n : Nat) : CoveSlot := sget {} t.coves n
def State.setCove (s : State) (h n : Nat) (x : CoveSlot) : State := s.modTeam h fun t => { t with coves := sput {} t.coves n x }

/-- A loaded slot before use: a stale one is translated again, once `ok` holds of it; `w` is the stall of its misses (R276,
R277). -/
def useSlot (s : State) (c : Ctx) (act : Word) (n : Nat) (ok : CoveSlot → Bool) (w : Stall) (k : State → CoveSlot → Res) :
    Res :=
  let x := c.t.cove n
  if !x.loaded || !(ok x) then .trap (ownTrap c act .illegalOperand) s
  else if x.stale then
    match translateSlot s c act x w with
    | .stop r => r
    | .ok x s => k ((s.setCove c.g.team n x).dropMatrices c.t.core x) x
  else k s x

/-- KTABLE (R277); a descriptor that a walk has lost leaves the slot without one (R328). -/
def ktableBody (slot : BitVec 2) (a : Src) : Body := fun s c act _ =>
  if act = 0 then .ok { s := s }
  else match s.checkAll c (.key false) 128 128 [(0, (c.g.src64 a 0).toNat)] with
    | .trap t => .trap (onceFor t act) s
    | .miss vas => .stall .translate (s.startWalks c vas)
    | .ok l =>
      let r := s.loadLines c l none
      let bs := l.flatMap fun e => r.1.get r.2.2.2 e.2.2 128
      let x : CoveSlot := { addr := c.g.src64 a 0, image := bs }
      if l.any fun e => isLost e.2.2.loc then .ok { s := s.setCove c.g.team slot.toNat {}, endRun := true }
      else if x.bad then .trap (ownTrap c act .illegalOperand) s
      else match s.checkRanges c x.ranges with
        | .trap t => .trap (onceFor t act) s
        | .miss vas => .stall .translate (s.startWalks c vas)
        | .ok =>
          let y := x.withPages (s.pagesOf c x.ranges)
          .ok { s := ((r.1.raiseTide c.gid r.2.1).setCove c.g.team slot.toNat y).dropMatrices c.t.core y, endRun := true }
def execKtable (h : Hd) (slot : BitVec 2) (a : Src) (s : State) : Host.Outcome State Fault Refusal :=
  issue { hd := h, rds := [.u64 a], memory := true, memCode := 11 } (ktableBody slot a) s

/-! ## Keys and signatures (R71, R271, R272) -/

def keyBase : Src → Nat
  | .v n => n.toNat
  | _ => 0
/-- Whether a base is refused for a slot (R276). -/
def keyBad (c : Ctx) (a : Src) (x : CoveSlot) : Bool :=
  decide (keyBase a % 4 ≠ 0) || decide (c.pk.regs < keyBase a + x.keyRegs)

/-- Element e of a lane. -/
def keyElem (g : Group) (x : CoveSlot) (base l e : Nat) : Pt :=
  if x.fp32 then (ivOfWords .s fun k => g.getV (base + 2 * e + k) l).mid b32
  else bf16.dec ((g.getV (base + e / 2) l).toNat / 2 ^ (16 * (e % 2)) % 2 ^ 16)
/-- The elements in order. -/
def keyElems (g : Group) (x : CoveSlot) (base : Nat) : List Pt :=
  lanes.flatMap fun l => (List.range (x.dim / 32)).map fun e => keyElem g x base l e
/-- The bytes of a key in memory (R272). -/
def keyImage (g : Group) (x : CoveSlot) (base : Nat) : List Byte :=
  lanes.flatMap fun l => (List.range (x.dim / 32)).flatMap fun e =>
    if x.fp32 then leBytes 4 (b32.encPt (keyElem g x base l e))
    else leBytes 2 ((g.getV (base + e / 2) l).toNat / 2 ^ (16 * (e % 2)) % 2 ^ 16)

/-- The sign of a seeded projection, true for −1 (R271). -/
def seedSign (seed i j : Nat) : Bool :=
  let z := (seed + (i * 2 ^ 16 + j) * 0x9E3779B97F4A7C15) % 2 ^ 64
  let z := ((z ^^^ (z / 2 ^ 31)) * 0xBF58476D1CE4E5B9) % 2 ^ 64
  let z := z ^^^ (z / 2 ^ 29)
  z / 2 ^ 63 % 2 == 1

/-- The matrices of the first n tables, read through the core's constant cache (R271). -/
def State.fillMatrices (s : State) (c : Ctx) (n : Nat) (x : CoveSlot) : State :=
  ((List.range n).filter x.matrix).foldl (fun s t => s.fillConsts c (x.matrixPlaces t)) s
/-- A sign, true for −1: of a line that a later table has driven out of the cache again, as memory holds it. -/
def State.signAt (s : State) (core : Nat) (x : CoveSlot) (t i j : Nat) : Bool :=
  if x.matrix t then
    let loc := x.place (x.proj t + i * (x.dim / 8) + j / 8)
    (((s.constBytes core [loc]).bind List.head?).getD (s.byteAt (s.fwd loc))).getLsbD (j % 8)
  else seedSign (x.proj t) i j

/-- A sum of two points rounded to nearest (R71). -/
def ptAdd (f : Fmt) : Pt → Pt → Pt
  | .num .pinf, .num .ninf => .nan
  | .num .ninf, .num .pinf => .nan
  | .num a, .num b => .num (f.roundE .rn (a.add b))
  | _, _ => .nan
def ptNeg : Pt → Pt
  | .num x => .num x.neg
  | .nan => .nan

/-- The signature of a key in a table (R71, R271). -/
def State.signature (s : State) (core : Nat) (x : CoveSlot) (key : List Pt) (t : Nat) : Nat :=
  (List.range x.bits).foldl (fun a i =>
    let terms := key.zipIdx.map fun e => some (if s.signAt core x t i e.2 then ptNeg e.1 else e.1)
    match sumBlocks (ptAdd b32) (some (.num .zero)) terms with
    | some (.num v) => if Ext.zero.lt v then a + 2 ^ i else a
    | _ => a) 0

/-- A slot as the first group in a run sees it, for the registers its key occupies. -/
def State.runSlot (s : State) (n : Nat) : CoveSlot :=
  match s.runs.head? with
  | none => {}
  | some gid =>
    match s.ctx? gid with
    | none => {}
    | some c => c.t.cove n
def isV : Src → Bool
  | .v _ => true
  | _ => false
/-- The registers of a key, read in every lane. -/
def keyReads (s : State) (a : Src) (n : Nat) : List Reg := regRange .v (keyBase a) (s.runSlot n).keyRegs

/-- KSIGN (R280); it waits for the appends of an earlier KSTORE (R278). -/
def ksignBody (d : Dst) (a : Src) (slot : BitVec 2) : Body := fun s c act _ =>
  if act = 0 then .ok { s := s }
  else if s.appends.any fun x => x.group == c.gid then .stall (.memorder 12) s
  else useSlot s c act slot.toNat (fun x => !(keyBad c a x)) .translate fun s x =>
    let s := s.fillMatrices c x.tables x
    let key := keyElems c.g x (keyBase a)
    let v := (List.range x.tables).foldl (fun v t => v + s.signature c.t.core x key t * 2 ^ (16 * t)) 0
    .ok { s := s, w := dstWrites act d 2 fun _ k => BitVec.ofNat 32 (v / 2 ^ (32 * k)) }
def execKsign (h : Hd) (la : BitVec 4) (d : Dst) (a : Src) (slot : BitVec 2) (s : State) :
    Host.Outcome State Fault Refusal :=
  issue { hd := h, long := some la, wrs := [.g64 d], exReads := keyReads s a slot.toNat, badOperand := !(isV a) }
    (ksignBody d a slot) s

/-! ## KSTORE and its appends (R275, R278, R279, R382) -/

def noBlock : Nat := 0x7FFFFFFF
def CoveSlot.block (x : CoveSlot) (n : Nat) : Nat := x.place (x.poolBase + 64 * n)
/-- An index as the units read it (R382); a block at a lost place is none (R328). -/
def CoveSlot.index (x : CoveSlot) (n : Nat) : Nat := if n < x.poolCount ∧ isLost (x.block n) = false then n else noBlock
def CoveSlot.entry (x : CoveSlot) (t sig : Nat) : Nat := x.place (x.dir t + 8 * sig)

/-- A unit's accesses: the state and the tide time reached. A lost place reads zero and takes no write (R328). -/
abbrev Unit' := State × Nat
def rdU (a : Unit') (loc n : Nat) : Unit' × Nat :=
  if isLost loc then (a, 0)
  else
    let r := a.1.readHome loc 0 a.2
    (r, r.1.natAt (r.1.fwd loc) n)
def wrU (a : Unit') (loc : Nat) (bs : List Byte) : Unit' := if isLost loc then a else a.1.writeHome loc bs a.2

/-- A pop of the free list (R275, R382). -/
def popBlock (x : CoveSlot) (a : Unit') : Unit' × Nat :=
  let h := rdU a (x.place x.freeHead) 8
  let n := x.index (h.2 % 2 ^ 32)
  if n = noBlock ∨ isLost (x.place x.freeHead) then (h.1, noBlock)
  else
    let b := rdU h.1 (x.block n) 4
    let nx := x.index b.2
    (wrU b.1 (x.place x.freeHead) (leBytes 8 (nx + (h.2 / 2 ^ 32 + 1) % 2 ^ 32 * 2 ^ 32)), n)
/-- A push onto the free list (R275). -/
def pushBlock (x : CoveSlot) (m : Nat) (a : Unit') : Unit' :=
  let h := rdU a (x.place x.freeHead) 8
  if isLost (x.place x.freeHead) then a
  else
  let a := wrU h.1 (x.block m) (leBytes 4 (x.index (h.2 % 2 ^ 32)))
  wrU a (x.place x.freeHead) (leBytes 8 (m + (h.2 / 2 ^ 32 + 1) % 2 ^ 32 * 2 ^ 32))

/-- An open byte: a fresh free value (R274). -/
def openBytes (n count : Nat) : List Byte := (List.range n).map fun i => Config.gatherByte (64 * count + i)
/-- A new block holding one token; its other tokens are unspecified, and the reserved bits of bytes [7:5] stay as they were in
`old`, its first 8 bytes (R11, R274, R279). -/
def newBlock (token old count : Nat) : List Byte :=
  leBytes 4 noBlock ++ [1, BitVec.ofNat 8 (old / 2 ^ 40 % 256 / 2 * 2 + 1)] ++ leBytes 2 (old / 2 ^ 48) ++ leBytes 4 token ++
    openBytes 52 count

/-- Bits of a 64-bit entry replaced. -/
def setHead (e n : Nat) : Nat := e / 2 ^ 31 * 2 ^ 31 + n
def setTail (e n : Nat) : Nat := e / 2 ^ 63 * 2 ^ 63 + n * 2 ^ 32 + e % 2 ^ 32
def entryTail (e : Nat) : Nat := e / 2 ^ 32 % 2 ^ 31
def entryHead (e : Nat) : Nat := e % 2 ^ 31

/-- An append that finds no free block (R279). -/
def lossyAppend (x : CoveSlot) (t at' e : Nat) (a : Unit') : Unit' :=
  let a := wrU a at' (leBytes 8 (e % 2 ^ 63 + 2 ^ 63))
  let st := rdU a (x.place x.status) 4
  wrU st.1 (x.place x.status) (leBytes 4 (st.2 ||| 2 ^ t))

/-- An append that starts a block (R279). -/
def growAppend (x : CoveSlot) (t at' e tail token : Nat) (a : Unit') : Unit' :=
  let p := popBlock x a
  if p.2 = noBlock then lossyAppend x t at' e p.1
  else
    let f := p.1.1.fresh
    let a := wrU (f.2, p.1.2) (x.block p.2) (newBlock token (f.2.natAt (f.2.fwd (x.block p.2)) 8) f.1)
    let a := if tail = noBlock then wrU a at' (leBytes 8 (setHead e p.2)) else wrU a (x.block tail) (leBytes 4 p.2)
    wrU a at' (leBytes 8 (setTail (if tail = noBlock then setHead e p.2 else e) p.2))

/-- One append (R279); none where its entry lies at a lost place (R328). -/
def appendRun (x : CoveSlot) (t sig token : Nat) (a : Unit') : Unit' :=
  let at' := x.entry t sig
  let e := rdU a at' 8
  let tail := x.index (entryTail e.2)
  if isLost at' then a
  else if tail = noBlock then growAppend x t at' e.2 tail token e.1
  else
    let b := rdU e.1 (x.block tail) 64
    let cnt := min 14 (b.2 / 2 ^ 32 % 256)
    if cnt = 14 then growAppend x t at' e.2 tail token b.1
    else
      let im := patch (patch (leBytes 64 b.2) (8 + 4 * cnt) (leBytes 4 token)) 4 [BitVec.ofNat 8 (cnt + 1)]
      wrU b.1 (x.block tail) im

/-- The places an append reads, for lost lines among them (R378). -/
def State.appendReads (s : State) (x : CoveSlot) (t sig : Nat) : List Nat :=
  let rd (loc n : Nat) : Nat := s.natAt (s.fwd loc) n
  let tail := x.index (entryTail (rd (x.entry t sig) 8))
  let n := x.index (rd (x.place x.freeHead) 8 % 2 ^ 32)
  let grow := [x.place x.freeHead, if n = noBlock then x.place x.status else x.block n]
  x.entry t sig :: (if tail = noBlock then grow
    else x.block tail :: if 14 ≤ rd (x.block tail + 4) 1 then grow else [])

/-- Whether an append may be performed: the first for its directory line, and the line not locked (R279, R283). -/
def State.appendReady (s : State) (i : Nat) (a : Append) : Bool :=
  let line := a.slot.entry a.table a.sig / 128
  !((s.appends.take i).any fun b => b.slot.entry b.table b.sig / 128 == line) &&
    !(s.locks.any fun k => k.dst && decide (k.first ≤ line) && decide (line ≤ k.last))

/-- COVE_APPEND (R279). -/
def execCoveAppend (i : Nat) (s : State) : Host.Outcome State Fault Refusal :=
  match s.appends[i]? with
  | none => .next s
  | some a =>
    if s.appendReady i a then
      let s := match (s.group? a.group) with
        | some g => s.unitCheck a.group g.team a.pc (s.appendReads a.slot a.table a.sig)
        | none => s
      let r := appendRun a.slot a.table a.sig a.token ({ s with appends := s.appends.eraseIdx i }, a.time)
      .next ((r.1.raiseTide a.group r.2).modGroup a.group fun g => { g with xfers := g.xfers - 1 })
    else .next s

/-- KSTORE (R278). -/
def kstoreBody (slot : BitVec 2) (a b : Src) : Body := fun s c act _ =>
  if act = 0 then .ok { s := s }
  else
    let tok := (c.g.src32 b 0).toNat
    useSlot s c act slot.toNat (fun x => !(keyBad c a x) && decide (tok < x.tokMax)) .translate fun s x =>
      let at' := x.keyBase + tok * x.kstride
      let eas := (List.range (x.keyBytes / 128)).map fun k => (k, (at' + 128 * k) % 2 ^ 64)
      match s.checkAll c (.key true) 128 128 eas with
      | .trap t => .trap (onceFor t act) s
      | .miss vas => .stall .translate (s.startWalks c vas)
      | .ok l =>
        let im := keyImage c.g x (keyBase a)
        let s := s.storePlaces c l fun k => (im.drop (128 * k)).take 128
        let s := s.fillMatrices c x.tables x
        let time := ((s.group? c.gid).map Group.tide).getD 0
        let key := keyElems c.g x (keyBase a)
        let new := (List.range x.tables).map fun t => Append.mk c.gid x t (s.signature c.t.core x key t) tok time c.g.pc
        .ok { s := ({ s with appends := s.appends ++ new } : State).modGroup c.gid
                fun g => { g with xfers := g.xfers + x.tables } }
def execKstore (h : Hd) (hold : Hold) (slot : BitVec 2) (a b : Src) (s : State) : Host.Outcome State Fault Refusal :=
  issue { hd := h, hold := holdSrc hold none (some b) none, rds := [.u32 b], exReads := keyReads s a slot.toNat,
          badOperand := !(isV a), noHandler := true, memory := true } (kstoreBody slot a b) s

/-! ## KGATHER (R281, R282) -/

/-- A tag beyond the launch's count (R224). -/
def tagBad (c : Ctx) (n : Nat) : Bool := decide (c.pk.tags ≤ n)

/-- The lines of a slot's directory, as pieces of places. -/
def CoveSlot.dirRuns (x : CoveSlot) (t n : Nat) : List (Nat × Nat) :=
  (piecesOf (x.dir t) (8 * n)).map fun p => (x.place p.1, p.2)

/-- The output of the valid tables, checked: its place, or the trap or stall. With a valid count of 0 there is no output, and the
4 bytes at DEST are checked (DESIGN CHOICE, notes/assumptions/134). -/
def State.gatherDest (s : State) (c : Ctx) (act : Word) (dest size : Nat) (w : Stall) : Except Res Nat :=
  let av (d : BitVec 4) : Res :=
    .trap (onceFor { cause := .accessViolation, detail := d, access := 1, lanes := some act,
                     addr := [(0, BitVec.ofNat 64 dest)], pte := [(0, 0)] } act) s
  if dest / 2 ^ 48 ≠ 0xFFFE then .error (av 0)
  else match s.checkRanges c [⟨{ access := 1, priv := false }, dest, max 4 size⟩] with
    | .trap t => .error (.trap (onceFor t act) s)
    | .miss vas => .error (.stall w (s.startWalks c vas))
    | .ok =>
      if dest % 4 ≠ 0 then .error (av 1)
      else .ok (((s.placesOf c ⟨{ access := 1, priv := false }, dest, max 4 size⟩).head?.map Prod.fst).getD 0)

/-- KGATHER at issue (R281). -/
def kgatherBody (d : BitVec 3) (a b : Src) (slot : BitVec 2) (tag : BitVec 6) : Body := fun s c act _ =>
  if act = 0 then .ok { s := s }
  else
    let cap := (c.g.src b 0 2).toNat
    let v := (c.g.src b 0 3).toNat
    let ok (x : CoveSlot) := !(keyBad c a x) && !(tagBad c tag.toNat) && decide (1 ≤ cap) && decide (cap ≤ 65535)
    useSlot s c act slot.toNat ok (tagOr c tag.toNat) fun s x =>
      let n := min v x.tables
      match s.gatherDest c act (c.g.src64 b 0).toNat (n * (4 * (cap + 1))) (tagOr c tag.toNat) with
      | .error r => r
      | .ok at' =>
        tagFree s c act tag.toNat fun _ =>
          let need := if n = 0 then [] else lockNeed [(at', n * (4 * (cap + 1)))] []
          let dirs := ((List.range n).flatMap fun t => x.dirRuns t (2 ^ x.bits)).map fun e =>
            (false, e.1 / 128, (e.1 + e.2 - 1) / 128)
          if s.mayLock need dirs then
            let s := s.fillMatrices c n x
            let key := keyElems c.g x (keyBase a)
            let sigs := (List.range n).map (s.signature c.t.core x key)
            let id := s.nextId
            let s := s.startOp c tag.toNat (.gather x (if c.g.hmode && decide (6 ≤ d.toNat) then d.toNat + 8 else d.toNat) act at' cap sigs)
              [] (x.pages.map Prod.fst) need
            let s := s.modGroup c.gid fun g => { g with unread := g.unread ++ [(id, .p d.toNat)] }
            .ok { s := s, w := triWrites act d fun _ => .u }
          else .stall (.rangelock need dirs) s
def execKgather (h : Hd) (d : BitVec 3) (a b : Src) (slot : BitVec 2) (tag : BitVec 6) (s : State) :
    Host.Outcome State Fault Refusal :=
  issue { hd := h, rds := [.sgroup b 4 4], wrs := [.p d.toNat], exReads := keyReads s a slot.toNat,
          badOperand := !(isV a), memory := true } (kgatherBody d a b slot tag) s

/-- The tokens of a chain from a block on, at most `fuel` blocks (R281, R382). -/
def gatherChain (x : CoveSlot) : Nat → Nat → Unit' → Unit' × List Nat
  | 0, _, a => (a, [])
  | f + 1, n, a =>
    if n = noBlock then (a, [])
    else
      let b := rdU a (x.block n) 64
      let cnt := min 14 (b.2 / 2 ^ 32 % 256)
      let toks := (List.range cnt).map fun k => b.2 / 2 ^ (8 * (8 + 4 * k)) % 2 ^ 32
      let r := gatherChain x f (x.index (b.2 % 2 ^ 32)) b.1
      (r.1, toks ++ r.2)
/-- The places of the blocks of a chain as memory holds it. -/
def State.chainPlaces (s : State) (x : CoveSlot) : Nat → Nat → List Nat
  | 0, _ => []
  | f + 1, n =>
    if n = noBlock then [] else x.block n :: s.chainPlaces x f (x.index (s.natAt (s.fwd (x.block n)) 4))
/-- The places a walk of a bucket reads. -/
def State.bucketReads (s : State) (x : CoveSlot) (t sig : Nat) : List Nat :=
  let e := x.entry t sig
  e :: s.chainPlaces x x.poolCount (if isLost e then noBlock else x.index (entryHead (s.natAt (s.fwd e) 8)))
/-- The lists of the valid tables. -/
def gatherLists (x : CoveSlot) (sigs : List Nat) (a : Unit') : Unit' × List (List Nat) :=
  sigs.zipIdx.foldl (fun (r : Unit' × List (List Nat)) e =>
    let h := rdU r.1 (x.entry e.2 e.1) 8
    let g := gatherChain x x.poolCount (if isLost (x.entry e.2 e.1) then noBlock else x.index (entryHead h.2)) h.1
    (g.1, r.2 ++ [g.2])) (a, [])

/-- Whether a gather takes the dense fallback (R281). -/
def gatherDense (x : CoveSlot) (cap status : Nat) (l : List (List Nat)) : Bool :=
  decide (x.thresh < (l.map List.length).sum) || l.any (fun t => decide (cap < t.length)) ||
    (List.range l.length).any fun t => status.testBit t

/-- The counts and lists written to the scratchpad. -/
def gatherWrite (dest cap : Nat) (l : List (List Nat)) (a : Unit') : Unit' :=
  l.zipIdx.foldl (fun (a : Unit') e =>
    a.1.writeAt (dest + e.2 * (4 * (cap + 1))) (leBytes 4 e.1.length ++ e.1.flatMap (leBytes 4)) a.2) a

/-- The predicate of a gather, 8 to 15 in the handler bank, written in the lanes active at issue. -/
def Group.gatherPred (g : Group) (p : Nat) (act : Word) (v : BitVec 2) : Group :=
  if 8 ≤ p then { g with hp := sputs 0 g.hp ((lanesOf act).map fun l => (32 * (p - 8) + l, v)) }
  else { g with p := sputs 0 g.p ((lanesOf act).map fun l => (32 * p + l, v)) }

/-- GATHER_COMPLETION (R281, R282): between runs of its group, the walk's result is written and the tag becomes SET. -/
def execGatherCompletion (i : Nat) (s : State) : Host.Outcome State Fault Refusal :=
  match s.ops[i]? with
  | none => .next s
  | some o =>
    match o.kind with
    | .gather x p act dest cap sigs =>
      if s.runs.contains o.group then .next s
      else
        let s := s.unitCheck o.group o.team o.pc (x.place x.status :: sigs.zipIdx.flatMap fun e => s.bucketReads x e.2 e.1)
        let r := gatherLists x sigs (s, o.time)
        let st := rdU r.1 (x.place x.status) 4
        let dense := gatherDense x cap st.2 r.2
        let s := if dense then st.1.1 else (gatherWrite dest cap r.2 st.1).1
        let s := s.modGroup o.group fun g =>
          let g := g.gatherPred p act (if dense then 0 else 1)
          { g with unread := g.unread.filter fun u => u.1 != o.id }
        .next (s.endOp i { o with time := st.1.2 } (dense && x.traps))
    | _ => .next s

/-! ## KCLEAR (R283) -/

def kclearBody (b : Src) (table : BitVec 2) (slot : BitVec 2) (tag : BitVec 6) : Body := fun s c act _ =>
  if act = 0 then .ok { s := s }
  else
    let v := (c.g.src32 b 0).toNat
    let t := table.toNat
    useSlot s c act slot.toNat (fun x => decide (t < x.tables) && !(tagBad c tag.toNat)) (tagOr c tag.toNat) fun s x =>
      tagFree s c act tag.toNat fun _ =>
        let n := min v (2 ^ x.bits)
        let need := if n = 0 then [] else lockNeed (x.dirRuns t n) []
        engineIssue s c tag.toNat (.clear x t 0 n (decide (2 ^ x.bits ≤ v))) [] (x.pages.map Prod.fst) need
def execKclear (h : Hd) (hold : Hold) (b : Src) (table : BitVec 2) (slot : BitVec 2) (tag : BitVec 6) (s : State) :
    Host.Outcome State Fault Refusal :=
  issue { hd := h, hold := holdSrc hold none (some b) none, rds := [.u32 b], memory := true }
    (kclearBody b table slot tag) s

/-- The blocks of a chain are unlinked and pushed onto the free list. -/
def clearChain (x : CoveSlot) : Nat → Nat → Unit' → Unit'
  | 0, _, a => a
  | f + 1, n, a =>
    if n = noBlock then a
    else
      let b := rdU a (x.block n) 8
      let a := wrU b.1 (x.block n + 5) [BitVec.ofNat 8 (b.2 / 2 ^ 40 % 256 / 2 * 2)]
      clearChain x f (x.index (b.2 % 2 ^ 32)) (pushBlock x n a)
def emptyEntry : Nat := noBlock * 2 ^ 32 + noBlock
/-- The places the clear of a bucket reads, for lost lines among them (R378). -/
def State.clearReads (s : State) (x : CoveSlot) (t next : Nat) (last : Bool) : List Nat :=
  let l := s.bucketReads x t next
  l ++ (if l.length = 1 then [] else [x.place x.freeHead]) ++ if last then [x.place x.status] else []

/-- BUCKET_CLEAR (R283): the next bucket; after the last of all 2^b, the table's INCOMPLETE bit is cleared. -/
def execBucketClear (i : Nat) (s : State) : Host.Outcome State Fault Refusal :=
  match s.ops[i]? with
  | none => .next s
  | some o =>
    match o.kind with
    | .clear x t next last full =>
      if last ≤ next then .next (s.endOp i o false)
      else
        let s := s.unitCheck o.group o.team o.pc (s.clearReads x t next (full && decide (next + 1 = last)))
        let e := rdU (s, o.time) (x.entry t next) 8
        let a := clearChain x x.poolCount (if isLost (x.entry t next) then noBlock else x.index (entryHead e.2)) e.1
        let a := wrU a (x.entry t next) (leBytes 8 emptyEntry)
        let a := if full ∧ next + 1 = last then
            let st := rdU a (x.place x.status) 4
            wrU st.1 (x.place x.status) (leBytes 4 (if st.2.testBit t then st.2 - 2 ^ t else st.2))
          else a
        let o := { o with kind := .clear x t (next + 1) last full, time := a.2 }
        let s := { a.1 with ops := setAt a.1.ops i o }
        .next (if next + 1 = last then s.endOp i o false else s)
    | _ => .next s

end Sys2Proof.Machine
end

