-- ==== Sys2Proof/Machine/Matrix.lean ====
section
/-!
DEFINITION. The matrix instructions, MAJ 0x11 (R239 to R257): tiles and scale slots, the engine of a core with its order,
fragments, the two multiplications, and the moves between tiles, registers and memory. An instruction enters its core's
engine at issue; MATRIX_OP_START reads its fragments and MATRIX_OP_FINISH performs it.
-/
namespace Sys2Proof.Machine

/-! ## Tiles and slots (R239, R240, R252) -/

/-- Words of an interval of a width (R47). -/
def ivWords (w : FW) : Nat := fwBytes w / 2
def Team.tileFw (t : Team) (z : Nat) : FW := if t.tileD.getD z true then .d else .s
/-- Element e = 8i + j of a tile. -/
def Team.tileElem (t : Team) (z e : Nat) : Ival :=
  ivOfWords (t.tileFw z) fun k => sget 0 t.tiles (256 * z + ivWords (t.tileFw z) * e + k)
/-- A tile written whole in a format. -/
def Team.setTile (t : Team) (z : Nat) (w : FW) (f : Nat → Ival) : Team :=
  let n := ivWords w
  { t with
    tileD := (List.range 64).map fun i => if i = z then decide (w = .d) else t.tileD.getD i true
    tiles := sputs 0 t.tiles ((List.range 256).map fun k =>
      (256 * z + k, if k < 64 * n then ivWord w (f (k / n)) (k % n) else 0)) }
/-- A tile's image in a width (R252). -/
def Team.tileBytes (t : Team) (z : Nat) (w : FW) : List Byte :=
  leWords ((List.range 64).flatMap fun e =>
    (List.range (ivWords w)).map fun k => ivWord w ((t.tileElem z e).conv (fmtOf w)) k)

/-- Exponent byte b of a slot; 0x7F at first residence (R240). -/
def Team.expByte (t : Team) (slot b : Nat) : Nat := ((sget 0 t.scaleBytes (1024 * slot + b)) ^^^ 0x7F).toNat
def Team.scaleWord (t : Team) (slot : Nat) : Word := sget 0 t.scales slot ^^^ 0x3F800000
def Team.setExps (t : Team) (slot off : Nat) (bs : List Byte) : Team :=
  { t with scaleBytes := sputs 0 t.scaleBytes (bs.zipIdx.map fun e => (1024 * slot + off + e.2, e.1 ^^^ 0x7F)) }
def Team.setScale (t : Team) (slot : Nat) (x : Word) : Team :=
  { t with scales := sput 0 t.scales slot (x ^^^ 0x3F800000) }

/-! ## Operand values (R243 to R245, R247) -/

def depBytes : MDep → Nat
  | .b512 => 512
  | .b256 => 256
  | .b128 => 128
/-- K at depth D (R243). -/
def mmaK (f : MFmt) (d : Nat) : Nat :=
  match f with
  | .f64 => d / 8
  | .f32 => d / 4
  | .bf16 => d / 2
  | .bfp k => 32 * (d / (4 * (k.val + 2)))

/-- Word w of row or column r of a fragment (R244). -/
def fragWord (fr : Store Word) (base r w : Nat) : Word := sget 0 fr (32 * (base + w / 4) + 8 * (w % 4) + r)
/-- The bytes of a row or column as a number, byte 0 lowest. -/
def fragRow (fr : Store Word) (base r n : Nat) : Nat :=
  (List.range n).foldl (fun x w => x + (fragWord fr base r w).toNat * 2 ^ (32 * w)) 0

/-- Element p of a row in a format; `exps` gives the exponent of each block (R244, R245). -/
def elemPt (f : MFmt) (exps : Nat → Nat) (row p : Nat) : Pt :=
  match f with
  | .f64 => b64.dec (row / 2 ^ (64 * p) % 2 ^ 64)
  | .f32 => b32.dec (row / 2 ^ (32 * p) % 2 ^ 32)
  | .bf16 => bf16.dec (row / 2 ^ (16 * p) % 2 ^ 16)
  | .bfp k => bfpPt (k.val + 2) (exps (p / 32)) (mant (k.val + 2) row p)

/-- The exact interval of a midpoint and a radius (R247). -/
def midRad (m r : Pt) : Ival :=
  match m, r with
  | .num (.fin q), .num (.fin x) => if x < 0 then .entire else .mk (.fin (q - x)) (.fin (q + x))
  | _, _ => .entire

/-- A row or column of an operand as intervals: MMA's points, or MMAX's midpoints and radii. -/
def operandRow (x : Bool) (tf : Fmt) (o : OpMma) (fr : Store Word) (exps : Nat → Nat) (base r : Nat) : List Ival :=
  let d := depBytes o.dep
  let k := mmaK o.fmt d
  let row := fragRow fr base r (d / 4)
  let rad := if x then fragRow fr (base + d / 16) r k else 0
  (List.range k).map fun p =>
    let m := elemPt o.fmt exps row p
    if x then midRad m (b32.dec (rad / 2 ^ (32 * p) % 2 ^ 32)) else Ival.ofPt tf m

/-- A leaf: the exact set product of two elements and the scale (R246, R150). -/
def leafOf (s a b : Ival) : Ival :=
  match a, b, s with
  | .mk a1 a2, .mk b1 b2, .mk s1 s2 =>
    let p := mulBounds a1 a2 b1 b2
    let q := mulBounds p.1 p.2 s1 s2
    .mk q.1 q.2
  | _, _, _ => .empty

/-- V register of a fragment base. -/
def vBase : Src → Nat
  | .v n => n.toNat
  | _ => 0

/-- The tile after MMA or MMAX (R246, R247). -/
def Team.mmaTile (t : Team) (x : Bool) (o : OpMma) (fr : Store Word) : Team :=
  let z := o.z.toNat
  let w := t.tileFw z
  let tf := fmtOf w
  let slot := o.slot.toNat
  let sigma := Ival.ofPt tf (b32.dec (t.scaleWord slot).toNat)
  let rows := (List.range 8).map fun i => operandRow x tf o fr (fun b => t.expByte slot (64 * i + b)) (vBase o.a) i
  let cols := (List.range 8).map fun j => operandRow x tf o fr (fun b => t.expByte slot (512 + 64 * j + b)) (vBase o.b) j
  let new := (List.range 64).map fun e =>
    let leaves := ((rows.getD (e / 8) []).zip (cols.getD (e % 8) [])).map fun p => some (leafOf sigma p.1 p.2)
    (sumBlocks (Ival.add tf) (some (t.tileElem z e)) leaves).getD .empty
  t.setTile z w fun e => new.getD e .empty

/-! ## The engine (R248 to R250) -/

/-- A core's engine holds its 8 operations. -/
def State.engineFull (s : State) (core : Nat) : Bool := decide (8 ≤ (s.coreAt core).engine.length)
/-- The stall of an issue that waits for walks, and perhaps for the engine too, whose code is the lower (R250, R366). -/
def engineMiss (s : State) (c : Ctx) (vas : List Nat) : Res :=
  .stall (if s.engineFull c.t.core then .engine else .translate) (s.startWalks c vas)

/-- An operation enters its core's engine, at most 8 at once; `unread` are the registers it reads when it starts. -/
def engineEnter (s : State) (c : Ctx) (act : Word) (word : Instr) (locs : List Nat) (frags : List (Nat × Word)) (x : Word)
    (unread : List Nat) (long accum waits : Bool) : Res :=
  if s.engineFull c.t.core then .stall .engine s
  else
    let i := s.newId
    let op := MatOp.mk i.1 c.gid word c.g.pc act locs c.g.tide frags false (if long then some i.1 else none) x
    let s := i.2.modCore c.t.core fun k => { k with engine := k.engine ++ [op] }
    let s := s.modGroup c.gid fun g =>
      { g with unread := g.unread ++ unread.map fun r => (i.1, .v r), xfers := g.xfers + (if waits then 1 else 0) }
    .ok { s := s, outstanding := if long then 1 else 0, pend := i.1, engine := accum }

/-- V registers an operation reads when it starts (R249). -/
def startRegs : Instr → List Nat
  | .mma o => (List.range (depBytes o.dep / 16)).map (vBase o.a + ·) ++ (List.range (depBytes o.dep / 16)).map (vBase o.b + ·)
  | .mmax o =>
    let n := depBytes o.dep / 16 + mmaK o.fmt (depBytes o.dep) / 4
    (List.range n).map (vBase o.a + ·) ++ (List.range n).map (vBase o.b + ·)
  | .zput _ _ a w => (List.range (2 * ivWords w)).map (vBase a + ·)
  | _ => []

/-- MATRIX_OP_START: the engine's next operation reads its fragments; waiting writes to them may land (R249). -/
def execMatrixOpStart (core : Nat) (s : State) : Host.Outcome State Fault Refusal :=
  match (s.coreAt core).engine with
  | [] => .next s
  | o :: r =>
    if o.started then .next s
    else
      let regs := startRegs o.word
      let fr := match s.group? o.group with
        | some g => regs.flatMap fun n => lanes.map fun l => (32 * n + l, g.getV n l)
        | none => []
      let s := s.modCore core fun k =>
        { k with engine := { o with started := true, frags := if regs.isEmpty then o.frags else fr } :: r }
      let s := s.modGroup o.group fun g => { g with unread := g.unread.filter fun u => u.1 != o.id }
      .next (if s.runs.contains o.group then s else s.modGroup o.group Group.landAll)

/-- Registers ZGET writes in the active lanes (R253). -/
def zgetWrites (t : Team) (act : Word) (d z : Nat) (w : FW) : Writes :=
  { v := vCells act d (2 * ivWords w) fun l k =>
      ivWord w ((t.tileElem z (2 * l + k / ivWords w)).conv (fmtOf w)) (k % ivWords w) }
/-- The tile after ZPUT (R253). -/
def Team.zputTile (t : Team) (act : Word) (z base : Nat) (w : FW) (fr : Store Word) : Team :=
  t.setTile z w fun e =>
    if act.getLsbD (e / 2) then
      ivOfWords w fun k => sget 0 fr (32 * (base + ivWords w * (e % 2) + k) + e / 2)
    else (t.tileElem z e).conv (fmtOf w)
/-- The tile after ZLD, from the words of its image (R49, R252). -/
def Team.zldTile (t : Team) (z : Nat) (w : FW) (fr : Store Word) : Team :=
  t.setTile z w fun e => ivOfWords w fun k => sget 0 fr (ivWords w * e + k)
/-- The slot after SCLD (R254). -/
def Team.scldSlot (t : Team) (slot : Nat) (part : ScldPart) (fr : Store Word) (x : Word) : Team :=
  let bs (n : Nat) := leWords ((List.range (n / 4)).map (sget 0 fr))
  match part with
  | .all _ _ _ => (t.setExps slot 0 (bs 1024)).setScale slot x
  | .aexp _ => t.setExps slot 0 (bs 512)
  | .bexp _ => t.setExps slot 512 (bs 512)
  | .scale _ _ => t.setScale slot x

/-- ZST's writes, line by line at the group's tidemark (R252). -/
def State.zstLines (s : State) (gid : Nat) (locs : List Nat) (bs : List Byte) : State :=
  let tide := ((s.group? gid).map Group.tide).getD 0
  let r := locs.zipIdx.foldl (fun (a : State × Nat) e => a.1.writeAt e.1 ((bs.drop (128 * e.2)).take 128) a.2) (s, tide)
  (r.1.raiseTide gid r.2).modGroup gid fun g => { g with xfers := g.xfers - 1 }

/-- What an engine operation does at its place in engine order, with the registers it writes (R248). -/
def State.matPerform (s : State) (o : MatOp) (h : Nat) (t : Team) : State × Writes :=
  match o.word with
  | .mma w => (s.setTeam h (t.mmaTile false w o.frags), {})
  | .mmax w => (s.setTeam h (t.mmaTile true w o.frags), {})
  | .zclr _ z w => (s.setTeam h (t.setTile z.toNat w fun _ => Ival.point 0), {})
  | .zld _ _ z _ w => (s.setTeam h (t.zldTile z.toNat w o.frags), {})
  | .zst _ z _ w => (s.zstLines o.group o.locs (t.tileBytes z.toNat w), {})
  | .zget _ _ d z w => (s, zgetWrites t o.active d.toNat z.toNat w)
  | .zput _ z a w => (s.setTeam h (t.zputTile o.active z.toNat (vBase a) w o.frags), {})
  | .scld _ slot part => (s.setTeam h (t.scldSlot slot.toNat part o.frags o.x), {})
  | _ => (s, {})

/-- The engine's first operation leaves; a pending tile or register is pending no longer (R250). -/
def State.matLeave (s : State) (core : Nat) (o : MatOp) (w : Writes) : State :=
  let s := s.modCore core fun k => { k with engine := k.engine.drop 1 }
  match o.pend with
  | some i => s.modGroup o.group fun g => g.supply i w
  | none => s

/-- MATRIX_OP_FINISH: the operation under way is performed (R246 to R254). -/
def execMatrixOpFinish (core : Nat) (s : State) : Host.Outcome State Fault Refusal :=
  match (s.coreAt core).engine with
  | [] => .next s
  | o :: _ =>
    if o.started then
      match s.ctx? o.group with
      | none => .next (s.matLeave core o {})
      | some c =>
        let r := s.matPerform o c.g.team c.t
        .next (r.1.matLeave core o r.2)
    else .next s

/-! ## The instructions -/

/-- MMA and MMAX: fragments read at the start, the tile implicit (R91, R241, R249). -/
def mmaGate (o : OpMma) (cnt : Nat) : Gate :=
  { hd := o.h, long := some o.la, rds := [.vgroup o.a cnt 8, .vgroup o.b cnt 8], wrs := [.z o.z.toNat],
    exReads := [.z o.z.toNat], mma := some o.z.toNat, slot := some o.slot.toNat, uncharged := true }
def mmaBody (word : Instr) : Body := fun s c act _ =>
  if act = 0 then .ok { s := s }
  else engineEnter s c act word [] [] 0 (startRegs word) true true false
/-- MMA (R246). -/
def execMma (o : OpMma) (s : State) : Host.Outcome State Fault Refusal :=
  issue (mmaGate o (depBytes o.dep / 16)) (mmaBody (.mma o)) s
/-- MMAX (R247). -/
def execMmax (o : OpMma) (s : State) : Host.Outcome State Fault Refusal :=
  issue (mmaGate o (depBytes o.dep / 16 + mmaK o.fmt (depBytes o.dep) / 4)) (mmaBody (.mmax o)) s

/-- ZCLR (R251). -/
def execZclr (h : Hd) (z : BitVec 6) (w : FW) (s : State) : Host.Outcome State Fault Refusal :=
  issue { hd := h, wrs := [.z z.toNat] } (fun s c act _ =>
    if act = 0 then .ok { s := s } else engineEnter s c act (.zclr h z w) [] [] 0 [] false false false) s

/-- The lines of an address, each checked before any is accessed (R252, R254). -/
def lineEas (a : Nat) (bytes : Nat) : List (Nat × Nat) := (List.range (bytes / 128)).map fun k => (k, (a + 128 * k) % 2 ^ 64)

/-- Bytes loaded line by line at the group's tidemark, as words by number. -/
def State.lineWords (s : State) (c : Ctx) (l : List (Nat × Nat × Place)) : State × List (Nat × Word) :=
  let r := s.loadLines c l none
  let bs := l.flatMap fun e => r.1.get r.2.2.2 e.2.2 128
  (r.1.raiseTide c.gid r.2.1, (List.range (bs.length / 4)).map fun k => (k, wordOf bs (4 * k)))

/-- The replies of SCLD's lines hold the group's next access until they return (R254). -/
def State.holdReplies (s : State) (gid from' : Nat) : State :=
  let n := s.replies.length - from'
  (({ s with replies := s.replies.take from' ++ (s.replies.drop from').map fun r => { r with holds := true } } : State)).modGroup gid
    fun g => { g with xfers := g.xfers + n }

/-- A whole-line read into the engine: ZLD, whose result is long-latency, and SCLD. -/
def engineRead (s : State) (c : Ctx) (act : Word) (word : Instr) (a : Src) (bytes : Nat) (x : Word) (long : Bool) : Res :=
  match s.checkAll c .zread 128 128 (lineEas (c.g.src64 a 0).toNat bytes) with
  | .trap t => .trap (onceFor t act) s
  | .miss vas => engineMiss s c vas
  | .ok l =>
    if s.engineFull c.t.core then .stall .engine s
    else
      let r := s.lineWords c l
      engineEnter (if long then r.1 else r.1.holdReplies c.gid s.replies.length) c act word [] r.2 x [] long false false

/-- ZLD (R252). -/
def zldBody (h : Hd) (la : BitVec 4) (z : BitVec 6) (a : Src) (w : FW) : Body := fun s c act _ =>
  if act = 0 then .ok { s := s }
  else engineRead s c act (.zld h la z a w) a (256 * ivWords w) 0 true
def execZld (h : Hd) (la : BitVec 4) (z : BitVec 6) (a : Src) (w : FW) (s : State) : Host.Outcome State Fault Refusal :=
  issue { hd := h, long := some la, rds := [.u64 a], wrs := [.z z.toNat], memory := true } (zldBody h la z a w) s

/-- ZST (R252): checked at issue, written at its place in engine order. -/
def zstBody (h : Hd) (z : BitVec 6) (a : Src) (w : FW) : Body := fun s c act _ =>
  if act = 0 then .ok { s := s }
  else match s.checkAll c .zwrite 128 128 (lineEas (c.g.src64 a 0).toNat (256 * ivWords w)) with
    | .trap t => .trap (onceFor t act) s
    | .miss vas => engineMiss s c vas
    | .ok l => engineEnter s c act (.zst h z a w) (l.map fun e => e.2.2.loc) [] 0 [] false false true
def execZst (h : Hd) (z : BitVec 6) (a : Src) (w : FW) (s : State) : Host.Outcome State Fault Refusal :=
  issue { hd := h, rds := [.u64 a], exReads := [.z z.toNat], zs := [z.toNat], memory := true } (zstBody h z a w) s

/-- ZGET (R253). -/
def execZget (h : Hd) (la : BitVec 4) (d : BitVec 8) (z : BitVec 6) (w : FW) (s : State) :
    Host.Outcome State Fault Refusal :=
  issue { hd := h, long := some la, wrs := [.v d.toNat (2 * ivWords w) (2 * ivWords w)], exReads := [.z z.toNat],
          zs := [z.toNat] } (fun s c act _ =>
    if act = 0 then .ok { s := s } else engineEnter s c act (.zget h la d z w) [] [] 0 [] true false false) s

/-- ZPUT (R253). -/
def execZput (h : Hd) (z : BitVec 6) (a : Src) (w : FW) (s : State) : Host.Outcome State Fault Refusal :=
  issue { hd := h, rds := [.vgroup a (2 * ivWords w) (2 * ivWords w)], wrs := [.z z.toNat], uncharged := true }
    (fun s c act _ =>
      if act = 0 then .ok { s := s }
      else engineEnter s c act (.zput h z a w) [] [] 0 (startRegs (.zput h z a w)) false false false) s

/-- SCLD's operands (R241). -/
def scldGate (h : Hd) (slot : BitVec 3) : ScldPart → Gate
  | .all hold a b => { hd := h, hold := holdSrc hold none (some b) none, rds := [.u64 a, .u32 b], slot := some slot.toNat,
                       memory := true }
  | .aexp a => { hd := h, rds := [.u64 a], slot := some slot.toNat, memory := true }
  | .bexp a => { hd := h, rds := [.u64 a], slot := some slot.toNat, memory := true }
  | .scale hold b => { hd := h, hold := holdSrc hold none (some b) none, rds := [.u32 b], slot := some slot.toNat }
def scldBody (h : Hd) (slot : BitVec 3) (part : ScldPart) : Body := fun s c act _ =>
  if act = 0 then .ok { s := s }
  else match part with
    | .all _ a b => engineRead s c act (.scld h slot part) a 1024 (c.g.src32 b 0) false
    | .aexp a => engineRead s c act (.scld h slot part) a 512 0 false
    | .bexp a => engineRead s c act (.scld h slot part) a 512 0 false
    | .scale _ b => engineEnter s c act (.scld h slot part) [] [] (c.g.src32 b 0) [] false false false
/-- SCLD (R254). -/
def execScld (h : Hd) (slot : BitVec 3) (part : ScldPart) (s : State) : Host.Outcome State Fault Refusal :=
  issue (scldGate h slot part) (scldBody h slot part) s

end Sys2Proof.Machine
end

