-- ==== Sys2Proof/Machine/Seal.lean ====
section
/-!
DEFINITION. Seal cells, MAJ 0x12 (R258 to R268): the outcomes at the home, sealed copies, and the seal era with its bumps.
-/
namespace Sys2Proof.Machine

/-! ## The cell (R258, R259) -/

def cellValue (img : Nat) : DWord := BitVec.ofNat 64 (img / 2 ^ 64)
def cellGen (img : Nat) : Nat := img / 2 ^ 48 % 2 ^ 16
def openImage (gen : Nat) : Nat := gen % 2 ^ 16 * 2 ^ 48
/-- A sealed cell; the reserved bits [13:0] keep what the cell held (R11, R258). -/
def sealedImage (v : DWord) (gen winner old : Nat) : Nat :=
  v.toNat * 2 ^ 64 + gen % 2 ^ 16 * 2 ^ 48 + 2 ^ 46 + winner % 2 ^ 32 * 2 ^ 14 + old % 2 ^ 14
/-- The winner fields, bits [45:14] (R258). -/
def winnerBits (package die core group lane : Nat) : Nat :=
  package * 2 ^ 20 + die * 2 ^ 18 + core * 2 ^ 11 + group * 2 ^ 5 + lane

/-- The outcome of an operation on a cell: the predicate, the value the pair receives, the new image, whether the seal era
is bumped (R263, R264), and whether the reply reports SEALED(h) (R265). -/
structure CellOut where
  tri : Tri
  val : Option DWord := none
  new : Option Nat := none
  bump : Bool := false
  grant : Bool := false
deriving DecidableEq, Repr

/-- The table of R259. -/
def cellOp (k : SealKind) (h winner img : Nat) : CellOut :=
  let g := cellGen img
  match k with
  | .seal v =>
    if g ≠ h then { tri := .u }
    else if cellSealed img then { tri := .f, val := some (cellValue img), grant := true }
    else { tri := .t, new := some (sealedImage v h winner img), grant := true }
  | .peek =>
    if g ≠ h then { tri := .u }
    else if cellSealed img then { tri := .t, val := some (cellValue img), grant := true }
    else { tri := .f }
  | .reopen =>
    if cellSealed img && decide (g = h) then
      let n := (h + 1) % 2 ^ 16
      { tri := .t, new := some (openImage n), bump := decide (n = 0) || decide (n = 0x8000) }
    else { tri := .f }
  | .cinit => { tri := .t, new := some (openImage h), bump := cellSealed img || decide (g ≠ h) }

/-! ## Copies and eras (R193, R265, R266) -/

def cellKey (loc : Nat) : Nat := loc / 16

/-- Notices of the new era are sent (R266). -/
def State.bumpEra (s : State) (pa : Nat) (group : Option Nat) (pend : Option Nat) (holds : Bool) : State :=
  let cores := (s.cores.filter fun e => !e.2.sealed.isEmpty).map Prod.fst
  { s with era := s.era + 1, bumps := s.bumps ++ [⟨s.era + 1, pa, group, pend, holds, cores, cores.length + 1⟩] }

/-- The first bump whose notice a core has yet to receive. -/
def noticeFor (core : Nat) : List EraBump → Option (EraBump × List EraBump)
  | [] => none
  | b :: r =>
    if b.cores.contains core then some (b, { b with cores := b.cores.filter fun x => x != core } :: r)
    else (noticeFor core r).map fun e => (e.1, b :: e.2)

/-- SEAL_ERA_NOTICE (R266). -/
def execSealEraNotice (core : Nat) (s : State) : Host.Outcome State Fault Refusal :=
  match noticeFor core s.bumps with
  | none => .next s
  | some e => .next (({ s with bumps := e.2 } : State).dropEra core e.1.era)

/-- SEAL_ERA_ACKNOWLEDGEMENT (R266): of a cache, or of the other dies and packages, that has dropped its copies. -/
def execSealEraAcknowledgement (i : Nat) (s : State) : Host.Outcome State Fault Refusal :=
  match s.bumps[i]? with
  | none => .next s
  | some b =>
    if b.acks ≤ b.cores.length then .next s
    else if b.acks = 1 then .next (({ s with bumps := s.bumps.eraseIdx i } : State).bumpDone b)
    else .next { s with bumps := setAt s.bumps i { b with acks := b.acks - 1 } }

/-- Copies of another package's cells are dropped after a bump there (R266). -/
def State.dropFar (s : State) (home : Nat) : State :=
  { s with
    farSealed := s.farSealed.filter fun e => decide (e.2.home ≠ home)
    cores := s.cores.filterMap fun e =>
      let k := { e.2 with sealed := e.2.sealed.filter fun x => decide (x.2.home ≠ home) }
      if k = {} then none else some (e.1, k) }

/-- A copy that may answer for a generation: in the core's L1, or at the package's shelf for another package's cell. -/
def State.sealCopy (s : State) (core loc gen : Nat) : Option SealCopy :=
  let fits (c : SealCopy) : Bool := decide (cellGen (leNat c.image) = gen)
  match (sfind (s.coreAt core).sealed (cellKey loc)).filter fits with
  | some c => some c
  | none => (sfind s.farSealed (cellKey loc)).filter fits

/-! ## Operations at the home (R259, R261 to R267) -/

def sealKind (word : Instr) (a : LaneAct) : SealKind :=
  match word with
  | .seal _ => .seal (BitVec.ofNat 64 a.b)
  | .reopen _ _ _ _ _ _ => .reopen
  | .cinit _ _ _ _ => .cinit
  | _ => .peek
def SealCopy.answers (k : SealKind) : Bool :=
  match k with
  | .seal _ => true
  | .peek => true
  | _ => false

/-- One lane's operation on its cell's bytes. -/
structure CellStep where
  lane : Nat
  loc : Nat
  out : CellOut
  img : Nat                       -- image after
  copied : Option Nat := none     -- decision time of the copy that answered
deriving DecidableEq, Repr

def State.cellImage (s : State) (loc : Nat) : Nat := s.natAt (s.fwd loc) 16

/-- The operations on the cells' bytes, one after another, at a tidemark; a copy answers a SEAL or PEEK of its generation
(R265). -/
def State.cellSteps (s : State) (core tide : Nat) (kind : LaneAct → SealKind) (winner : Nat → Nat) (acts : List LaneAct) :
    State × List CellStep :=
  acts.foldl (fun (a : State × List CellStep) e =>
    let k := kind e
    match if SealCopy.answers k then a.1.sealCopy core e.loc e.n else none with
    | some c => (a.1, a.2 ++ [⟨e.lane, e.loc, cellOp k e.n 0 (leNat c.image), leNat c.image, some c.time⟩])
    | none =>
      let s := a.1.settle (leaseKey (a.1.fwd e.loc)) (tide - 1)
      let out := cellOp k e.n (winner e.lane) (s.cellImage e.loc)
      match out.new with
      | some x => (s.poke (s.fwd e.loc) (leBytes 16 x), a.2 ++ [⟨e.lane, e.loc, out, x, none⟩])
      | none => (s, a.2 ++ [⟨e.lane, e.loc, out, s.cellImage e.loc, none⟩])) (s, [])

/-- The place in tide order of a line that operations reached: a write's where one `writes`, a load's otherwise (R189). -/
def State.cellPlace (s : State) (lease : Nat) (e : Nat × Bool) (tide : Nat) : State × Nat :=
  if e.2 then s.claim e.1 tide none else s.readHome e.1 lease tide
/-- The lines that were reached at their homes, each at one time, in tide order by ascending lane (R186, R207). -/
def State.cellTimes (s : State) (lease tide : Nat) (l : List CellStep) : State × Nat × List (Nat × Nat) :=
  let home := l.filter fun e => e.copied.isNone
  let cells (line : Nat) : List CellStep := home.filter fun x => x.loc / 128 == line && x.out.new.isSome
  let ls := joinLines (home.map fun e => (e.loc / 128, e.loc, !(cells (e.loc / 128)).isEmpty))
  let ts := lineTimes (fun e t => (s.cellPlace lease e t).2) tide ls (2 * ls.length) []
  ls.foldl (fun (a : State × Nat × List (Nat × Nat)) e =>
    if a.2.2.any fun x => x.1 == e.1 then a
    else
      let r := a.1.cellPlace lease e.2 (max tide (timeOf ts e.1))
      (r.1.wrote ((cells e.1).map fun x => (r.1.fwd x.loc, 16)) r.2, max a.2.1 r.2, a.2.2 ++ [(e.1, r.2)])) (s, tide, [])

/-- The time a sealed cell was decided at: that of the winning proposal or of the raw write (R202); 0 if no write of the machine
made it. -/
def State.decidedAt (s : State) (loc : Nat) : Nat := ((sfind s.decided (cellKey (s.fwd loc))).map Prod.snd).getD 0

/-- Copies granted after an instruction's operations (R265). -/
def State.cellKeep (s : State) (core : Option Nat) (l : List CellStep) : State :=
  (l.filter fun e => e.copied.isNone).foldl (fun s e =>
    match core, e.out.grant with
    | some k, true =>
      let c := SealCopy.mk (leBytes 16 e.img) s.era (packageOf e.loc) (s.decidedAt e.loc)
      let s := (s.l1Room k (e.loc / 128)).modCore k fun x => { x with sealed := sins x.sealed (cellKey e.loc) c }
      if s.ownPackage e.loc then s else { s with farSealed := sins s.farSealed (cellKey e.loc) c }
    | _, _ => s) s

/-- The bumps the operations set off: at this package a bump in flight, at another one its completed round. -/
def State.cellBumps (s : State) (group : Option Nat) (pend : Option Nat) (holds : Bool) (l : List CellStep) : State :=
  (l.filter fun e => e.out.bump).foldl (fun s e =>
    if s.ownPackage e.loc then s.bumpEra e.loc group pend holds else s.dropFar (packageOf e.loc)) s

/-- Seal operations of one requester, performed in order: the state, the tidemark, and each lane's step. -/
def State.sealRun (s : State) (core : Option Nat) (kind : LaneAct → SealKind) (winner : Nat → Nat) (lease tide : Nat)
    (acts : List LaneAct) (group : Option Nat) (pend : Option Nat) (holds : Bool) : State × Nat × List CellStep :=
  let r := s.cellSteps (core.getD 512) tide kind winner acts
  let x := r.1.cellTimes lease tide r.2
  let tide' := r.2.foldl (fun m e => max m (e.copied.getD 0)) x.2.1
  ((x.1.cellKeep core r.2).cellBumps group pend holds r.2, tide', r.2)

/-- Bumps of this package that some operations set off. -/
def bumpCount (s : State) (l : List CellStep) : Nat := (l.filter fun e => e.out.bump && s.ownPackage e.loc).length

/-- SEAL_HOME_OPERATION: a request of another package for a cell homed here, or news of one performed elsewhere (R259,
R265 to R267). -/
def execSealHomeOperation (r : SealReq) (s : State) : Host.Outcome State Fault Refusal :=
  let act := LaneAct.mk 0 (r.pa % devTop / 16 * 16) 0 r.gen.toNat
  .next (s.sealRun none (fun _ => r.kind) (fun _ => r.winner.toNat) 0 r.tidemark [act] none none
    (decide (r.kind = .cinit))).1

/-! ## The instructions (R260 to R264) -/

/-- What SEAL and PEEK write to their pair: the lanes' values, or the lowest active lane's under R17. -/
def sealPair (act : Word) (b : Src) (l : List CellStep) : Writes :=
  let val (n : Nat) : Option DWord := (l.find? fun e => e.lane == n).bind fun e => e.out.val
  match b with
  | .v n => { v := (lanesOf act).flatMap fun i => match val i with
      | some x => [(32 * n.toNat + i, x.lo), (32 * (n.toNat + 1) + i, x.hi)]
      | none => [] }
  | .s n =>
    match (lanesOf act).head?.bind val with
    | some x => { s := [(n.toNat, x.lo), (n.toNat + 1, x.hi)] }
    | none => {}
  | _ => {}

/-- The predicate of each active lane; an instruction performed once gives every lane its outcome. -/
def sealTris (act : Word) (d : BitVec 3) (once : Bool) (l : List CellStep) : Writes :=
  triWrites act d fun n =>
    ((if once then l.head? else l.find? fun e => e.lane == n).map fun e => e.out.tri).getD .u

/-- What a seal word writes. -/
def sealWrites (word : Instr) (act : Word) (once : Bool) (l : List CellStep) : Writes :=
  match word with
  | .seal o => (sealTris act o.d once l).append (sealPair act o.b l)
  | .peek o => (sealTris act o.d once l).append (sealPair act o.b l)
  | .reopen _ _ _ d _ _ => sealTris act d once l
  | _ => {}

def winnerOf (s : State) (c : Ctx) (lane : Nat) : Nat :=
  winnerBits s.host.number.toNat (coreDie c.t.core) (coreIn c.t.core) c.g.idx lane

/-- Whether a seal word is performed once, for its lowest active lane (R260, R207). -/
def sealOnce : Instr → Bool
  | .seal o => o.a.uniform && o.b.uniform && o.c.uniform
  | .peek o => o.a.uniform && o.b.uniform && o.c.uniform
  | .reopen _ _ _ _ a c => a.uniform && c.uniform
  | .cinit _ _ a c => a.uniform && c.uniform
  | _ => false

/-- What a lane receives whose cell's translation was lost: zero (R328). -/
def lostStep (e : Nat × Nat × Place) : CellStep := ⟨e.1, e.2.2.loc, { tri := .f, val := some 0 }, 0, some 0⟩

/-- A seal instruction: its checks, then its operations at the home, or its request to another package (R261 to R267). -/
def sealRes (s : State) (c : Ctx) (act : Word) (word : Instr) (a gen : Src) (val : Nat → Nat) (holds : Bool) : Res :=
  if act = 0 then .ok { s := s }
  else
    let once := sealOnce word
    let on := if once then (lanesOf act).take 1 else lanesOf act
    match s.checkAll c .seal 16 16 (on.map fun l => (l, (c.g.src64 a l).toNat)) with
    | .trap t => .trap (if once then onceFor t act else t) s
    | .miss vas => .stall .translate (s.startWalks c vas)
    | .ok l =>
      let gone := l.filter fun e => isLost e.2.2.loc
      let l := l.filter fun e => !(isLost e.2.2.loc)
      let acts := l.map fun e => LaneAct.mk e.1 e.2.2.loc (val e.1) ((c.g.src32 gen e.1).toNat % 2 ^ 16)
      let i := s.newId
      let pend := if holds then none else some i.1
      if l.any fun e => isRemote e.2.2 then
        .ok { s := i.2.sendRemote c act word l acts pend, outstanding := 1, pend := i.1, remote := true }
      else
        let r := i.2.sealRun (some c.t.core) (sealKind word) (winnerOf s c) c.g.lease.toNat c.g.tide acts (some c.gid) pend
          holds
        let n := bumpCount s r.2.2
        let reached := l.filter fun e => r.2.2.any fun x => x.lane == e.1 && x.copied.isNone
        let s := (r.1.raiseTide c.gid r.2.1).modGroup c.gid fun g => { g with xfers := g.xfers + (if holds then n else 0) }
        let s := (firstTouch s reached).foldl (fun s p => (s.hear c.t.core p.loc).poisonCheck c p.loc) s
        let lines := reached.map fun e => (e.1, e.2.2.loc / 128)
        .ok { s := s, lines := lines, w := sealWrites word act once (r.2.2 ++ gone.map lostStep), outstanding := n, pend := i.1 }

/-- The pair of SEAL and PEEK: an even V register of kind 0b00 or an even S register (R260). -/
def pairRd (b : Src) : Rd := ⟨b, { cnt := 2, al := 2, nb := false, zero := false }⟩
def pairWr : Src → List Wr
  | .v n => [.v n.toNat 2 2]
  | .s n => [.dst (.s n) 2 2]
  | _ => []
def sealGate (o : OpSeal) (reads : Bool) : Gate :=
  { hd := o.h, long := some o.la, hold := holdSrc o.hold none none (some o.c),
    rds := [.a64 o.a, .w32 o.c] ++ (if reads then [pairRd o.b] else []), wrs := pairWr o.b ++ [.p o.d.toNat],
    badOperand := (pairWr o.b).isEmpty, memory := true }
/-- SEAL (R261). -/
def sealBody (o : OpSeal) : Body := fun s c act _ =>
  sealRes s c act (.seal o) o.a o.c (fun l => (c.g.src64 o.b l).toNat) false
def execSeal (o : OpSeal) (s : State) : Host.Outcome State Fault Refusal := issue (sealGate o true) (sealBody o) s
/-- PEEK (R262). -/
def peekBody (o : OpSeal) : Body := fun s c act _ => sealRes s c act (.peek o) o.a o.c (fun _ => 0) false
def execPeek (o : OpSeal) (s : State) : Host.Outcome State Fault Refusal := issue (sealGate o false) (peekBody o) s
/-- REOPEN (R263). -/
def reopenBody (h : Hd) (la : BitVec 4) (hold : Hold) (d : BitVec 3) (a c' : Src) : Body := fun s c act _ =>
  sealRes s c act (.reopen h la hold d a c') a c' (fun _ => 0) false
def execReopen (h : Hd) (la : BitVec 4) (hold : Hold) (d : BitVec 3) (a c : Src) (s : State) :
    Host.Outcome State Fault Refusal :=
  issue { hd := h, long := some la, hold := holdSrc hold none none (some c), rds := [.a64 a, .w32 c], wrs := [.p d.toNat],
          memory := true } (reopenBody h la hold d a c) s
/-- CINIT (R264). -/
def cinitBody (h : Hd) (hold : Hold) (a c' : Src) : Body := fun s c act _ =>
  sealRes s c act (.cinit h hold a c') a c' (fun _ => 0) true
def execCinit (h : Hd) (hold : Hold) (a c : Src) (s : State) : Host.Outcome State Fault Refusal :=
  issue { hd := h, hold := holdSrc hold none none (some c), rds := [.a64 a, .w32 c], memory := true }
    (cinitBody h hold a c) s

end Sys2Proof.Machine
end

