-- ==== Sys2Proof/Machine/Home.lean ====
section
/-!
DEFINITION. Steps of the memory system on its own: requests and replies (R189, R192, R194, R208), evictions (R191), the
sleep of cores (R193), remote acknowledgements (R180, R361), and Machine Check (R328).
-/
namespace Sys2Proof.Machine

/-! ## Requests, replies and notices -/

/-- TIDEMARK_ADVANCE (R188): the tidemark of a group that loads rises by 1. -/
def execTidemarkAdvance (gid : Nat) (s : State) : Host.Outcome State Fault Refusal :=
  .next (s.modGroup gid fun g => { g with tide := g.tide + 1 })

/-- A copy of a line at its present lease, if the slice can encode it (R192). -/
def State.grant (s : State) (line tide : Nat) : State × Option Copy :=
  let k := shelfOf (line * 128)
  let l := s.lineAt line
  let s := s.rebase k l.wts l.rts tide
  (s, if fits16 (s.slice k).base l.wts l.rts then
        some (Copy.mk l.wts l.rts (s.slice k).gen (s.bytesAt (line * 128) 128)) else none)

/-- HOME_LOAD (R189): a load request of a group is performed at the line's home; its reply may grant a copy. -/
def execHomeLoad (gid pa : Nat) (s : State) : Host.Outcome State Fault Refusal :=
  match s.group? gid with
  | none => .next s
  | some g =>
    let pa := pa % devTop
    let r := s.readHome pa g.lease.toNat g.tide
    let line := r.1.fwd pa / 128
    let c := r.1.grant line g.tide
    .next (({ c.1 with replies := c.1.replies ++ [⟨gid, gid / 48, line, shelfOf (line * 128), c.2, none, false⟩] } : State).raiseTide
      gid r.2)

/-- HOME_WRITE (R189): a write of a group is performed at the homes of its lines. -/
def execHomeWrite (gid pa : Nat) (data : List Byte) (s : State) : Host.Outcome State Fault Refusal :=
  let tide := ((s.group? gid).map Group.tide).getD 0
  let r := s.writeSpan (pa % devTop) data tide
  .next (r.1.raiseTide gid r.2)

/-- LOAD_REPLY (R3, R192, R208, R254): the core hears the slice's base and generation, keeps the copy, for which it makes room,
and a result, or the group's next access, waits for one reply less. -/
def execLoadReply (i : Nat) (s : State) : Host.Outcome State Fault Refusal :=
  match s.replies[i]? with
  | none => .next s
  | some r =>
    let s := { s with replies := s.replies.eraseIdx i }
    let s := if r.copy.isSome then s.l1Room r.core r.line else s
    let s := s.modCore r.core fun k => { k with
      heard := sput {} k.heard r.slice (s.slice r.slice)
      l1 := match r.copy with
        | some c => sins k.l1 r.line c
        | none => k.l1 }
    .next (s.modGroup r.group fun g =>
      Group.reply { g with xfers := g.xfers - (if r.holds then 1 else 0) } r.pend)

/-- GENERATION_NOTICE (R192): a notice that a slice has sent arrives. -/
def execGenerationNotice (slice : Nat) (s : State) : Host.Outcome State Fault Refusal :=
  .next (if s.genNotices.contains (slice % 12) then s.hearNotice (slice % 12) else s)

/-- WRITE_LEASE_RECALL (R194): the owner returns the line; the home continues from its lease. -/
def execWriteLeaseRecall (line : Nat) (s : State) : Host.Outcome State Fault Refusal :=
  if (s.lineAt line).owner.isSome then .next (s.setLine line { s.lineAt line with owner := none, evicting := false })
  else .next s
/-- FORWARDED_READ (R194): a read the owner answers; the owner keeps the line. An evicting owner answers "gone". -/
def execForwardedRead (gid line : Nat) (s : State) : Host.Outcome State Fault Refusal :=
  match s.group? gid, (s.lineAt line).owner, (s.lineAt line).evicting with
  | some g, some o, false =>
    let r := s.readHome (line * 128) g.lease.toNat g.tide
    .next ((r.1.setLine line { r.1.lineAt line with owner := some o }).raiseTide gid r.2)
  | _, _, _ => .next s
/-- GONE_ANSWER (R194): the owner is evicting the line; the home waits for its writeback. -/
def execGoneAnswer (line : Nat) (s : State) : Host.Outcome State Fault Refusal :=
  if (s.lineAt line).owner.isSome then .next (s.setLine line { s.lineAt line with evicting := true }) else .next s
/-- DIRTY_WRITEBACK (R194): the line's data and lease arrive at the home. -/
def execDirtyWriteback (core line : Nat) (s : State) : Host.Outcome State Fault Refusal :=
  if (s.lineAt line).owner = some core then
    .next (s.setLine line { s.lineAt line with owner := none, evicting := false })
  else .next s

/-- SHELF_EVICTION (R191): the slice keeps the largest lease end of what it evicts; bumps that hold its cells have completed and
partials are merged first. -/
def State.evict (s : State) (line : Nat) : State :=
  if line < 2 ^ 45 ∧ s.ownPackage (line * 128) then
    let s := s.settle line 0
    let l := s.lineAt line
    ({ s with lines := sdel s.lines line }).modSlice (shelfOf (line * 128)) fun x => { x with mts := max x.mts l.rts }
  else s
def execShelfEviction (line : Nat) (s : State) : Host.Outcome State Fault Refusal := .next (s.evict line)
/-- DRAM_FILL (R191, R381): a line that is not held enters its slice with lease (mts, mts). -/
def execDramFill (line : Nat) (s : State) : Host.Outcome State Fault Refusal :=
  match sfind s.lines line with
  | some _ => .next s
  | none => .next (s.setLine line (s.lineAt line))

/-! ## Sleep (R193) -/

/-- RETENTION_SLEEP (R193): a core with no run under way records the generations and the era. -/
def execRetentionSleep (core : Nat) (s : State) : Host.Outcome State Fault Refusal :=
  if s.runs.any fun g => g / 48 == core then .next s
  else .next (s.modCore core fun k => if k.asleep.isSome then k else { k with asleep := some (s.gens, s.era) })
/-- WAKE_CHECK (R193): the check, after which the core's groups may issue. -/
def execWakeCheck (core : Nat) (s : State) : Host.Outcome State Fault Refusal :=
  .next ((s.wakeCheck core).modCore core fun k => { k with asleep := none })

/-! ## Remote accesses (R180, R267, R361) -/

/-- The operation of an atomic word. -/
def wordForm : Instr → Option AtomForm
  | .atom o => some (atomForm o)
  | .atomcas o => some (casForm o)
  | .fatom o => some (fatomForm o)
  | _ => none
def wordRed : Instr → Option RedOp
  | .red o => some (.int o.op o.x)
  | .fred o => some (.flt o.op o.w)
  | _ => none
/-- The die whose shelf homes a line (R380). -/
def homeDie (loc : Nat) : Nat := shelfOf loc / 3

/-- A remote word performed for some of its lanes: the state, and the registers it writes. -/
def State.runRemote (s : State) (r : Remote) (acts : List LaneAct) : State × Writes :=
  match s.ctx? r.group with
  | none => (s, {})
  | some c =>
    match wordForm r.word, wordRed r.word with
    | some f, _ =>
      let x := s.runElems f.op acts c.g.tide r.core fun _ => none
      (x.1.raiseTide r.group x.2.1, oldWords r.act f.d f.cnt x.2.2)
    | none, some op => (acts.foldl (fun s a => s.acceptRed op (homeDie a.loc) a.loc a.b c.g.tide) s, {})
    | none, none =>
      let x := s.sealRun (some r.core) (sealKind r.word) (winnerOf s c) c.g.lease.toNat c.g.tide acts none none false
      let gone := (lanesOf r.act).filter fun l => !(r.acts.any fun a => a.lane == l)
      ((x.1.endBumps fun b => b.group.isNone && !b.holds).raiseTide r.group x.2.1,
        sealWrites r.word r.act (sealOnce r.word) (x.2.2 ++ gone.map fun l => lostStep (l, 0, lostPlace)))

/-- REMOTE_ACKNOWLEDGEMENT (R180): the access has been performed; its result is written and the group goes on. -/
def State.remoteDone (s : State) (r : Remote) (w : Writes) : State :=
  s.modGroup r.group fun g =>
    let g := { g with rems := g.rems - 1 }
    match r.pend with
    | some i => g.supply i w
    | none => g

/-- A remote access that has no route to one of its homes (R361). -/
def State.noRoute (s : State) (r : Remote) : Bool :=
  r.acts.any fun a => s.isFar a.loc && (s.linksTo (packageOf a.loc)).isEmpty

/-- The writes of lost lanes as zero (R328). -/
def zeroLost (lost : Nat → Bool) (low : Nat) (w : Writes) : Writes :=
  { w with
    v := w.v.map fun e => if lost (e.1 % 32) then (e.1, 0) else e
    s := w.s.map fun e => if lost low then (e.1, 0) else e
    p := w.p.map fun e => if lost (e.1 % 32) then (e.1, 0) else e }

/-- An access whose reply does not come: it may or may not have been performed, and lost data reads as zero (R328, R361). -/
def State.remoteLost (s : State) (r : Remote) : State :=
  let f := s.fresh
  let far (a : LaneAct) : Bool := s.isFar a.loc
  let x := f.2.runRemote r (if Config.timedOutPerformed f.1 then r.acts else r.acts.filter fun a => !(far a))
  let lost (l : Nat) : Bool := r.acts.any fun a => decide (a.lane = l) && far a
  ((x.1.remoteDone r (zeroLost lost ((lanesOf r.act).headD 0) x.2))).machineCheck r.group 5 r.pc
    (BitVec.ofNat 64 (r.addr / 128 * 128))

/-- REMOTE_ACKNOWLEDGEMENT (R180, R361): the access is performed at its home and acknowledged; one without a route is lost. -/
def execRemoteAcknowledgement (i : Nat) (s : State) : Host.Outcome State Fault Refusal :=
  match s.remotes[i]? with
  | none => .next s
  | some r =>
    let s := ({ s with remotes := s.remotes.eraseIdx i } : State).linksBack r.links
    if s.noRoute r then .next (s.remoteLost r)
    else
      let x := s.runRemote r r.acts
      .next (x.1.remoteDone r x.2)
/-- REMOTE_TIMEOUT (R361): no reply has arrived within 1 ms. -/
def execRemoteTimeout (i : Nat) (s : State) : Host.Outcome State Fault Refusal :=
  match s.remotes[i]? with
  | none => .next s
  | some r => .next ((State.linksBack { s with remotes := s.remotes.eraseIdx i } r.links).remoteLost r)

/-! ## Machine Check (R255, R328, R375) -/

/-- Values still to be written that come from a lost line become zero. -/
def Group.loseLine (g : Group) (line : Nat) : Group :=
  { g with pends := g.pends.map fun p =>
      let hit := p.lines.filter fun e => e.2 == line
      if hit.isEmpty then p
      else { p with writes := zeroLost (fun l => hit.any fun e => e.1 == l) ((hit.head?.map Prod.fst).getD 0) p.writes } }

/-- The on-chip-map address of an error in team state: core, window and offset of its line (R178, R328). -/
def chipAt (a : Nat) : Nat × Nat × Nat :=
  (a / 2 ^ 32 % 4 * 128 + a / 2 ^ 25 % 128, a / 2 ^ 22 % 8, a % 2 ^ 22 / 128 * 128)
/-- The team that owns a line of the scratchpad, of a tile or of the scale store. The map has no window for the scale store (R178);
window number 4, at 1024 times the block of tiles, stands for it in a report (notes/assumptions/143). -/
def State.chipOwner (s : State) (core win off : Nat) : Option Nat :=
  if win = 1 then
    (s.teams.find? fun e => decide (e.2.core = core) && decide (e.2.granule * 2048 ≤ off) &&
      decide (off < (e.2.granule + ((s.packet? e.2.pid).map Packet.granules).getD 0) * 2048)).map Prod.fst
  else if win = 2 then (s.tileOwner core (off / 1024)).map Prod.fst
  else if win = 4 then (s.tileOwner core (off / 1024 * 8)).map Prod.fst
  else none
/-- A line of team state that is lost becomes zero. -/
def State.chipLose (s : State) (core win off : Nat) : State :=
  let zeros : List Byte := List.replicate 128 0
  if win = 1 then s.poke (scratchPlace core off) zeros
  else if win = 4 then match s.tileOwner core (off / 1024 * 8) with
    | some (h, z) => s.modTeam h fun t => t.setExps (z / 8) (off % 1024) zeros
    | none => s
  else s.chipWrite core win off zeros

/-- An error of R328: the groups it is delivered to with MCINFO and MCADDR, and the state with lost data zero; none where there
was nothing to meet it. -/
def State.checkTargets (s : State) (r : McReport) : Option (State × List Nat × DWord × DWord) :=
  if r.detail = 0 then
    (s.coreAt r.core).engine.head?.bind fun o =>
      match o.started, o.word with
      | true, .mma w => some (s.matLeave r.core o {}, [o.group], o.pc, w.z.setWidth 64)
      | true, .mmax w => some (s.matLeave r.core o {}, [o.group], o.pc, w.z.setWidth 64)
      | _, _ => none
  else if r.detail = 1 then
    match s.regOwner r.core r.sched (r.mcaddr.toNat % 1024) with
    | none => some (s, [], 0, r.mcaddr)
    | some (gid, n) =>
      let s := s.modGroup gid fun g => match r.predicate with
        | some p => g.setPs (lanes.map fun l => (32 * p.toNat + l, 0))
        | none => { g with v := sputs 0 g.v (lanes.map fun l => (32 * n + l, 0)) }
      some (s, [gid], 0, r.mcaddr)
  else if r.detail = 2 then
    let p := chipAt r.mcaddr.toNat
    match s.chipOwner p.1 p.2.1 p.2.2 with
    | none => some (s, [], 0, r.mcaddr)
    | some h => some (s.chipLose p.1 p.2.1 p.2.2, ((s.team? h).map Team.gids).getD [], 0, r.mcaddr)
  else
    let gs := r.groups.filter fun g => (s.group? g).isSome
    some (gs.foldl (fun s g => s.modGroup g fun x => x.loseLine (r.mcaddr.toNat / 128)) s, gs, r.mcinfo, r.mcaddr)

/-- An error in state that no group owns is reported to the host (R328, R357). -/
def mcheckPayload (r : McReport) : List Byte := leBytes 8 r.detail.toNat ++ leBytes 8 r.mcaddr.toNat

/-- MACHINE_CHECK (R255, R328): a replay that failed leaves its tile unchanged; lost data becomes zero; the trap waits for
each group's next arbitration point. -/
def execMachineCheck (r : McReport) (s : State) : Host.Outcome State Fault Refusal :=
  match s.checkTargets r with
  | none => .next s
  | some (s, [], _, _) => .next (s.postMsg 3 r.core (2 ^ 32 - 1) (mcheckPayload r))
  | some (s, gs, info, addr) => .next (gs.foldl (fun s g => s.machineCheck g r.detail info addr) s)

end Sys2Proof.Machine
end

