-- ==== Sys2Proof/Machine/Place.lean ====
section
/-!
DEFINITION. The resources of cores and their allocation (R302), the start of a team (R109, R164, R239, R240), and
compaction (R302).
-/
namespace Sys2Proof.Machine

/-! ## What a core holds (R3, R15, R302) -/

/-- The resident teams of a core. -/
def State.coreTeams (s : State) (core : Nat) : List (Nat × Team) := s.teams.filter fun e => e.2.core == core
/-- Occupied group slots of a scheduler; an ended group keeps its slot (R15). -/
def State.slotUsed (s : State) (core slot : Nat) : Bool := (s.group? (48 * core + slot)).isSome
def State.slotsOn (s : State) (core sched : Nat) : Nat := ((List.range 12).filter fun i => s.slotUsed core (12 * sched + i)).length
/-- Resident groups of a core. -/
def State.groupsOn (s : State) (core : Nat) : Nat := ((List.range 48).filter fun k => s.slotUsed core k).length

/-- The register blocks of a scheduler: first register and size (R302). -/
def State.regsUsed (s : State) (core sched : Nat) : List (Nat × Nat) :=
  (s.coreTeams core).flatMap fun e =>
    match s.packet? e.2.pid with
    | none => []
    | some pk => ((e.2.slots.zip e.2.regAt).filter fun x => x.1 / 12 == sched).map fun x => (x.2, pk.regs)
/-- The granule runs of a core: first granule and length, in the order of their teams. -/
def State.granUsed (s : State) (core : Nat) : List (Nat × Nat) :=
  (s.coreTeams core).filterMap fun e => (s.packet? e.2.pid).map fun pk => (e.2.granule, pk.granules)
def State.tilesUsed (s : State) (core : Nat) : List Nat := (s.coreTeams core).flatMap fun e => e.2.tileAt
/-- Free tile blocks, lowest first. -/
def State.tilesFree (s : State) (core : Nat) : List Nat := (List.range 32).filter fun b => !((s.tilesUsed core).contains b)

/-! ## Allocation (R302) -/

def meets (a : Nat × Nat) (b : Nat × Nat) : Bool := decide (a.1 < b.1 + b.2) && decide (b.1 < a.1 + a.2)

/-- The largest free aligned blocks of a range of registers, lowest first: what is left once freed buddies have merged. -/
def freeBlocks (used : List (Nat × Nat)) : Nat → Nat → List (Nat × Nat)
  | 0, _ => []
  | f + 1, at' =>
    let size := 8 * 2 ^ f
    if used.any fun u => meets u (at', size) then freeBlocks used f at' ++ freeBlocks used f (at' + size / 2)
    else [(at', size)]

/-- The smallest free block that fits, lowest address first. -/
def takeBlock (used : List (Nat × Nat)) (n : Nat) : Option Nat :=
  ((freeBlocks used 8 0).filter fun b => decide (n ≤ b.2)).foldl (fun best b =>
    match best with
    | none => some b
    | some x => if b.2 < x.2 then some b else some x) none |>.map Prod.fst

inductive Fit (α : Type) where
  | ok (x : α)
  | frag
  | no
deriving DecidableEq, Repr

/-- The scheduler of group g under base b (R15). -/
def schedOf (base g : Nat) : Nat := (base + g) % 4

/-- Group slots: the lowest free one of each group's scheduler. -/
def State.takeSlots (s : State) (core base : Nat) : Nat → List Nat → Option (List Nat)
  | 0, acc => some acc
  | n + 1, acc =>
    let sc := schedOf base acc.length
    match (List.range 12).find? fun i => !(s.slotUsed core (12 * sc + i)) && !(acc.contains (12 * sc + i)) with
    | none => none
    | some i => s.takeSlots core base n (acc ++ [12 * sc + i])

/-- One block for each group in turn. -/
def State.takeRegs (s : State) (core base size : Nat) : Nat → List Nat → Option (List Nat)
  | 0, acc => some acc
  | n + 1, acc =>
    let sc := schedOf base acc.length
    let mine := (acc.zipIdx.filter fun e => schedOf base e.2 == sc).map fun e => (e.1, size)
    match takeBlock (s.regsUsed core sc ++ mine) size with
    | none => none
    | some r => s.takeRegs core base size n (acc ++ [r])

/-- Registers: blocks, or enough in total without them. -/
def State.fitRegs (s : State) (pk : Packet) (core base : Nat) : Fit (List Nat) :=
  match s.takeRegs core base pk.regs pk.groups [] with
  | some l => .ok l
  | none =>
    let need (sc : Nat) : Nat := (((List.range pk.groups).filter fun g => schedOf base g == sc).length) * pk.regs
    let used (sc : Nat) : Nat := ((s.regsUsed core sc).map Prod.snd).sum
    if (List.range 4).all fun sc => decide (used sc + need sc ≤ 1024) then .frag else .no

/-- The lowest-addressed run of free granules that fits. -/
def takeRun (used : List (Nat × Nat)) (total n : Nat) : Option Nat :=
  (List.range (total + 1)).find? fun a => decide (a + n ≤ total) && !(used.any fun u => decide (n ≠ 0) && meets u (a, n))
def State.fitRun (s : State) (pk : Packet) (core : Nat) : Fit Nat :=
  let total := carveBytes pk.carve / 2048
  match takeRun (s.granUsed core) total pk.granules with
  | some a => .ok a
  | none => if ((s.granUsed core).map Prod.snd).sum + pk.granules ≤ total then .frag else .no

/-- What a team is given on a core. -/
structure Room where
  core : Nat
  slots : List Nat
  regAt : List Nat
  granule : Nat
  tileAt : List Nat
deriving DecidableEq, Repr

/-- The cores of a cluster's ranks from an origin (R14), and whether they lie on the die's mesh (R3, R302). -/
def rankCore (origin w k : Nat) : Nat := origin + k % w + 12 * (k / w)
def rankCores (pk : Packet) (origin : Nat) : List Nat := (List.range pk.cluster).map fun k => rankCore origin pk.clw k
def shapeOk (pk : Packet) (origin : Nat) : Bool :=
  let n := coreIn origin
  decide (origin < 512) && decide (n < 96) && decide (n % 12 + pk.clw ≤ 12) && decide (n / 12 + pk.clh ≤ 8)

/-- A resource checked on every core: a failure for good, a failure by fragmentation alone, or what is allocated. -/
def fitAll {α : Type} (l : List (Fit α)) : Fit (List α) :=
  l.foldr (fun x a => match x, a with
    | .no, _ => .no
    | _, .no => .no
    | .frag, _ => .frag
    | _, .frag => .frag
    | .ok x, .ok r => .ok (x :: r)) (.ok [])

def ofOption {α : Type} : Option α → Fit α
  | some x => .ok x
  | none => .no

/-- The outcome of the checks of R302: what each rank is given, the reason that fails, or the reason and the cores when only
fragmentation stands in the way. -/
inductive Rooms where
  | ok (l : List Room)
  | frag (reason : Nat) (cores : List Nat)
  | no (reason : Nat)
deriving DecidableEq, Repr

def State.carveOk (s : State) (pk : Packet) (core : Nat) : Bool :=
  decide ((s.coreAt core).carve = pk.carve) || (s.coreTeams core).isEmpty

/-- The checks of R302 in their order, each over every rank's core; the first that fails answers. -/
def State.rooms (s : State) (pk : Packet) (origin base : Nat) : Rooms :=
  let cores := rankCores pk origin
  if cores.any fun c => (s.coreAt c).fenced then .no 11
  else if !(shapeOk pk origin) then .no 6
  else if !(cores.all fun c => s.carveOk pk c) then .no 5
  else
    let slots := fitAll (cores.map fun c => ofOption (s.takeSlots c base pk.groups []))
    let regs := cores.map fun c => s.fitRegs pk c base
    let runs := cores.map fun c => s.fitRun pk c
    let tiles := fitAll (cores.map fun c => ofOption
      (if pk.acc / 8 ≤ (s.tilesFree c).length then some ((s.tilesFree c).take (pk.acc / 8)) else none))
    let bad := (List.range cores.length).filter fun k =>
      decide (regs.getD k .no = .frag) || decide (runs.getD k .no = .frag)
    let frag (reason : Nat) : Rooms := .frag reason (bad.map fun k => cores.getD k 0)
    match slots, fitAll regs, fitAll runs, tiles with
    | .ok a, .ok b, .ok g, .ok t => .ok ((List.range cores.length).map fun k =>
        ⟨cores.getD k 0, a.getD k [], b.getD k [], g.getD k 0, t.getD k []⟩)
    | .ok _, .no, _, _ => .no 1
    | .ok _, .frag, _, _ => frag 1
    | .ok _, .ok _, .no, _ => .no 2
    | .ok _, .ok _, .frag, _ => frag 2
    | .ok _, .ok _, .ok _, _ => .no 4
    | _, _, _, _ => .no 3

/-- The lowest run of n free handles (R299). -/
def State.freeHandles (s : State) (n : Nat) : Option Nat :=
  (List.range (18432 - n + 1)).find? fun h => (List.range n).all fun k => (s.team? (h + k)).isNone

/-! ## The start of teams (R109, R164, R183, R188, R239, R240, R302) -/

/-- A launch tide time: no access performed so far has a larger one, those answered from copies included. -/
def State.launchTide (s : State) : Nat :=
  (s.slices.map (fun e => e.2.mts) ++ s.lines.map (fun e => e.2.rts) ++ s.groups.map (fun e => e.2.tide) ++
    s.host.hartTide.map Prod.snd).foldl max (max s.topTide s.host.tide)

/-- A new carve-out: dirty lines are written back, write leases returned, and L1 emptied (R183). -/
def State.setCarve (s : State) (core carve : Nat) : State :=
  if (s.coreAt core).carve = carve then s
  else
    ({ s with lines := s.lines.map fun e => (e.1, if e.2.owner = some core then { e.2 with owner := none } else e.2) }
      : State).modCore core fun k => { k with carve := carve, l1 := [], sealed := [] }

/-- Granules zeroed, with the partials of reductions that have not merged into them (R183). -/
def State.zeroRun (s : State) (core first n : Nat) : State :=
  let a := scratchPlace core (first * 2048)
  { s with
    mem := s.mem.filter fun e => decide (e.1 < a) || decide (a + n * 2048 ≤ e.1)
    lines := s.lines.map fun e =>
      (e.1, if leaseKey a ≤ e.1 ∧ e.1 < leaseKey a + n then { e.2 with comm := none } else e.2) }

/-- S registers at entry (R109); S6 to S63 are free values. -/
def entryS (pk : Packet) (t : Team) (g free : Nat) : Store Word :=
  sputs 0 [] ([(0, pk.args.lo), (1, dwordPart pk.args 1), (2, BitVec.ofNat 32 t.index), (3, BitVec.ofNat 32 g),
    (4, BitVec.ofNat 32 pk.teams), (5, BitVec.ofNat 32 t.rank)] ++
    (List.range 58).map fun k => (6 + k, Config.entryS (6 + k) free))

/-- Group g of a team at entry. -/
def entryGroup (pk : Packet) (h : Nat) (t : Team) (g : Nat) (tvec : DWord) (tide free : Nat) : Group :=
  { team := h, idx := g, pc := pk.entry, mask := 0xFFFFFFFF, live := 0xFFFFFFFF,
    h := if pk.poolEnt = 0 then 0 else 0xFFFFFFFF, s := entryS pk t g free,
    v := sputs 0 [] (lanes.map fun l => (l, BitVec.ofNat 32 (32 * g + l))), tide := tide, tvec := tvec }

/-- A group takes its slot and joins its scheduler's age order at the back; the lines its core's constant cache held are dropped, so
that it reads what was stored before it was resident (R84). -/
def State.seatGroup (s : State) (core slot : Nat) (g : Group) : State :=
  let gid := 48 * core + slot
  let s := s.setGroup gid g
  if g.ended then s
  else s.modCore core fun k => { k with
    age := k.age.zipIdx.map fun e => if e.2 = slot / 12 then e.1 ++ [gid] else e.1
    consts := [] }

/-- A team with its room. -/
def newTeam (pid index rank lead base : Nat) (r : Room) : Team :=
  { pid := pid, index := index, rank := rank, lead := lead, core := r.core, sbase := base, slots := r.slots,
    regAt := r.regAt, granule := r.granule, tileAt := r.tileAt }

def State.modPacket (s : State) (pid : Nat) (f : PacketRec → PacketRec) : State :=
  match sfind s.dist.packets pid with
  | none => s
  | some r => s.modDist fun d => { d with packets := sins d.packets pid (f r) }
def State.setTeamAt (s : State) (pid index : Nat) (x : TeamAt) : State :=
  s.modPacket pid fun r => { r with teams := sins r.teams index x }

/-- One team starts at its first residence. -/
def State.startTeam (s : State) (pk : Packet) (pid index rank lead base tide : Nat) (r : Room) : State :=
  let h := lead + rank
  let t := newTeam pid index rank lead base r
  let s := (((s.setCarve r.core pk.carve).zeroRun r.core r.granule pk.granules).setTeam h t).setTeamAt pid index (.resident h)
  (List.range pk.groups).foldl (fun s g =>
    let f := s.fresh
    f.2.seatGroup r.core (r.slots.getD g 0) (entryGroup pk h t g s.host.trapVec tide f.1)) s

/-! ## Hardware accesses through the page tables that may meet no page -/

/-- A write line by line; a line without a translation is not written. -/
def State.vStore (s : State) (va : Nat) (bs : List Byte) (tide : Nat) : State × Nat :=
  (cutLines (bs.length + 1) va bs).foldl (fun (a : State × Nat) e =>
    match a.1.hwStore e.1 e.2 a.2 with
    | .ok r => r
    | .error _ => a) (s, tide)
def State.vLoad (s : State) (va n tide : Nat) : Option (State × Nat × List Byte) :=
  match s.hwLoad va n tide with
  | .ok r => some r
  | .error _ => none

/-- The live count of a packet with a pool, written once, before its first team is placed: the root tasks, less those that aborts
have ended (R298, R313). -/
def State.writeLive (s : State) (pid : Nat) : State :=
  match sfind s.dist.packets pid with
  | none => s
  | some r =>
    if r.pk.poolEnt = 0 ∨ r.poolLive then s
    else (s.vStore r.pk.arena.toNat (leBytes 8 (r.pk.teams * r.pk.groups * 32 - r.gone)) 0).1.modPacket pid fun r =>
      { r with poolLive := true }
/-- Tasks ended for the grid's live count, before or after it is written (R44, R313). -/
def State.endLive (s : State) (pk : Packet) (pid n tide : Nat) : State :=
  if pk.poolEnt = 0 ∨ n = 0 then s
  else if (sfind s.dist.packets pid).any fun r => !r.poolLive then s.modPacket pid fun r => { r with gone := r.gone + n }
  else match s.liveAdd none pk (-(n : Int)) tide with
    | .ok r => r.1
    | .error _ => s

/-! ## The queue's counters (R294) -/

def State.qcb (s : State) (q : Nat) : Nat := s.dist.qcbBase.toNat + 256 * q
def State.qcbAdd (s : State) (q off n : Nat) : State :=
  let r := s.hwRead (s.qcb q + off) 8
  r.1.hwWrite (s.qcb q + off) (leBytes 8 ((r.2 + n) % 2 ^ 64))

/-! ## PLACE (R302, R309) -/

/-- Records of a cluster's command, in ascending rank. -/
def State.rankRecords (s : State) (pk : Packet) (first n : Nat) (f : Nat → Decision → Decision) : State :=
  (List.range n).foldl (fun s k => s.decide' (f k
    { kind := 0, reason := 0, queue := pk.queue, seq := pk.seq, team := first + k, actor := 0 })) s

/-- PLACE or RESUME refused with a reason: REFUSE records (R308). -/
def State.refuse (s : State) (pk : Packet) (first reason origin base actor : Nat) : State :=
  (s.rankRecords pk first pk.cluster fun k d => { d with
    kind := 1, reason := reason, core := rankCore origin pk.clw k, sched := base, actor := actor, detail := pk.addr }).qcbAdd pk.queue 72 1

/-- The records of PLACE and RESUME: handle and first granule (R307). -/
def State.placeRecords (s : State) (pk : Packet) (first kind base actor lead : Nat) (rooms : List Room) : State :=
  s.rankRecords pk first pk.cluster fun k d => { d with
    kind := kind, core := (rooms[k]?.map Room.core).getD 0, sched := base, actor := actor,
    detail := lead + k + ((rooms[k]?.map Room.granule).getD 0) * 2 ^ 16 }

/-- The tide time of the events a team of a packet has been observed to wait on (R306). -/
def State.depTide (s : State) (pk : Packet) (t : Nat) : Nat :=
  (pk.deps.flatMap fun d =>
    (if d.1 then (if t < d.2.1 then [t] else []) else List.range d.2.1).map fun i =>
      ((s.vLoad ((d.2.2.2.toNat + 16 * i) % 2 ^ 64) 16 0).map fun r => r.2.1).getD 0).foldl max 0
/-- The launch tide time of a cluster's packet: that taken when the packet was read, raised to the events its teams have waited
on (R188, R306). -/
def State.packetTide (s : State) (pk : Packet) (pid first : Nat) : Nat :=
  ((List.range pk.cluster).map fun k => s.depTide pk (first + k)).foldl max
    (((sfind s.dist.packets pid).map PacketRec.tide).getD 0)

/-- A cluster is placed: records, then the start of each rank's team. -/
def State.placeIn (s : State) (pk : Packet) (pid first base actor lead : Nat) (rooms : List Room) : State :=
  let s := (s.writeLive pid).placeRecords pk first 0 base actor lead rooms
  let tide := s.packetTide pk pid first
  let s := s.modPacket pid fun r => { r with tide := tide }
  let s := rooms.zipIdx.foldl (fun s e => s.startTeam pk pid (first + e.2) e.2 lead base tide e.1) s
  s.qcbAdd pk.queue 64 pk.cluster

/-! ## Compaction (R302) -/

/-- Blocks in ascending order. -/
def insBlock (x : Nat × Nat × Nat) : List (Nat × Nat × Nat) → List (Nat × Nat × Nat)
  | [] => [x]
  | y :: r => if x.1 < y.1 then x :: y :: r else y :: insBlock x r

/-- The groups of a scheduler's blocks: first register, size, group number. -/
def State.blocksOn (s : State) (core sched : Nat) : List (Nat × Nat × Nat) :=
  (s.coreTeams core).flatMap fun e =>
    match s.packet? e.2.pid with
    | none => []
    | some pk => (((e.2.slots.zip e.2.regAt)).filter fun x => x.1 / 12 == sched).map fun x =>
        (x.2, pk.regs, 48 * core + x.1)

/-- New places of a scheduler's blocks: group, old and new first register. In ascending order each block moves to the lowest place
of its alignment that those before it leave free, which is never above its own. -/
def packBlocks (l : List (Nat × Nat × Nat)) : List (Nat × Nat × Nat) :=
  ((l.foldr insBlock []).foldl (fun (a : List (Nat × Nat) × List (Nat × Nat × Nat)) b =>
    let n := b.2.1
    let at' := (((List.range (b.1 / n + 1)).find? fun k => !(a.1.any fun u => meets u (k * n, n))).getD (b.1 / n)) * n
    (a.1 ++ [(at', n)], a.2 ++ [(b.2.2, b.1, at')])) ([], [])).2

/-- The groups that a compaction moves, with their new first registers. -/
def State.regMoves (s : State) (core : Nat) : List (Nat × Nat × Nat) :=
  ((List.range 4).flatMap fun sc => packBlocks (s.blocksOn core sc)).filter fun m => m.2.1 != m.2.2

/-- Granule runs in ascending order: team, first granule, length. -/
def insGran (x : Nat × Nat × Nat) : List (Nat × Nat × Nat) → List (Nat × Nat × Nat)
  | [] => [x]
  | y :: r => if x.2.1 < y.2.1 then x :: y :: r else y :: insGran x r
def State.granMoves (s : State) (core : Nat) : List (Nat × Nat × Nat × Nat) :=
  let l := (s.coreTeams core).filterMap fun e => (s.packet? e.2.pid).map fun pk => (e.1, e.2.granule, pk.granules)
  (((l.foldr insGran []).foldl (fun (a : Nat × List (Nat × Nat × Nat × Nat)) x =>
    (a.1 + x.2.2, a.2 ++ [(x.1, x.2.1, x.2.2, a.1)])) (0, [])).2).filter fun m => m.2.1 != m.2.2.2

/-- A team's block of a group moved. -/
def State.moveReg (s : State) (gid at' : Nat) : State :=
  match s.group? gid with
  | none => s
  | some g => s.modTeam g.team fun t => { t with regAt := setAt t.regAt g.idx at' }
/-- The end of the leases of a granule run. -/
def State.granTide (s : State) (core first n : Nat) : Nat :=
  ((List.range n).map fun k => (s.lineAt (leaseKey (scratchPlace core ((first + k) * 2048)))).rts).foldl max 0
/-- A granule run moved by the copy engine, after every access that its leases admit (R189). -/
def State.moveRun (s : State) (core h first n at' : Nat) : State :=
  let r := s.readSpan (scratchPlace core (first * 2048)) (n * 2048) (s.granTide core first n)
  (r.1.writeSpan (scratchPlace core (at' * 2048)) r.2.2 r.2.1).1.modTeam h fun t => { t with granule := at' }
def State.compact (s : State) (core : Nat) : State :=
  let s := (s.regMoves core).foldl (fun s m => s.moveReg m.1 m.2.2) s
  (s.granMoves core).foldl (fun s m => s.moveRun core m.1 m.2.1 m.2.2.1 m.2.2.2) s
/-- DETAIL of a COMPACT record (R307). -/
def State.compactDetail (s : State) (core : Nat) : Nat :=
  (s.regMoves core).length + ((s.granMoves core).map fun m => m.2.2.1).sum * 2 ^ 16

/-! ## The end of a residence -/

/-- A stop of a team ends (R369). -/
def State.endStop (s : State) (core h : Nat) : State :=
  s.modCore core fun k => { k with stopCtl := if k.stopCtl.toNat % 2 ^ 15 = h then 0 else k.stopCtl }

/-- A team's resources are freed, and a stop of it ends (R369). -/
def State.freeTeam (s : State) (h : Nat) : State :=
  match s.team? h with
  | none => s
  | some t =>
    let gone (g : Nat) : Bool := t.gids.contains g
    let s : State := { s with
      groups := s.groups.filter fun e => !(gone e.1), teams := sdel s.teams h,
      topTide := (t.gids.map fun g => ((s.group? g).map Group.tide).getD 0).foldl max s.topTide,
      monitors := s.monitors.filter fun m => !(gone m.group), notices := s.notices.filter fun n => !(gone n.group),
      walks := s.walks.map fun w => { w with
        groups := w.groups.filter fun g => !(gone g), fetchers := w.fetchers.filter fun g => !(gone g) } }
    (s.modCore t.core fun k => { k with age := k.age.map fun l => l.filter fun x => !(gone x) }).endStop t.core h

/-- Whether nothing of a team is in flight (R311). -/
def Group.settled (g : Group) : Bool :=
  let held := match g.stall with
    | some (.barrier _) => true
    | some (.clusterBarrier _) => true
    | _ => false
  !g.pending && decide (g.reds = 0) && decide (g.rems = 0) && decide (g.xfers = 0) && g.unread.isEmpty &&
    g.trapped.isNone && g.doom.isNone && (g.dueMcs.isEmpty || held) && (match g.stall with
      | some .divSpill => false
      | some .divRefill => false
      | some .tlbi => false
      | _ => true)
def State.drained (s : State) (h : Nat) : Bool :=
  match s.team? h with
  | none => true
  | some t =>
    let mine (g : Nat) : Bool := t.gids.contains g
    !(s.runs.any mine) && (t.gids.all fun g => ((s.group? g).map Group.settled).getD true) &&
      !(s.ops.any fun o => decide (o.team = h)) && !((s.coreAt t.core).engine.any fun o => mine o.group) &&
      !(s.appends.any fun a => mine a.group) && !(s.reds.any fun r => mine r.group) &&
      !(s.remotes.any fun r => mine r.group) && !(s.replies.any fun r => mine r.group) &&
      !(s.bumps.any fun b => (b.group.map mine).getD false) && !(s.tlbis.any fun b => (b.group.map mine).getD false) &&
      !(s.steals.any fun q => decide (q.thief = h))

end Sys2Proof.Machine
end

