-- ==== Sys2Proof/Machine/Save.lean ====
section
/-!
DEFINITION. The context save area: its size and layout (R343 to R345), the context written to it (R311) and read back (R312),
and the checks a restore makes (R346).
-/
namespace Sys2Proof.Machine

/-! ## Size and places (R296, R343) -/

def Packet.groupBytes (p : Packet) : Nat := 4096 + 128 * p.regs
/-- Offsets of the scratchpad image, the tiles and the scale slots. -/
def Packet.imageOff (p : Packet) : Nat := 4096 + p.groups * p.groupBytes
def Packet.tilesOff (p : Packet) : Nat := p.imageOff + 2048 * p.granules
def Packet.scalesOff (p : Packet) : Nat := p.tilesOff + 1024 * p.acc
def Packet.ctxBytes (p : Packet) : Nat := p.scalesOff + 128 * p.acc
def Packet.ctxSize (p : Packet) : Nat := roundUp p.ctxBytes 4096
/-- The save area of a team (R296). -/
def Packet.ctxVa (p : Packet) (index : Nat) : Nat := (p.ctxSave.toNat + index * p.ctxSize) % 2 ^ 64

/-! ## Writing (R311, R343 to R345) -/

/-- A barrier's 32 bytes; a cluster barrier's mask shows rank 0's groups. -/
def Barrier.bytes (b : Barrier) : List Byte :=
  leBytes 4 b.ph.toNat ++ leBytes 4 b.count ++ leBytes 4 (b.arrived % 2 ^ 32) ++ leBytes 4 0 ++ leBytes 8 b.tide ++ leBytes 8 0
def Queue.bytes (q : Queue) : List Byte :=
  leBytes 4 q.base ++ leBytes 4 (q.depth + q.kind * 2 ^ 16) ++ leBytes 4 q.rd ++ leBytes 4 q.wr
def tagCode : TagState → Nat
  | .clear => 0
  | .pending => 1
  | .set => 2
def Tag.bytes (t : Tag) : List Byte := leBytes 8 (tagCode t.st + (if t.denses.isEmpty then 0 else 4)) ++ leBytes 8 t.time
def CoveSlot.bytes (x : CoveSlot) : List Byte :=
  padTo 128 (leBytes 8 x.addr.toNat ++ leBytes 1 (if x.loaded then 1 else 0)) ++ padTo 128 x.image

/-- The groups of a team that have ended, as a mask. -/
def State.endedMask (s : State) (t : Team) : Nat :=
  (t.gids.zipIdx.filter fun e => ((s.group? e.1).map Group.ended).getD true).foldl (fun m e => m + 2 ^ e.2) 0

/-- The team header (R344). -/
def State.header (s : State) (pk : Packet) (t : Team) : List Byte :=
  let a := leBytes 4 1 ++ leBytes 4 (pk.ctxSize / 4096) ++ leBytes 8 pk.addr ++ leBytes 4 t.index ++
    leBytes 4 (s.endedMask t) ++ leBytes 4 t.rank
  let b := padTo 0x100 a ++ ((List.range 16).flatMap fun n => (sget ({} : Barrier) t.bars n).bytes) ++
    ((List.range 16).flatMap fun n => (t.queue n).bytes) ++ ((List.range 64).flatMap fun n => (t.tag n).bytes) ++
    ((List.range 4).flatMap fun n => (t.cove n).bytes) ++
    leWords ((List.range 8).map fun n => if 8 * n < pk.acc then t.scaleWord n else 0) ++
    leBytes 8 ((List.range 64).foldl (fun m z => m + if t.tileD.getD z true then 2 ^ z else 0) 0 % 2 ^ pk.acc) ++
    leBytes 8 0 ++ leBytes 4 t.pool.length ++ leBytes 4 0 ++ leBytes 4 t.steals.toNat ++ leBytes 4 0
  padTo 4096 (b ++ if t.rank = 0 then (List.range 4).flatMap fun n => (sget ({} : Barrier) t.cbars n).bytes else [])

/-- A group as it is saved: waits whose instruction re-executes are flagged, and a waiting WAITV has completed with U (R238). -/
def Group.forSave (g : Group) : Group :=
  let g := match g.waitPred with
    | some (d, m) => { g.setPs ((lanesOf m).map fun l => (32 * d + l, triCode .u)) with pc := g.pc + 8, stall := none }
    | none => g
  match g.stall with
  | none => g
  | some (.barrier _) => g
  | some (.clusterBarrier _) => g
  | some _ => { g with redo := true }

/-- A group's state record and V registers. -/
def Group.saveBytes (g : Group) (regs : Nat) : List Byte :=
  g.forSave.record ++ leWords ((List.range (32 * regs)).map fun k => sget 0 g.v k)

/-- The scratchpad image; the pool's tasks stand from its entry 0 on, oldest first. -/
def State.scratchImage (s : State) (pk : Packet) (t : Team) : List Byte :=
  let im := s.bytesAt (t.scratch 0) (2048 * pk.granules)
  if pk.poolEnt = 0 then im
  else patch im pk.poolOff (t.pool.flatMap fun e => s.bytesAt (t.poolAt pk e.ent) pk.entryBytes)

/-- A team's whole area. -/
def State.areaBytes (s : State) (pk : Packet) (t : Team) : List Byte :=
  s.header pk t ++ (t.gids.flatMap fun g => ((s.group? g).map fun x => x.saveBytes pk.regs).getD []) ++ s.scratchImage pk t ++
    ((List.range pk.acc).flatMap fun z => t.tileImage z) ++
    ((List.range (pk.acc / 8)).flatMap fun n => (List.range 1024).map fun b => BitVec.ofNat 8 (t.expByte n b))

/-- The largest tidemark of a team's groups. -/
def State.teamTide (s : State) (t : Team) : Nat := (t.gids.map fun g => ((s.group? g).map Group.tide).getD 0).foldl max 0

/-- One team written to its area, in tide order after its accesses and those its leases admit (R189, R311, R343). -/
def State.saveTeam (s : State) (pk : Packet) (t : Team) : State :=
  let r := s.readSpan (t.scratch 0) (2048 * pk.granules) (max (s.teamTide t) (s.granTide t.core t.granule pk.granules))
  (r.1.vStore (pk.ctxVa t.index) (r.1.areaBytes pk t) r.2.1).1

/-- What the distributor keeps of a saved team. -/
def State.keepTeam (s : State) (h : Nat) (t : Team) (host : Bool) : SavedTeam :=
  { host := host, spill := t.spill, handles := h :: t.olds, early := t.early, code := t.code,
    bars := ((List.range 16).map fun n => sget {} t.bars n) ++ ((List.range 4).map fun n => sget {} t.cbars n),
    traps := t.gids.zipIdx.filterMap fun e => match (s.group? e.1).map Group.dueMcs with
      | some (x :: r) => some (e.2, x :: r)
      | _ => none
    tide := s.teamTide t, denses := (List.range 64).map fun n => (t.tag n).denses }

/-! ## Checks (R346) -/

def zeroBytes (bs : List Byte) (off n : Nat) : Bool := ((bs.drop off).take n).all fun b => decide (b = 0)
/-- Reserved ranges of the team header: offset and length. -/
def headerReserved (rank : Nat) : List (Nat × Nat) :=
  [(0x1C, 0xE4)] ++ ((List.range 16).flatMap fun n => [(0x100 + 32 * n + 12, 4), (0x100 + 32 * n + 24, 8)]) ++
    ((List.range 16).map fun n => (0x300 + 16 * n + 7, 1)) ++ ((List.range 64).map fun n => (0x400 + 16 * n + 1, 7)) ++
    ((List.range 4).map fun n => (0x800 + 256 * n + 9, 119)) ++
    [(0xC28, 8), (0xC3C, 4)] ++
    (if rank = 0 then (List.range 4).flatMap fun n => [(0xC40 + 32 * n + 12, 4), (0xC40 + 32 * n + 24, 8)]
      else [(0xC40, 128)]) ++ [(0xCC0, 0x340)]
/-- Reserved ranges of a group's state record. -/
def recordReserved : List (Nat × Nat) := [(0x27, 1), (0x54, 12), (0x510, 0xAF0)]

def barrierOk (bs : List Byte) (off count groups : Nat) : Bool :=
  decide (natOf bs (off + 4) 4 ≤ count) && decide (natOf bs (off + 8) 4 < 2 ^ groups)
def queueOk (bs : List Byte) (off alloc : Nat) : Bool :=
  let kind := natOf bs (off + 6) 1 % 4
  let depth := natOf bs (off + 4) 2
  let width := if kind = 2 then 128 else 4
  let held := (natOf bs (off + 12) 4 + 2 ^ 32 - natOf bs (off + 8) 4) % 2 ^ 32
  decide (kind = 0) || (decide (kind ≠ 3) && decide (natOf bs off 4 + depth * width ≤ alloc) && decide (1 ≤ depth) &&
    decide (depth ≤ 4096) && decide (held ≤ depth))
def tagOk (bs : List Byte) (tags n : Nat) : Bool :=
  let st := natOf bs (0x400 + 16 * n) 1 % 4
  decide (st ≠ 3) && (decide (n < tags) || decide (st = 0))
def coveOk (bs : List Byte) (n : Nat) : Bool :=
  decide (natOf bs (0x808 + 256 * n) 1 % 2 = 0) ||
    !(CoveSlot.bad { image := (bs.drop (0x880 + 256 * n)).take 128 })
def poolOk (pk : Packet) (bs : List Byte) : Bool :=
  decide (pk.poolEnt = 0) || (decide (natOf bs 0xC30 4 ≤ pk.poolEnt) && decide (natOf bs 0xC34 4 < pk.poolEnt))

/-- The header's checks. -/
def headerOk (pk : Packet) (index rank : Nat) (bs : List Byte) : Bool :=
  decide (natOf bs 0 4 = 1) && decide (natOf bs 4 4 * 4096 = pk.ctxSize) && decide (natOf bs 0x10 4 = index) &&
    decide (natOf bs 0x18 4 = rank) && (headerReserved rank).all (fun r => zeroBytes bs r.1 r.2) &&
    (List.range 16).all (fun n => barrierOk bs (0x100 + 32 * n) pk.groups pk.groups) &&
    (List.range 4).all (fun n => barrierOk bs (0xC40 + 32 * n) (pk.cluster * pk.groups) pk.groups) &&
    (List.range 16).all (fun n => queueOk bs (0x300 + 16 * n) (pk.granules * 2048)) &&
    (List.range 64).all (fun n => tagOk bs pk.tags n) && (List.range 4).all (fun n => coveOk bs n) && poolOk pk bs

/-- A used stack entry's checks (R25). -/
def entryOk (e : Nat) : Bool := !(entBad (BitVec.ofNat 128 e))
/-- A group record's checks. -/
def recordOk (pk : Packet) (bs : List Byte) : Bool :=
  let live := wordOf bs 0xC
  let h := wordOf bs 0x20
  let depth := natOf bs 0x28 4
  let cnt := natOf bs 0x2C 4
  recordReserved.all (fun r => zeroBytes bs r.1 r.2) && decide (natOf bs 0 8 % 8 = 0) &&
    decide (wordOf bs 8 &&& ~~~live = 0) && decide (h &&& ~~~live = 0) && (decide (pk.poolEnt ≠ 0) || decide (h = 0)) &&
    decide (natOf bs 0x24 1 % 4 ≠ 3) && decide (natOf bs 0x18 2 ≠ 0) && decide (natOf bs 0x30 8 % 8 = 0) &&
    decide (depth ≤ 1024) && decide (cnt ≤ 16) && decide (cnt ≤ depth) && decide ((depth - cnt) % 8 = 0) &&
    (List.range cnt).all fun j => entryOk (natOf bs (0x400 + 16 * j) 16)

def groupRecord (pk : Packet) (bs : List Byte) (j : Nat) : List Byte := (bs.drop (4096 + j * pk.groupBytes)).take 4096
/-- Whether an area may be restored (R346). -/
def areaOk (pk : Packet) (index rank : Nat) (bs : List Byte) : Bool :=
  headerOk pk index rank bs && (List.range pk.groups).all fun j => recordOk pk (groupRecord pk bs j)

/-! ## Reading back (R312) -/

def barrierOf (old : Barrier) (bs : List Byte) (off : Nat) : Barrier :=
  let n := natOf bs (off + 4) 4
  { old with ph := wordOf bs off, count := n, need := if n = 0 then none else old.need,
             arrived := natOf bs (off + 8) 4, tide := natOf bs (off + 16) 8 }
def queueOf (bs : List Byte) (off time : Nat) : Queue :=
  let kind := natOf bs (off + 6) 1 % 4
  let depth := natOf bs (off + 4) 2
  let rd := natOf bs (off + 8) 4
  let held := (natOf bs (off + 12) 4 + 2 ^ 32 - rd) % 2 ^ 32
  if kind = 0 then {}
  else { kind := kind, base := natOf bs off 4, depth := depth, rd := rd % depth, wr := rd % depth + held,
         times := List.replicate held time }
/-- A tag; its Dense Fallback is that of the groups it was pending for, else of whichever asks first (R282). -/
def tagOf (kept : List (Option Nat)) (bs : List Byte) (n : Nat) : Tag :=
  let w := natOf bs (0x400 + 16 * n) 1
  { st := if w % 4 = 1 then .pending else if w % 4 = 2 then .set else .clear,
    denses := if w / 4 % 2 = 0 then [] else if kept.isEmpty then [none] else kept,
    time := natOf bs (0x408 + 16 * n) 8 }
def coveOf (bs : List Byte) (n : Nat) : CoveSlot :=
  if natOf bs (0x808 + 256 * n) 1 % 2 = 1 then
    { loaded := true, addr := dwordOf bs (0x800 + 256 * n), image := (bs.drop (0x880 + 256 * n)).take 128, stale := true }
  else {}

/-- A team with what its header, tiles and scale slots hold. -/
def Team.ofArea (t : Team) (pk : Packet) (x : SavedTeam) (bs : List Byte) (time : Nat) : Team :=
  let bar (n off : Nat) : Barrier := barrierOf (x.bars.getD n {}) bs off
  { t with
    bars := sputs {} [] ((List.range 16).map fun n => (n, bar n (0x100 + 32 * n))),
    cbars := if t.rank = 0 then sputs {} [] ((List.range 4).map fun n => (n, bar (16 + n) (0xC40 + 32 * n))) else [],
    queues := sputs {} [] ((List.range 16).map fun n => (n, queueOf bs (0x300 + 16 * n) time)),
    tags := sputs {} [] ((List.range 64).map fun n => (n, tagOf (x.denses.getD n []) bs n)),
    coves := sputs {} [] ((List.range 4).map fun n => (n, coveOf bs n)),
    tiles := sputs 0 [] ((List.range (256 * pk.acc)).map fun k => (k, wordOf bs (pk.tilesOff + 4 * k))),
    tileD := (List.range 64).map fun z => if z < pk.acc then (natOf bs 0xC20 8).testBit z else true,
    scaleBytes := sputs 0 [] ((List.range (128 * pk.acc)).map fun k =>
      (k, BitVec.ofNat 8 (natOf bs (pk.scalesOff + k) 1) ^^^ 0x7F)),
    scales := sputs 0 [] ((List.range (pk.acc / 8)).map fun n => (n, wordOf bs (0xC00 + 4 * n) ^^^ 0x3F800000)),
    pool := if pk.poolEnt = 0 then [] else (List.range (natOf bs 0xC30 4)).map fun i =>
      ⟨(natOf bs 0xC34 4 + i) % pk.poolEnt, time, 0⟩,
    steals := BitVec.ofNat 32 (natOf bs 0xC38 4),
    spill := x.spill, code := x.code, early := x.early, olds := x.handles }

/-- Group j of an area. -/
def groupOfArea (pk : Packet) (h : Nat) (x : SavedTeam) (bs : List Byte) (j : Nat) : Group :=
  let rec' := groupRecord pk bs j
  let g : Group := Group.ofRecord { team := h, idx := j, pc := 0, mask := 0, live := 0, h := 0, tide := 0, tvec := 0 } rec'
  { g with
    v := sputs 0 [] ((List.range (32 * pk.regs)).map fun k => (k, wordOf bs (8192 + j * pk.groupBytes + 4 * k))),
    ended := (natOf bs 0x14 4).testBit j, mcs := ((x.traps.find? fun e => e.1 == j).map Prod.snd).getD [] }

/-- The arrival mask of the cluster barriers, from the groups that wait at them. -/
def State.clusterArrivals (s : State) (lead : Nat) : State :=
  (s.clusterOf lead).foldl (fun s e => e.2.gids.zipIdx.foldl (fun s g =>
    match (s.group? g.1).map Group.stall with
    | some (some (.clusterBarrier id)) => s.modTeam lead fun t =>
        let b : Barrier := sget {} t.cbars id
        let bit := 32 * e.2.rank + g.2
        if b.arrived.testBit bit then t else { t with cbars := sput {} t.cbars id { b with arrived := b.arrived + 2 ^ bit } }
    | _ => s) s) s

/-- One team restored into its room; the push times of its queues and pool are its largest tidemark. -/
def State.restoreTeam (s : State) (pk : Packet) (pid index rank lead base : Nat) (x : SavedTeam) (r : Room)
    (bs : List Byte) (tide : Nat) : State :=
  let h := lead + rank
  let time := ((List.range pk.groups).map fun j => natOf (groupRecord pk bs j) 0x10 8).foldl max 0
  let t := (newTeam pid index rank lead base r).ofArea pk x bs time
  let s := ((s.setCarve r.core pk.carve).setTeam h t).setTeamAt pid index (.resident h)
  let s := (s.writeSpan (t.scratch 0) ((bs.drop pk.imageOff).take (2048 * pk.granules)) tide).1
  (List.range pk.groups).foldl (fun s j =>
    s.seatGroup r.core (r.slots.getD j 0) (groupOfArea pk h x bs j)) s

/-- The areas of a cluster as read, with the largest tide time. -/
def State.readAreas (s : State) (pk : Packet) (first n : Nat) : Option (State × Nat × List (List Byte)) :=
  (List.range n).foldlM (fun (a : State × Nat × List (List Byte)) k =>
    (a.1.vLoad (pk.ctxVa (first + k)) pk.ctxBytes a.2.1).map fun r => (r.1, r.2.1, a.2.2 ++ [r.2.2])) (s, 0, [])

/-- A cluster restored (R312). -/
def State.restoreIn (s : State) (pk : Packet) (pid first base lead tide : Nat) (saved : List SavedTeam) (rooms : List Room)
    (areas : List (List Byte)) : State :=
  let s := rooms.zipIdx.foldl (fun s e =>
    match saved[e.2]?, areas[e.2]? with
    | some x, some bs => s.restoreTeam pk pid (first + e.2) e.2 lead base x e.1 bs tide
    | _, _ => s) s
  s.clusterArrivals lead

end Sys2Proof.Machine
end

