-- ==== Sys2Proof/Machine/Mech.lean ====
section
/-!
DEFINITION. The mechanisms (R300 to R303, R311 to R314): commands of the distributor's harts, saves, aborts and team ends, and
the answers to work-item requests (R317).
-/
namespace Sys2Proof.Machine

/-! ## Mechanism blocks (R300) -/

def State.mech (s : State) (h : Nat) : Mech := sget {} s.dist.mechs h
def State.modMech (s : State) (h : Nat) (f : Mech → Mech) : State :=
  s.modDist fun d => { d with mechs := sput {} d.mechs h (f (sget {} d.mechs h)) }
def Mech.opd (m : Mech) (k : Nat) : Nat := (m.cmd.getD k 0).toNat

/-- A command ends with a RESULT and a VALUE. -/
def State.mechDone (s : State) (h result value : Nat) : State :=
  s.modMech h fun m => { m with
    busy := false, result := result, value := BitVec.ofNat 32 value, cmd := [], held := false, who := none, teams := [],
    cores := [], retried := false }
/-- A command stays BUSY, to be performed later. -/
def State.mechHold (s : State) (h : Nat) (who : Option (Nat × Nat)) : State :=
  s.modMech h fun m => { m with held := true, who := who }
/-- A command stays BUSY until the entries of some teams have been pushed. -/
def State.mechAwait (s : State) (h : Nat) (teams : List (Nat × Nat)) : State :=
  s.modMech h fun m => { m with held := false, who := none, teams := teams }
/-- Whether a team's SAVED or TEAMEND entry is held while the FIFO is full (R293). -/
def State.entryHeld (s : State) (who : Nat × Nat) : Bool :=
  s.dist.held.any fun e => decide (e.who = some who) && (decide (e.e.toNat / 2 ^ 60 = 2) || decide (e.e.toNat / 2 ^ 60 = 7))
/-- A team's SAVED or TEAMEND entry has been made; once it is pushed, a command that awaits it goes on (R301). -/
def State.awaited (s : State) (who : Nat × Nat) : State :=
  if s.entryHeld who then s
  else (List.range 8).foldl (fun s k =>
    let m := s.mech k
    if m.teams.contains who then
      let rest := m.teams.filter fun x => x != who
      if rest.isEmpty then s.mechDone k 0 0 else s.mechAwait k rest
    else s) s

/-- The harts run microcode (R289, R290, R292, R373). -/
def State.hartsOn (s : State) : Bool :=
  s.dist.run && !s.host.lowWater && !s.dist.quiesce && !s.dist.quiesced && !s.dist.watchdog && s.dist.imageOk

def State.hartTideOf (s : State) (h : Nat) : Nat := sget 0 s.host.hartTide h
def State.setHartTide (s : State) (h t : Nat) : State :=
  s.modHost fun x => { x with hartTide := sput 0 x.hartTide h t }

/-- A core that is to be compacted takes no other command first (R302, R303). -/
def State.coreBusy (s : State) (core : Nat) : Bool := s.dist.compacts.any fun c => c.core == core

/-! ## Queues and dependencies (R289, R295, R297) -/

def State.queueOpen (s : State) (q : Nat) : Bool := decide (q < s.dist.nq.toNat) && decide (s.dist.logCap ≠ 0)
def State.queueActive (s : State) (q : Nat) : Bool := s.queueOpen q && decide (s.hwSees (s.qcb q) 4 = 1)

/-- What an event says to a team that waits on it: T satisfied, F aborted, U not yet. -/
def State.eventSays (s : State) (seq : Word) (va : Nat) : Tri :=
  match s.vLoad va 16 0 with
  | none => .u
  | some r => (dwaitTest seq (leNat r.2.2)).getD .u
/-- One dependency entry, for a team. -/
def State.depSays (s : State) (t : Nat) (d : Bool × Nat × Word × DWord) : Tri :=
  let idx := if d.1 then (if t < d.2.1 then [t] else []) else List.range d.2.1
  let l := idx.map fun i => s.eventSays d.2.2.1 ((d.2.2.2.toNat + 16 * i) % 2 ^ 64)
  if l.contains .f then .f else if l.contains .u then .u else .t
def State.depsSay (s : State) (pk : Packet) (t : Nat) : Tri :=
  let l := pk.deps.map (s.depSays t)
  if l.contains .f then .f else if l.contains .u then .u else .t

/-- Whether a cluster of a packet waits to be placed, and is READY (R299). -/
def PacketRec.waiting (r : PacketRec) (first : Nat) : Bool :=
  (List.range r.pk.cluster).all fun k => (sfind r.teams (first + k)).isNone
def State.clusterReady (s : State) (r : PacketRec) (first : Nat) : Bool :=
  decide (first % r.pk.cluster = 0) && decide (first < r.pk.teams) && r.waiting first &&
    (List.range r.pk.cluster).all fun k => decide (s.depsSay r.pk (first + k) = .t)

/-! ## PLACE and RESUME (R301, R302, R312) -/

/-- A command that seats a cluster: the wait for the log, the checks of R302, one compaction, and its outcome. Where no run of free
handles is left for the cluster, it is refused with SLOTS, which is the model's choice (notes/assumptions/135). -/
def State.seat (s : State) (hart : Nat) (pk : Packet) (pid first origin base : Nat) (act : State → Nat → List Room → State) :
    State :=
  if !(s.logRoom pk.cluster) then s.mechHold hart (some (pid, first))
  else
    let no (r : Nat) : State := (s.refuse pk first r origin base hart).mechDone hart r 0
    match s.rooms pk origin base with
    | .ok rooms =>
      match s.freeHandles pk.cluster with
      | some lead => (act s lead rooms).mechDone hart 0 lead
      | none => no 3
    | .no r => no r
    | .frag r cores =>
      if (s.mech hart).retried then no r
      else (s.modDist fun d => { d with compacts := d.compacts ++ cores.map fun c => ⟨c, some hart, pid, first⟩ }).mechHold
        hart (some (pid, first))

/-- ARG1 of PLACE and RESUME: origin and scheduler base. -/
def argOrigin (x : Nat) : Nat := x / 2 ^ 32 % 512
def argBase (x : Nat) : Nat := x / 2 ^ 42 % 4

def State.runPlace (s : State) (hart : Nat) : State :=
  let m := s.mech hart
  let first := m.opd 1 % 2 ^ 32
  let q := m.opd 2 % 4096
  if !(s.queueActive q) then s.mechDone hart 10 0
  else match s.dist.packets.find? fun e =>
      decide (e.2.pk.addr = m.opd 0) && decide (e.2.pk.queue = q) && s.clusterReady e.2 first with
    | none => s.mechDone hart 10 0
    | some (pid, r) => s.seat hart r.pk pid first (argOrigin (m.opd 1)) (argBase (m.opd 1))
        fun s lead rooms => s.placeIn r.pk pid first (argBase (m.opd 1)) hart lead rooms

/-- The packet and team whose save area stands at an address, by a test on where the team is. -/
def State.teamOfArea (s : State) (va : Nat) (f : Option TeamAt → Bool) : Option (Nat × Nat) :=
  s.dist.packets.findSome? fun e =>
    let off := (va + 2 ^ 64 - e.2.pk.ctxSave.toNat) % 2 ^ 64
    let i := off / e.2.pk.ctxSize
    if off % e.2.pk.ctxSize = 0 ∧ i < e.2.pk.teams ∧ f (sfind e.2.teams i) then some (e.1, i) else none

def isSaved : Option TeamAt → Bool
  | some (.saved _) => true
  | _ => false
def isLeft : Option TeamAt → Bool
  | some (.ended _) => false
  | _ => true
/-- What the distributor keeps of each rank of a saved cluster. -/
def PacketRec.savedRanks (r : PacketRec) (first : Nat) : List SavedTeam :=
  (List.range r.pk.cluster).filterMap fun k => match sfind r.teams (first + k) with
    | some (.saved x) => some x
    | _ => none

/-- The restore itself: records, then each rank (R312). -/
def State.resumeIn (s : State) (r : PacketRec) (pid first base actor lead : Nat) (rooms : List Room) : State :=
  match s.readAreas r.pk first r.pk.cluster with
  | none => s
  | some a =>
    let s := a.1.placeRecords r.pk first 3 base actor lead rooms
    (s.restoreIn r.pk pid first base lead a.2.1 (r.savedRanks first) rooms a.2.2).qcbAdd r.pk.queue 88 r.pk.cluster
/-- The checks of R346 on every rank's area. -/
def State.areasOk (s : State) (r : PacketRec) (first : Nat) : Bool :=
  match s.readAreas r.pk first r.pk.cluster with
  | none => false
  | some a => (List.range r.pk.cluster).all fun k => areaOk r.pk (first + k) k (a.2.2.getD k [])

def State.runResume (s : State) (hart : Nat) : State :=
  let m := s.mech hart
  match s.teamOfArea (m.opd 0) isSaved with
  | none => s.mechDone hart 10 0
  | some (pid, first) =>
    match sfind s.dist.packets pid with
    | none => s.mechDone hart 10 0
    | some r =>
      if first % r.pk.cluster ≠ 0 then s.mechDone hart 10 0
      else if !(s.areasOk r first) then s.mechDone hart 8 0
      else s.seat hart r.pk pid first (argOrigin (m.opd 1)) (argBase (m.opd 1))
        fun s lead rooms => s.resumeIn r pid first (argBase (m.opd 1)) hart lead rooms

/-! ## PREEMPT (R311) -/

def preemptRecord (pk : Packet) (t : Team) (reason actor : Nat) : Decision :=
  { kind := 2, reason := reason, queue := pk.queue, seq := pk.seq, team := t.index, core := t.core, actor := actor,
    detail := pk.ctxVa t.index }
/-- The records of each team, then the stop. -/
def State.preemptNow (s : State) (hart reason : Nat) (pk : Packet) (lead : Nat) : State :=
  let ts := s.clusterOf lead
  let s := ts.foldl (fun s e => s.decide' (preemptRecord pk e.2 reason hart)) s
  let s := s.modCluster lead fun t => { t with life := .saving (some hart) reason, stopped := none, dumped := false }
  let s := ts.foldl (fun s e => s.endStop e.2.core e.1) s
  (s.qcbAdd pk.queue 80 ts.length).mechAwait hart (ts.map fun e => (e.2.pid, e.2.index))

def State.runPreempt (s : State) (hart : Nat) : State :=
  let m := s.mech hart
  let reason := m.opd 1 % 256
  match s.team? (m.opd 0 % 2 ^ 15) with
  | none => s.mechDone hart 10 0
  | some t =>
    match s.packet? t.pid with
    | none => s.mechDone hart 10 0
    | some pk =>
      if t.life ≠ .run ∨ (m.who.isSome ∧ m.who ≠ some (t.pid, t.index)) then s.mechDone hart 10 0
      else if reason ≠ 13 ∧ reason ≠ 14 then s.mechDone hart 8 0
      else if !(s.logRoom pk.cluster) then s.mechHold hart (some (t.pid, t.index))
      else s.preemptNow hart reason pk t.lead

/-! ## The ends of teams (R299, R306, R313) -/

/-- The completion event of a team (R305, R306). -/
def State.writeEvent (s : State) (pk : Packet) (index : Nat) (code : Word) (flags tide : Nat) : State :=
  if pk.events = 0 then s else (s.vStore (pk.eventVa index) (eventBytes index pk.seq code flags) tide).1
def boolBit (b : Bool) : Nat := if b then 1 else 0
def teamendEntry (h core : Nat) (aborted : Bool) : DWord := fifoEntry 2 (h % 2 ^ 15 + boolBit aborted * 2 ^ 15 + core * 2 ^ 16)

/-- The debug entries of a queue whose last resident team on a core has ended are spilled (R365). -/
def State.flushQueue (s : State) (core q : Nat) : State :=
  if (s.coreTeams core).any fun e => decide ((s.packet? e.2.pid).map Packet.queue = some q) then s
  else s.flushTable core fun d => d.queue == q

/-- A resident team ends: its event, its resources, its TEAMEND entry. -/
def State.leave (s : State) (pk : Packet) (h : Nat) (t : Team) (aborted : Bool) : State :=
  let flags := (if aborted then 4 else 1) + (if t.early then 2 else 0)
  let s := s.writeEvent pk t.index t.code flags (s.teamTide t)
  let s := ((s.setTeamAt t.pid t.index (.ended aborted)).freeTeam h).flushQueue t.core pk.queue
  (s.pushFifo (teamendEntry h t.core aborted) (some (t.pid, t.index)) (some t.core)).awaited (t.pid, t.index)

/-- Tasks a resident team holds: lanes, pool and spill segment (R313). -/
def State.teamTasks (s : State) (t : Team) : Nat :=
  (t.gids.map fun g => ((s.group? g).map fun x => popcount x.h).getD 0).sum + t.pool.length + t.spill.length

/-- A resident team aborted, once drained: its tasks, its event and entry, and the report of a trap or HALT. -/
def State.abortTeam (s : State) (pk : Packet) (h : Nat) (t : Team) : State :=
  let s := (s.endLive pk t.pid (s.teamTasks t) (s.teamTide t)).leave pk h t true
  match t.report with
  | some (ty, bs) => s.postMsg ty t.core t.index bs
  | none => s

/-- Tasks that a save area records (R313). -/
def State.areaTasks (s : State) (pk : Packet) (index : Nat) (x : SavedTeam) : Nat :=
  match s.vLoad (pk.ctxVa index) pk.ctxBytes 0 with
  | none => x.spill.length
  | some r => ((List.range pk.groups).map fun j => popcount (wordOf (groupRecord pk r.2.2 j) 0x20)).sum +
      natOf r.2.2 0xC30 4 + x.spill.length

/-- A team with no residence aborted, at a tide time after its accesses. Its entry's handle and core are open. -/
def State.abortAway (s : State) (pk : Packet) (pid index tasks flags : Nat) (code : Word) (tide : Nat) : State :=
  let s := (s.endLive pk pid tasks tide).writeEvent pk index code (4 + flags) tide
  let f := s.fresh
  let e := (Config.openWord f.1).toNat
  (f.2.setTeamAt pid index (.ended true)).pushFifo (teamendEntry e (e / 2 ^ 15 % 512) true) (some (pid, index))

/-- The records of a cluster that is not resident; DETAIL, a handle, is open. -/
def State.awayRecords (s : State) (pk : Packet) (first reason actor : Nat) : State :=
  let f := s.fresh
  f.2.rankRecords pk first pk.cluster fun _ d => { d with
    kind := 4, reason := reason, actor := actor, detail := (Config.openWord f.1).toNat % 2 ^ 15 }

/-- ABORT of a cluster that is READY, WAITDEP or SAVED (R313). -/
def State.abortCluster (s : State) (r : PacketRec) (pid first reason actor : Nat) : State :=
  (List.range r.pk.cluster).foldl (fun s k =>
    match sfind r.teams (first + k) with
    | some (.saved x) => s.abortAway r.pk pid (first + k) (s.areaTasks r.pk (first + k) x) (2 * boolBit x.early) x.code x.tide
    | _ => s.abortAway r.pk pid (first + k) (32 * r.pk.groups) 0 0 0) (s.awayRecords r.pk first reason actor)

/-- The REASON of an ABORT's records: STATE for a cluster whose predecessor's event is ABORTED, otherwise open (R308). -/
def State.abortReason (s : State) (pk : Packet) (first : Nat) : Nat × State :=
  if (List.range pk.cluster).any fun k => decide (s.depsSay pk (first + k) = .f) then (10, s)
  else ((Config.openWord s.fresh.1).toNat % 16, s.fresh.2)

/-- The team an ABORT names: the one it waits for, else by save area or by handle. -/
def State.abortTarget (s : State) (m : Mech) : Option (Nat × Nat) :=
  match m.who with
  | some w => some w
  | none =>
    if m.opd 1 / 2 ^ 63 % 2 = 1 then s.teamOfArea (m.opd 0) isLeft
    else (s.team? (m.opd 0 % 2 ^ 15)).map fun t => (t.pid, t.index)

/-- ABORT of a resident cluster. -/
def State.abortResident (s : State) (hart : Nat) (pk : Packet) (h : Nat) : State :=
  match s.team? h with
  | none => s.mechDone hart 10 0
  | some t =>
    match t.life with
    | .run =>
      if !(s.logRoom pk.cluster) then s.mechHold hart (some (t.pid, t.index))
      else
        let f := s.abortReason pk (t.index / pk.cluster * pk.cluster)
        let s := f.2.abortRecords t.lead f.1 hart
        (s.modCluster t.lead fun u => { u with life := .aborting (some hart) 0, stopped := none }).mechAwait hart
          ((s.clusterOf t.lead).map fun e => (e.2.pid, e.2.index))
    | .saving _ _ => s.mechHold hart (some (t.pid, t.index))
    | _ => s.mechDone hart 10 0

def State.runAbort (s : State) (hart : Nat) : State :=
  match s.abortTarget (s.mech hart) with
  | none => s.mechDone hart 10 0
  | some (pid, i) =>
    match sfind s.dist.packets pid with
    | none => s.mechDone hart 10 0
    | some r =>
      let first := i / r.pk.cluster * r.pk.cluster
      match sfind r.teams first with
      | some (.ended _) => s.mechDone hart 10 0
      | some (.resident h) => s.abortResident hart r.pk h
      | _ =>
        if !(s.logRoom r.pk.cluster) then s.mechHold hart (some (pid, i))
        else
          let f := s.abortReason r.pk first
          (f.2.abortCluster r pid first f.1 hart).mechDone hart 0 0

/-! ## QUERY (R301) -/

/-- log2 of the largest free register block; open when no block is free. -/
def State.largestBlock (s : State) (core sched : Nat) : Nat × State :=
  match (freeBlocks (s.regsUsed core sched) 8 0).map Prod.snd with
  | [] => let f := s.fresh; ((Config.openWord f.1).toNat % 16, f.2)
  | l => ((l.foldl max 0).log2, s)
/-- The largest free granule run, and the free granules. -/
def State.freeGranules (s : State) (core : Nat) : Nat × Nat :=
  let total := carveBytes (s.coreAt core).carve / 2048
  let used := s.granUsed core
  let free := (List.range total).filter fun a => !(used.any fun u => meets u (a, 1))
  ((free.foldl (fun (x : Nat × Nat × Nat) a =>
    let run := if a = x.2.2 then x.2.1 + 1 else 1
    (max x.1 run, run, a + 1)) (0, 0, 0)).1, free.length)

def State.runQuery (s : State) (hart : Nat) : State :=
  let core := (s.mech hart).opd 0 % 512
  if 96 ≤ coreIn core then s.mechDone hart 8 0
  else
    let b := (List.range 4).foldl (fun (a : Nat × State) i =>
      let x := a.2.largestBlock core i
      (a.1 + x.1 * 2 ^ (16 + 4 * i), x.2)) (0, s)
    let slots := (List.range 4).foldl (fun a i => a + (12 - s.slotsOn core i) * 2 ^ (4 * i)) 0
    let g := s.freeGranules core
    let k := s.coreAt core
    let res1 := g.1 + g.2 * 2 ^ 9 + (s.tilesFree core).length * 2 ^ 18 + k.carve * 2 ^ 24 + boolBit k.fenced * 2 ^ 27
    (b.2.modMech hart fun m => { m with res0 := BitVec.ofNat 64 (slots + b.1), res1 := BitVec.ofNat 64 res1 }).mechDone
      hart 0 0

/-! ## ANSWER (R314, R317) -/

inductive AnswerTo where
  | team (h : Nat)
  | away (pid index : Nat)
deriving DecidableEq, Repr

/-- Whether a saved team's area has a tag PENDING. -/
def State.areaPending (s : State) (pk : Packet) (index tag : Nat) : Bool :=
  match s.vLoad (pk.ctxVa index + 0x400 + 16 * tag) 1 0 with
  | none => true
  | some r => decide (natOf r.2.2 0 1 % 4 = 1)
/-- The team a request's handle names: the one with the tag PENDING, resident under that handle or an earlier one, or saved. A
handle of a team without it names no team that the request came from. -/
def State.answerTo (s : State) (h tag : Nat) : Option AnswerTo :=
  let pend (t : Team) : Bool := decide ((t.tag tag).st = .pending)
  match s.teams.find? fun e => decide (e.1 = h) && pend e.2 with
  | some e => some (.team e.1)
  | none =>
    match s.teams.find? fun e => e.2.olds.contains h && pend e.2 with
    | some e => some (.team e.1)
    | none =>
      s.dist.packets.findSome? fun e => (e.2.teams.find? fun x => match x.2 with
          | .saved y => y.handles.contains h && s.areaPending e.2.pk x.1 tag
          | _ => false).map fun x => AnswerTo.away e.1 x.1

/-- A request's fields: handle, tag, slot offset (R293). -/
def reqHandle (e : Nat) : Nat := e % 2 ^ 15
def reqTag (e : Nat) : Nat := e / 2 ^ 15 % 64
def reqSlot (e : Nat) : Nat := e / 2 ^ 21 % 2 ^ 24
def reqBad (pk : Packet) (e : Nat) : Bool :=
  decide (pk.tags ≤ reqTag e) || decide (reqSlot e % 8 ≠ 0) || decide (pk.granules * 2048 < reqSlot e + 8)

/-- An answer to a resident team: one 8-byte access, then the tag SET with its time. -/
def State.answerTeam (s : State) (h : Nat) (t : Team) (e tide : Nat) (x : DWord) : State × Nat :=
  let r := s.writeHome (t.scratch (reqSlot e)) (leBytes 8 x.toNat) tide
  (r.1.setTag h (reqTag e) { t.tag (reqTag e) with st := .set, time := r.2 }, r.2)
/-- An answer to a saved team: into its save area; the tag's other bits stay. -/
def State.answerArea (s : State) (pk : Packet) (index e tide : Nat) (x : DWord) : State × Nat :=
  let r := s.vStore (pk.ctxVa index + pk.imageOff + reqSlot e) (leBytes 8 x.toNat) tide
  let at' := pk.ctxVa index + 0x400 + 16 * reqTag e
  let old := ((r.1.vLoad at' 8 r.2).map fun x => natOf x.2.2 0 8).getD 0
  r.1.vStore at' (leBytes 8 (old / 4 * 4 + 2) ++ leBytes 8 r.2) r.2

/-- The outcome of an answer: performed, discarded, malformed, or to wait until the team is SAVED. -/
inductive Answered where
  | done (s : State) (tide : Nat)
  | no (result : Nat)
  | wait (who : Nat × Nat)
deriving Repr

def State.answer (s : State) (e tide : Nat) (x : DWord) : Answered :=
  if e / 2 ^ 60 ≠ 3 then .no 8
  else match s.answerTo (reqHandle e) (reqTag e) with
    | none => .no 10
    | some (.away pid i) =>
      match s.packet? pid with
      | none => .no 10
      | some pk =>
        if reqBad pk e then .no 8
        else
          let r := s.answerArea pk i e tide x
          .done r.1 r.2
    | some (.team h) =>
      match s.team? h with
      | none => .no 10
      | some t =>
        match s.packet? t.pid with
        | none => .no 10
        | some pk =>
          if reqBad pk e then .no 8
          else match t.life with
            | .run =>
              let r := s.answerTeam h t e tide x
              .done r.1 r.2
            | .saving _ _ => .wait (t.pid, t.index)
            | _ => .no 10

/-- The work items given out so far include an answered one (R304). -/
def State.noteItem (s : State) (e : Nat) (x : DWord) : State :=
  match (s.team? (reqHandle e)).map Team.pid with
  | some pid => s.modPacket pid fun r => if x.toNat < r.pk.items then { r with itemsNext := max r.itemsNext (x.toNat + 1) } else r
  | none => s

def State.runAnswer (s : State) (hart : Nat) : State :=
  let m := s.mech hart
  match s.answer (m.opd 0) (s.hartTideOf hart) (m.cmd.getD 1 0) with
  | .done s t => ((s.setHartTide hart t).noteItem (m.opd 0) (m.cmd.getD 1 0)).mechDone hart 0 0
  | .no r => s.mechDone hart r 0
  | .wait w => s.mechHold hart (some w)

/-! ## Commands (R300, R301) -/

/-- The cores a command names (R303): a rectangle's, a core, or those of a team's cluster. -/
def State.cmdCores (s : State) (m : Mech) : List Nat :=
  let seat (pk : Option Packet) : List Nat := (pk.map fun pk => rankCores pk (argOrigin (m.opd 1))).getD []
  let ofTeam (h : Nat) : List Nat := ((s.team? h).map fun t => (s.clusterOf t.lead).map fun e => e.2.core).getD []
  match m.op with
  | 1 =>
    let l := s.dist.packets.filter fun e => decide (e.2.pk.addr = m.opd 0) && decide (e.2.pk.queue = m.opd 2 % 4096)
    seat (((l.find? fun e => s.clusterReady e.2 (m.opd 1 % 2 ^ 32)).orElse fun _ => l.getLast?).map fun e => e.2.pk)
  | 2 => ofTeam (m.opd 0 % 2 ^ 15)
  | 3 => seat ((s.teamOfArea (m.opd 0) isSaved).bind fun e => s.packet? e.1)
  | 4 => if m.opd 1 / 2 ^ 63 % 2 = 1 then [] else ofTeam (m.opd 0 % 2 ^ 15)
  | 5 => [m.opd 0 % 512]
  | _ => []
/-- The team a command that names a handle or a save area acts on. -/
def State.cmdWho (s : State) (m : Mech) : Option (Nat × Nat) :=
  match m.op with
  | 2 => m.who.orElse fun _ => (s.team? (m.opd 0 % 2 ^ 15)).map fun t => (t.pid, t.index)
  | 4 => s.abortTarget m
  | _ => m.who
/-- Whether the command of a mechanism block waits until a team is SAVED: an ABORT of a SAVING team (R313). -/
def State.savingAbort (s : State) (m : Mech) : Bool :=
  decide (m.op = 4) && (match m.who with
    | some (pid, i) => s.teams.any fun e => decide (e.2.pid = pid) && decide (e.2.index = i) && (match e.2.life with
      | .saving _ _ => true
      | _ => false)
    | none => false)
/-- The commands not yet performed that arrived at a core before an order number (R303). A command that has been performed as far
as its records, and stays BUSY until its teams are SAVED or ENDED, holds nothing back, nor does an ABORT that waits for SAVED:
a PLACE that comes after them sees the resources still held (R314, notes/assumptions/144). -/
def State.queuedBefore (s : State) (core order : Nat) : Bool :=
  (List.range 8).any fun k =>
    let x := s.mech k
    x.busy && x.held && decide (x.order < order) && x.cores.contains core && !(s.savingAbort x)
/-- Whether a command waits: for an earlier one, or a fence, that names one of its cores, or for a compaction there, or while the
cores are halted (R303, R374, R377). -/
def State.mustWait (s : State) (hart : Nat) : Bool :=
  let m := s.mech hart
  (s.host.tripped && !m.cores.isEmpty) || m.cores.any fun c =>
    s.coreBusy c || s.queuedBefore c m.order || s.dist.fences.any fun f => decide (f.1 = c) && decide (f.2.2 < m.order)

def State.runCmd (s : State) (hart : Nat) : State :=
  if s.mustWait hart then s.mechHold hart (s.cmdWho (s.mech hart))
  else match (s.mech hart).op with
  | 1 => s.runPlace hart
  | 2 => s.runPreempt hart
  | 3 => s.runResume hart
  | 4 => s.runAbort hart
  | 5 => s.runQuery hart
  | 6 => s.runAnswer hart
  | _ => s.mechDone hart 8 0

def insHart (s : State) (h : Nat) : List Nat → List Nat
  | [] => [h]
  | y :: r => if (s.mech h).order < (s.mech y).order then h :: y :: r else y :: insHart s h r
/-- Commands that wait are tried again, in order of arrival (R303, R310, R313); an ANSWER waits for its own event. -/
def State.retryHeld (s : State) : State :=
  (((List.range 8).filter fun h => (s.mech h).held && decide ((s.mech h).op ≠ 6)).foldr (insHart s) []).foldl
    (fun s h => if (s.mech h).held then s.runCmd h else s) s

/-- A write of an op to CMD; none while BUSY, or while the harts do not run. -/
def State.startCmd (s : State) (hart op : Nat) (args : List DWord) : State :=
  if 8 ≤ hart ∨ !(s.hartsOn) ∨ (s.mech hart).busy then s
  else
    let i := s.newId
    let s := i.2.modMech hart fun m =>
      let a := args ++ m.arg.drop args.length
      { m with arg := a, cmd := a, busy := true, op := op, order := i.1 }
    (s.modMech hart fun m => { m with cores := s.cmdCores m }).runCmd hart

/-- PLACE, PREEMPT, RESUME, ABORT, QUERY, ANSWER and the invalid commands (R301). -/
def execPlace (hart : Nat) (a0 a1 a2 : DWord) (s : State) : Host.Outcome State Fault Refusal :=
  .next (s.startCmd hart 1 [a0, a1, a2])
def execPreempt (hart : Nat) (a0 a1 : DWord) (s : State) : Host.Outcome State Fault Refusal :=
  .next (s.startCmd hart 2 [a0, a1])
def execResume (hart : Nat) (a0 a1 : DWord) (s : State) : Host.Outcome State Fault Refusal :=
  .next (s.startCmd hart 3 [a0, a1])
def execAbort (hart : Nat) (a0 a1 : DWord) (s : State) : Host.Outcome State Fault Refusal :=
  .next (s.startCmd hart 4 [a0, a1])
def execQuery (hart : Nat) (a0 : DWord) (s : State) : Host.Outcome State Fault Refusal := .next (s.startCmd hart 5 [a0])
def execAnswer (hart : Nat) (a0 a1 : DWord) (s : State) : Host.Outcome State Fault Refusal :=
  .next (s.startCmd hart 6 [a0, a1])
def execInvalidCommand (hart : Nat) (op : BitVec 4) (s : State) : Host.Outcome State Fault Refusal :=
  .next (s.startCmd hart op.toNat [])

/-- DEFERRED_ANSWER (R314): the team is SAVED, or resident again since, or has ended and the answer is discarded. -/
def State.deferredAnswer (s : State) (hart : Nat) : State :=
  let m := s.mech hart
  match m.held && decide (m.op = 6), m.who with
  | true, some (pid, i) =>
    match sfind s.dist.packets pid with
    | none => s.mechDone hart 10 0
    | some r =>
      match sfind r.teams i with
      | some (.saved _) =>
        let a := s.answerArea r.pk i (m.opd 0) (s.hartTideOf hart) (m.cmd.getD 1 0)
        (a.1.setHartTide hart a.2).mechDone hart 0 0
      | some (.ended _) => s.mechDone hart 10 0
      | some (.resident h) => match s.team? h with
        | some t =>
          if t.life = .run then
            let a := s.answerTeam h t (m.opd 0) (s.hartTideOf hart) (m.cmd.getD 1 0)
            (a.1.setHartTide hart a.2).mechDone hart 0 0
          else s
        | none => s
      | none => s
  | _, _ => s
def execDeferredAnswer (hart : Nat) (s : State) : Host.Outcome State Fault Refusal := .next (s.deferredAnswer hart)

/-! ## Steps of the cores -/

/-- COMPLETION_EVENT_WRITE (R306): the teams of a cluster whose every group has ended, after all their accesses. -/
def State.complete (s : State) (h : Nat) : State :=
  match s.team? h with
  | none => s
  | some t =>
    let ts := s.clusterOf t.lead
    if t.life = .ending ∧ ts.all fun e => s.drained e.1 then
      match s.packet? t.pid with
      | none => s
      | some pk => (ts.foldl (fun s e => s.leave pk e.1 e.2 false) s).retryHeld
    else s
def execCompletionEventWrite (h : Nat) (s : State) : Host.Outcome State Fault Refusal := .next (s.complete h)

/-- ABORT_END (R313). -/
def State.abortEnd (s : State) (h : Nat) : State :=
  match s.team? h with
  | none => s
  | some t =>
    let ts := s.clusterOf t.lead
    match t.life with
    | .aborting _ _ =>
      if ts.all fun e => s.drained e.1 then
        match s.packet? t.pid with
        | none => s
        | some pk => (ts.foldl (fun s e => s.abortTeam pk e.1 e.2) s).retryHeld
      else s
    | _ => s
def execAbortEnd (h : Nat) (s : State) : Host.Outcome State Fault Refusal := .next (s.abortEnd h)

/-- CONTEXT_SAVE (R311): the areas are written, then resources freed and SAVED pushed, in rank order. -/
def State.contextSave (s : State) (h : Nat) : State :=
  match s.team? h with
  | none => s
  | some t =>
    let ts := s.clusterOf t.lead
    match t.life, s.packet? t.pid with
    | .saving _ reason, some pk =>
      if ts.all fun e => s.drained e.1 then
        let s := ts.foldl (fun s e => s.saveTeam pk e.2) s
        (ts.foldl (fun s e =>
          let x := s.keepTeam e.1 e.2 (decide (reason = 13))
          let s := (s.setTeamAt e.2.pid e.2.index (.saved x)).freeTeam e.1
          (s.pushFifo (fifoEntry 7 e.1) (some (e.2.pid, e.2.index))).awaited (e.2.pid, e.2.index)) s).retryHeld
      else s
    | _, _ => s
def execContextSave (h : Nat) (s : State) : Host.Outcome State Fault Refusal := .next (s.contextSave h)

/-- COMPACTION (R302): the core is drained; its record, the moves, and the command retried. -/
def State.compaction (s : State) (core : Nat) : State :=
  match s.dist.compacts.find? fun c => c.core == core with
  | none => s
  | some c =>
    if !((s.coreTeams core).all fun e => s.drained e.1) || !(s.logRoom 1) then s
    else
      let pk := s.packet? c.pid
      let s := s.decide' { kind := 5, reason := 7, queue := (pk.map Packet.queue).getD 0, seq := (pk.map Packet.seq).getD 0,
                           team := c.team, core := core, actor := c.hart.getD 0x80, detail := s.compactDetail core }
      let s := (s.compact core).modDist fun d => { d with compacts := d.compacts.filter fun x => x != c }
      let s := match c.hart with
        | some h => s.modMech h fun m => { m with retried := true }
        | none => s
      s.retryHeld
def execCompaction (core : Nat) (s : State) : Host.Outcome State Fault Refusal := .next (s.compaction core)

end Sys2Proof.Machine
end

