-- ==== Sys2Proof/Machine/Policy.lean ====
section
/-!
DEFINITION. The distributor (R287 to R298, R304, R310): its control block, the microcode image, the event FIFO, launch packets,
and the fallback placer with the default policy.
-/
namespace Sys2Proof.Machine

/-! ## Control (R289, R290, R292) -/

/-- FALLBACK becomes 1; vector 2 (R355). -/
def State.setFallback (s : State) : State :=
  if s.dist.fallback then s else (s.modDist fun d => { d with fallback := true }).raiseVector 2

/-- The harts start on the image loaded last, at address 0 with their numbers in a0 (R290); without a LOAD since, they go on. -/
def State.startHarts (s : State) : State :=
  if s.hartsOn && s.dist.loaded then
    s.modDist fun d => { d with
      loaded := false
      harts := (List.range 8).map fun h => (h, { run := true, x := if h = 0 then [] else [(10, BitVec.ofNat 64 h)] }) }
  else s
/-- A write of RUN and QUIESCE; RUN = 1 is ignored while no image has passed its check. -/
def State.setRun (s : State) (run quiesce : Bool) : State :=
  (s.modDist fun d =>
    let r := if run then d.run || d.imageOk else false
    { d with run := r, quiesce := quiesce, quiesced := if r && !quiesce then false else d.quiesced }).startHarts
/-- DIST_RUN and DIST_QUIESCE. -/
def execDistRun (s : State) : Host.Outcome State Fault Refusal := .next (s.unlessLow (s.setRun true false))
def execDistQuiesce (s : State) : Host.Outcome State Fault Refusal := .next (s.unlessLow (s.setRun s.dist.run true))

/-- Whether the harts have been asked to stop, and their commands have finished. -/
def State.mayQuiesce (s : State) : Bool :=
  (s.dist.quiesce || !s.dist.run) && !s.dist.quiesced && !s.host.lowWater && !((List.range 8).any fun h => (s.mech h).busy)
/-- QUIESCENCE_REACHED (R290). -/
def execQuiescenceReached (s : State) : Host.Outcome State Fault Refusal :=
  if s.mayQuiesce then .next ((s.modDist fun d => { d with quiesced := true }).setFallback) else .next s

/-- CRC-32 of IEEE 802.3 (R290). -/
def crcBit (c : BitVec 32) : BitVec 32 := if c.getLsbD 0 then (c >>> 1) ^^^ 0xEDB88320 else c >>> 1
def crcByte (c : BitVec 32) (b : Byte) : BitVec 32 :=
  (List.range 8).foldl (fun c _ => crcBit c) (c ^^^ b.setWidth 32)
def crc32 (bs : List Byte) : BitVec 32 := ~~~(bs.foldl crcByte 0xFFFFFFFF)

/-- The check of an image at a place (R290): the bytes that follow its header, if it passes. Its reserved bytes are read as zero
(R11). -/
def State.image? (s : State) (a : Nat) : Option (List Byte) :=
  let size := s.hwSees (a + 4) 4
  if s.hwSees a 4 = 0x4C4E4C53 ∧ size ≤ 524272 ∧ a % 4096 = 0 ∧ s.ownPackage a then
    let bs := (s.readSpan (a + 16) size 0).2.2
    if crc32 bs = BitVec.ofNat 32 (s.hwSees (a + 8) 4) then some bs else none
  else none

/-- A FALLBACK record (R307): QUEUE 0, SEQ 0 and TEAM 0xFFFF_FFFF are the model's choice (notes/assumptions/138). -/
def fallbackRecord (reason actor : Nat) : Decision :=
  { kind := 6, reason := reason, queue := 0, seq := 0, team := 2 ^ 32 - 1, actor := actor }
/-- The RELOAD record of a failed check; it waits while the log is full (R290, R310). -/
def State.reloadRecord (s : State) : State :=
  if s.logFull then s.modDist fun d => { d with owed := d.owed + 1 }
  else s.decide' (fallbackRecord 15 (if s.dist.fallback then 0x80 else 0))
def State.payOwed (s : State) : Nat → State
  | 0 => s
  | n + 1 =>
    if s.dist.owed = 0 ∨ s.logFull then s
    else ((s.decide' (fallbackRecord 15 (if s.dist.fallback then 0x80 else 0))).modDist fun d =>
      { d with owed := d.owed - 1 }).payOwed n

/-- LOAD (R290): an image that passes is copied into SRAM. -/
def State.distLoad (s : State) : State :=
  match s.image? s.dist.ucode.toNat with
  | some bs => (s.modDist fun d => { d with
      imageOk := true, loaded := true, watchdog := false,
      sram := sputs 0 d.sram (bs.zipIdx.map fun e => (e.2, e.1)) }).startHarts
  | none => s.reloadRecord
def execDistLoad (s : State) : Host.Outcome State Fault Refusal := .next (s.unlessLow s.distLoad)

/-- DIST_HOSTREQ (R293). -/
def State.hostreq (s : State) (v : DWord) : State := s.pushFifo (fifoEntry 6 (v.toNat % 2 ^ 60))
def execDistHostreq (v : DWord) (s : State) : Host.Outcome State Fault Refusal := .next (s.unlessLow (s.hostreq v))

/-- DIST_LOGRD (R310): waiting commands go on. -/
def State.setLogrd (s : State) (v : DWord) : State :=
  let s := s.modDist fun d => { d with logRd := v }
  (s.payOwed s.dist.owed).retryHeld
def execDistLogrd (v : DWord) (s : State) : Host.Outcome State Fault Refusal := .next (s.unlessLow (s.setLogrd v))

/-! ## The event FIFO (R291 to R294) -/

/-- Kept entries enter the FIFO as space frees. -/
def fifoShift : Nat → List FifoEnt → List FifoEnt → List FifoEnt × List FifoEnt
  | 0, f, h => (f, h)
  | n + 1, f, h =>
    match h with
    | [] => (f, [])
    | e :: r => if f.length < 256 then fifoShift n (f ++ [e]) r else (f, h)
/-- The oldest entry leaves; a kept entry that is pushed in its stead ends the wait of a command for it (R293, R301). -/
def State.dropFifo (s : State) : State :=
  let x := fifoShift s.dist.held.length s.dist.fifo.tail s.dist.held
  let pushed := (s.dist.held.take (s.dist.held.length - x.2.length)).filterMap FifoEnt.who
  let s := s.modDist fun d => { d with fifo := x.1, held := x.2 }
  if pushed.isEmpty then s else (pushed.foldl State.awaited s).retryHeld

def FifoEnt.type (e : FifoEnt) : Nat := e.e.toNat / 2 ^ 60

/-- What the queue's counters say of a popped entry (R294). -/
def State.countPop (s : State) (e : FifoEnt) : State :=
  match e.who with
  | none => s
  | some (pid, _) =>
    match sfind s.dist.packets pid with
    | none => s
    | some r =>
      if e.type = 2 then
        let s := s.qcbAdd r.pk.queue 96 1
        let all' := decide (r.teams.length = r.pk.teams) && r.teams.all fun x => match x.2 with
          | .ended _ => true
          | _ => false
        if all' && !r.counted then (s.qcbAdd r.pk.queue 104 1).modPacket pid fun r => { r with counted := true } else s
      else if e.type = 4 then s.qcbAdd r.pk.queue 112 1
      else s

/-- Hart 0's first pop ends the fallback placer's service; its private list goes back to the head (R290, R291). -/
def State.endFallback (s : State) : State :=
  s.modDist fun d => { d with fallback := false, fifo := d.aside ++ d.fifo, aside := [] }

/-- FIFO_POP (R293): the entry, or 0. -/
def State.fifoPop (s : State) (hart : Nat) : State :=
  let s := if hart = 0 ∧ s.dist.fallback then s.endFallback else s
  match s.dist.fifo with
  | [] => s.modHost fun h => { h with hartOut := leBytes 8 0, hartFault := false }
  | e :: _ =>
    (s.dropFifo.countPop e).modHost fun h => { h with hartOut := leBytes 8 e.e.toNat, hartFault := false }
def execFifoPop (hart : Nat) (s : State) : Host.Outcome State Fault Refusal :=
  if s.hartsOn && decide (hart < 8) then .next (s.fifoPop hart) else .next s

/-- FIFO_WATCHDOG (R292): the harts are halted and the fallback placer serves. -/
def execFifoWatchdog (s : State) : Host.Outcome State Fault Refusal :=
  if s.hartsOn && !s.dist.fifo.isEmpty && !s.logFull then
    .next ((s.modDist fun d => { d with watchdog := true }).setFallback.decide' (fallbackRecord 12 0x80))
  else .next s

/-! ## Launch packets (R295, R296, R298) -/

def roundPow2 (n : Nat) : Nat := ([8, 16, 32, 64, 128, 256].find? fun k => decide (n ≤ k)).getD 256

/-- A packet's fields (R296). -/
def parsePacket (q addr : Nat) (bs : List Byte) : Packet :=
  let ndep := natOf bs 36 4 / 16 % 8
  { queue := q, addr := addr, entry := dwordOf bs 0, grid := (natOf bs 8 4, natOf bs 12 2, natOf bs 14 2),
    groups := natOf bs 16 1, clw := natOf bs 17 1, clh := natOf bs 18 1, carve := natOf bs 19 1,
    regs := roundPow2 (natOf bs 20 2), acc := roundUp (natOf bs 22 1) 8, tags := natOf bs 23 1, scratch := natOf bs 24 4,
    poolEnt := natOf bs 28 2, poolFb := natOf bs 30 1, poolN := natOf bs 31 1, spillEnt := natOf bs 32 4,
    pxen := natOf bs 36 4 % 2 == 1, seq := wordOf bs 40, items := natOf bs 44 4, args := dwordOf bs 48,
    ctxSave := dwordOf bs 56, events := dwordOf bs 64, arena := dwordOf bs 72, psBase := dwordOf bs 80,
    psSize := natOf bs 88 4, kwin := (List.range 8).map fun n => dwordOf bs (96 + 8 * n),
    deps := (List.range ndep).map fun e =>
      (natOf bs (204 + 16 * e) 4 / 2 ^ 31 == 1, natOf bs (204 + 16 * e) 4 % 2 ^ 31, wordOf bs (200 + 16 * e),
        dwordOf bs (192 + 16 * e)) }

/-- ENTRY lies on an X page (R296). -/
def State.onXPage (s : State) (va : Nat) : Bool :=
  match (s.walk 4 0 va).2.2.1 with
  | .leaf t => t.x && !([0xFFFC, 0xFFFD, 0xFFFE].contains (va / 2 ^ 48))
  | .fault _ _ _ => false

/-- R13 and R14. -/
def gridBad (p : Packet) : Bool :=
  let (x, y, z) := p.grid
  decide (x < 1) || decide (y < 1) || decide (z < 1) || decide (2 ^ 32 ≤ x * y * z) || decide (p.clw < 1) || decide (12 < p.clw) ||
    decide (p.clh < 1) || decide (8 < p.clh) || decide (12 < p.cluster) || decide (p.teams % p.cluster ≠ 0)
/-- Pool fields, checked when the packet has a pool (R298). -/
def poolBad (p : Packet) : Bool :=
  decide (p.poolEnt % 2 ≠ 0) || decide (4096 < p.poolEnt) || decide (p.poolN < 4) || decide (16 < p.poolN) ||
    decide (p.poolFb % 4 ≠ 0) || decide (p.regs < p.poolFb + p.poolN) || decide (2 ^ 20 < p.spillEnt) ||
    decide (p.arena.toNat % 128 ≠ 0)
/-- The remaining limits of R296 and R297, on the packet's bytes. -/
def fieldsBad (p : Packet) (bs : List Byte) : Bool :=
  decide (p.entry.toNat % 8 ≠ 0) || decide (p.groups < 1) || decide (32 < p.groups) || decide (4 < p.carve) ||
    decide (natOf bs 20 2 < 8) || decide (256 < natOf bs 20 2) || decide (64 < natOf bs 22 1) || decide (64 < p.tags) ||
    decide (natOf bs 36 4 / 2 % 8 ≠ 0) || decide (2 ^ 7 ≤ natOf bs 36 4) || decide (4 < natOf bs 36 4 / 16) ||
    decide (p.ctxSave.toNat % 4096 ≠ 0) || decide (p.events.toNat % 16 ≠ 0) || decide (p.psBase.toNat % 65536 ≠ 0) ||
    decide (p.psSize % 65536 ≠ 0) || decide (p.psSize < 65536) || !(zeroBytes bs 92 4) || !(zeroBytes bs 160 32) ||
    p.deps.any (fun d => decide (d.2.1 < 1) || decide (d.2.2.2.toNat % 16 ≠ 0)) || decide (carveBytes p.carve < p.share)

/-- The reason that refuses a packet, if any (R298). -/
def State.packetReason (s : State) (p : Packet) (bs : List Byte) : Option Nat :=
  if gridBad p || fieldsBad p bs || (decide (p.poolEnt ≠ 0) && poolBad p) || !(s.onXPage p.entry.toNat) then some 8
  else if 12 < (p.groups + 3) / 4 ∨ 1024 < (p.groups + 3) / 4 * p.regs then some 9
  else none

/-- The QCB's own limits (R295). -/
def State.qcbBad (s : State) (q : Nat) : Bool :=
  let a := s.qcb q
  let cap := s.hwSees (a + 20) 4
  let base := s.hwSees (a + 8) 8
  decide (cap = 0) || decide (65536 < cap) || decide (cap &&& (cap - 1) ≠ 0) || decide (base % 256 ≠ 0) ||
    !(s.ownPackage base) || decide (2 ^ 52 ≤ base) || decide (15 < s.hwSees (a + 4) 4) ||
    decide (cap < (s.hwSees (a + 32) 8 + 2 ^ 64 - s.hwSees (a + 24) 8) % 2 ^ 64)
def State.queueError (s : State) (q : Nat) : State := s.hwWrite (s.qcb q) (leBytes 4 3)
/-- ACTIVE or PAUSED. -/
def State.queueRead (s : State) (q : Nat) : Bool :=
  s.queueOpen q && (decide (s.hwSees (s.qcb q) 4 = 1) || decide (s.hwSees (s.qcb q) 4 = 2))

/-- A refused packet (R298): its record, the queue's STATE and counter, and its teams' ABORTED events. -/
def State.refusePacket (s : State) (p : Packet) (reason : Nat) : State :=
  let f := s.fresh
  let actor := if s.dist.fallback then 0x80 else (Config.openWord f.1).toNat % 8
  let s := f.2.decide' { kind := 1, reason := reason, queue := p.queue, seq := p.seq, team := 2 ^ 32 - 1, actor := actor,
                         detail := p.addr }
  let s := (s.queueError p.queue).qcbAdd p.queue 72 1
  if p.events = 0 then s else (List.range p.teams).foldl (fun s i => s.writeEvent p i 0 4 0) s

/-- Whether a queue has an unread packet. -/
def State.unread (s : State) (q : Nat) : Bool := s.hwSees (s.qcb q + 24) 8 != s.hwSees (s.qcb q + 32) 8

/-- One packet read, checked, and accepted or refused (R295, R298). -/
def State.readPacket (s : State) (q : Nat) : State :=
  if !(s.queueRead q) then s
  else if s.qcbBad q then s.queueError q
  else if !(s.unread q) || s.logFull then s
  else
    let rd := s.hwSees (s.qcb q + 24) 8
    let addr := s.hwSees (s.qcb q + 8) 8 + 256 * (rd % s.hwSees (s.qcb q + 20) 4)
    let clock := s.distClock
    let s := s.hwWrite (s.qcb q + 40) (leBytes 8 clock)
    let r := s.readSpan addr 256 0
    let s := r.1.hwWrite (s.qcb q + 24) (leBytes 8 ((rd + 1) % 2 ^ 64))
    let p := parsePacket q addr r.2.2
    match s.packetReason p r.2.2 with
    | some k => s.refusePacket p k
    | none => s.modDist fun d => { d with
        packets := sins d.packets d.nextPid { pk := p, arrival := clock, tide := s.launchTide }, nextPid := d.nextPid + 1 }
/-- PACKET_READ (R298). -/
def execPacketRead (q : Nat) (s : State) : Host.Outcome State Fault Refusal := .next (s.unlessLow (s.readPacket q))

/-- Every unread packet of a queue. -/
def State.readAll (s : State) (q : Nat) : Nat → State
  | 0 => s
  | n + 1 => if s.queueRead q && s.unread q && !s.logFull then (s.readPacket q).readAll q n else s
def State.readQueue (s : State) (q : Nat) : State := (s.readPacket q).readAll q 65536

/-! ## The fallback placer (R291, R304) -/

/-- The first READY cluster of a packet, in ascending order. -/
def State.firstReady (s : State) (r : PacketRec) : Nat → Nat → Option Nat
  | 0, _ => none
  | n + 1, k => if s.clusterReady r (k * r.pk.cluster) then some (k * r.pk.cluster) else s.firstReady r n (k + 1)
/-- The first SAVED cluster that may be resumed (R304 step 2). -/
def State.firstSaved (s : State) (r : PacketRec) : Option Nat :=
  (r.teams.find? fun e => decide (e.1 % r.pk.cluster = 0) && (match e.2 with
    | .saved x => !x.host
    | _ => false) && s.areasOk r e.1).map Prod.fst

/-- A cluster to place or resume. -/
structure Cand where
  pid : Nat
  r : PacketRec
  first : Nat
  saved : Bool
deriving Repr

def State.queueCand (s : State) (q : Nat) : Option Cand :=
  let l := s.dist.packets.filter fun e => decide (e.2.pk.queue = q)
  match l.findSome? fun e => (s.firstSaved e.2).map fun i => Cand.mk e.1 e.2 i true with
  | some c => some c
  | none => l.findSome? fun e =>
      (s.firstReady e.2 (e.2.pk.teams / e.2.pk.cluster) 0).map fun i => Cand.mk e.1 e.2 i false

/-- ACTIVE queues' candidates by PRIORITY, then by arrival (R304 step 1). -/
def State.candKey (s : State) (c : Cand) : Nat × Nat × Nat := (15 - s.hwSees (s.qcb c.r.pk.queue + 4) 4, c.r.arrival, c.r.pk.queue)
def keyLt (a b : Nat × Nat × Nat) : Bool :=
  decide (a.1 < b.1) || (decide (a.1 = b.1) && (decide (a.2.1 < b.2.1) || (decide (a.2.1 = b.2.1) && decide (a.2.2 < b.2.2))))
def State.insCand (s : State) (c : Cand) : List Cand → List Cand
  | [] => [c]
  | y :: r => if keyLt (s.candKey c) (s.candKey y) then c :: y :: r else y :: s.insCand c r
def State.cands (s : State) : List Cand :=
  let qs := (s.dist.packets.map fun e => e.2.pk.queue).eraseDups.filter fun q => s.queueActive q
  (qs.filterMap s.queueCand).foldr s.insCand []

/-- Cores in order: the die, the resident groups of the rectangle, the origin (R304 step 3). -/
def State.coreKey (s : State) (pk : Packet) (c : Nat) : Nat × Nat × Nat :=
  (coreDie c, ((rankCores pk c).map s.groupsOn).sum, c)
def State.insCore (s : State) (pk : Packet) (c : Nat) : List Nat → List Nat
  | [] => [c]
  | y :: r => if keyLt (s.coreKey pk c) (s.coreKey pk y) then c :: y :: r else y :: s.insCore pk c r
def allCores : List Nat := (List.range 512).filter fun c => decide (coreIn c < 96)
/-- The scheduler with the fewest resident groups, lowest first (R304 step 4). -/
def State.bestBase (s : State) (core : Nat) : Nat :=
  (List.range 4).foldl (fun b i => if s.slotsOn core i < s.slotsOn core b then i else b) 0

/-- How a cluster fits at an origin: at once, or after a compaction of some cores. -/
inductive FitAt where
  | now (base : Nat) (rooms : List Room)
  | after (cores : List Nat)
deriving Repr

def State.fitAt (s : State) (pk : Packet) (origin : Nat) : Option FitAt :=
  let base := s.bestBase origin
  if !(shapeOk pk origin) || (rankCores pk origin).any s.coreBusy then none
  else match s.rooms pk origin base with
    | .ok l => some (.now base l)
    | .no _ => none
    | .frag _ cores => match (cores.foldl State.compact s).rooms pk origin base with
      | .ok _ => some (.after cores)
      | _ => none

/-- Where the next cluster goes: the core of a team that has ended is offered first (R304 step 5). An offer made while no team waits
is kept, and goes first to a team of a later packet (notes/assumptions/139). -/
def State.firstFit (s : State) (pk : Packet) : Option FitAt :=
  (s.dist.offered.take 1 ++ allCores.foldr (s.insCore pk) []).findSome? (s.fitAt pk)

/-- A candidate placed or resumed by the fallback placer; its teams take the offers of as many teams that have ended. -/
def State.placeCand (s : State) (c : Cand) : FitAt → State
  | .after cores => s.modDist fun d => { d with compacts := d.compacts ++ cores.map fun k => ⟨k, none, c.pid, c.first⟩ }
  | .now base rooms =>
    match s.freeHandles c.r.pk.cluster with
    | none => s
    | some lead =>
      let s := s.modDist fun d => { d with offered := d.offered.drop c.r.pk.cluster }
      if c.saved then s.resumeIn c.r c.pid c.first base 0x80 lead rooms
      else s.placeIn c.r.pk c.pid c.first base 0x80 lead rooms

/-- The next placement (R304): none while a compaction of its own is to come. -/
def State.placeNext (s : State) : Option State :=
  if s.dist.compacts.any fun c => c.hart.isNone then none
  else s.cands.findSome? fun c =>
    if s.logRoom c.r.pk.cluster then (s.firstFit c.r.pk).map (s.placeCand c) else none

/-- A cluster whose predecessor's event is ABORTED (R297). -/
def State.doomed (s : State) (r : PacketRec) : Nat → Nat → Option Nat
  | 0, _ => none
  | n + 1, k =>
    let first := k * r.pk.cluster
    if r.waiting first && (List.range r.pk.cluster).any (fun j => decide (s.depsSay r.pk (first + j) = .f)) then some first
    else s.doomed r n (k + 1)
def State.abortNext (s : State) : Option State :=
  s.dist.packets.findSome? fun e =>
    if e.2.pk.deps.isEmpty || !(s.logRoom e.2.pk.cluster) then none
    else (s.doomed e.2 (e.2.pk.teams / e.2.pk.cluster) 0).map fun i => s.abortCluster e.2 e.1 i 10 0x80

/-- The next item of a packet, or the end-of-work token (R304 step 7, R317). -/
def PacketRec.nextItem (r : PacketRec) : DWord :=
  if r.itemsNext < r.pk.items then BitVec.ofNat 64 r.itemsNext else 0xFFFFFFFFFFFFFFFF
/-- A work-item request answered; none while its team is SAVING. -/
def State.serveRequest (s : State) (e : FifoEnt) : Option State :=
  match e.who with
  | none => some s
  | some (pid, i) =>
    match sfind s.dist.packets pid with
    | none => some s
    | some r =>
      let req := e.e.toNat
      let given (s : State) : State := s.modPacket pid fun r => { r with itemsNext := r.itemsNext + 1 }
      match sfind r.teams i with
      | some (.saved _) => some (given (s.answerArea r.pk i req 0 r.nextItem).1)
      | some (.resident h) =>
        match s.team? h with
        | none => some s
        | some t => match t.life with
          | .saving _ _ => none
          | .run => some (given (s.answerTeam h t req 0 r.nextItem).1)
          | _ => some (given s)
      | _ => some (given s)

/-- One FIFO entry served under the default policy. -/
def State.serve (s : State) (e : FifoEnt) : Option State :=
  match e.type with
  | 1 =>
    let q := e.e.toNat % 4096
    let x := s.readQueue q
    some (if x.queueRead q && x.unread q then x else x.dropFifo)
  | 2 => some ((s.dropFifo.countPop e).modDist fun d => { d with offered := d.offered ++ e.core.toList })
  | 3 => (s.serveRequest e).map State.dropFifo
  | 6 => some (s.dropFifo.modDist fun d => { d with aside := d.aside ++ [e] })
  | _ => some (s.dropFifo.countPop e)

/-- What the fallback placer does next, if anything: it waits while the log is full (R310), in low-water mode, and while the cores
are halted (R373, R374). -/
def State.fallbackNext (s : State) : Option State :=
  if !s.dist.fallback || s.logFull || s.host.lowWater || s.host.tripped then none
  else
    let idle : Option State := if s.dist.nq = 0 ∨ s.dist.logCap = 0 then none else
      match s.abortNext with
      | some x => some x
      | none => s.placeNext
    match s.dist.fifo with
    | [] => idle
    | e :: _ => match s.serve e with
      | some x => some x
      | none => idle
/-- FALLBACK_PLACEMENT (R291). -/
def execFallbackPlacement (s : State) : Host.Outcome State Fault Refusal := .next (s.fallbackNext.getD s)

/-! ## The reference microcode's pre-emptions (R304 step 6) -/

/-- The handle of rank 0 of each resident cluster that a test picks, in ascending order. -/
def State.leadsOf (s : State) (f : Team → Bool) : List Nat :=
  (s.teams.filter fun e => e.1 == e.2.lead && (s.clusterOf e.1).any fun x => f x.2).map Prod.fst
/-- The packets a HOSTREQ names by queue and SEQ. -/
def State.namedPackets (s : State) (v : Nat) : List (Nat × PacketRec) :=
  s.dist.packets.filter fun e => decide (e.2.pk.queue = v / 16 % 4096) && decide (e.2.pk.seq.toNat = v / 2 ^ 16 % 2 ^ 32)
/-- The teams of a packet without a residence that have not ended, by their save areas: the lead of each cluster. -/
def PacketRec.awayAreas (r : PacketRec) : List Nat :=
  ((List.range (r.pk.teams / r.pk.cluster)).map fun k => k * r.pk.cluster).filterMap fun i => match sfind r.teams i with
    | some (.resident _) => none
    | some (.ended _) => none
    | _ => some (r.pk.ctxVa i)

/-- The commands the reference microcode issues on a HOSTREQ or FENCED entry, as ops of R301 with ARG0 and ARG1. -/
def State.policyCmds (s : State) (e : DWord) : List (Nat × DWord × DWord) :=
  let v := e.toNat % 2 ^ 60
  let cmd (op a b : Nat) : Nat × DWord × DWord := (op, BitVec.ofNat 64 a, BitVec.ofNat 64 b)
  let pids := (s.namedPackets v).map Prod.fst
  let leads := s.leadsOf fun t => pids.contains t.pid
  if e.toNat / 2 ^ 60 = 6 ∧ v % 16 = 1 then leads.map fun h => cmd 2 h 13
  else if e.toNat / 2 ^ 60 = 6 ∧ v % 16 = 3 then
    (leads.map fun h => cmd 4 h 0) ++ ((s.namedPackets v).flatMap fun e => e.2.awayAreas.map fun a => cmd 4 a (2 ^ 63))
  else if e.toNat / 2 ^ 60 = 8 then (s.leadsOf fun t => decide (t.core = v % 512)).map fun h => cmd 2 h 14
  else []
/-- A HOSTREQ of op 2 releases the saved teams of its packet that wait for it (R304 steps 2 and 6). -/
def State.policyRelease (s : State) (e : DWord) : State :=
  if e.toNat / 2 ^ 60 = 6 ∧ e.toNat % 16 = 2 then
    (s.namedPackets (e.toNat % 2 ^ 60)).foldl (fun s p => s.modPacket p.1 fun r => { r with
      teams := r.teams.map fun t => (t.1, match t.2 with
        | .saved x => .saved { x with host := false }
        | x => x) }) s
  else s

end Sys2Proof.Machine
end

