-- ==== Sys2Proof/Machine/Front.lean ====
section
/-!
DEFINITION. Fetch, results, traps and the divergence stack between runs (R38, R75, R88, R324, R26).
-/
namespace Sys2Proof.Machine

/-! ## Fetch (R38, R75) -/

/-- The translation of a code address for a group's fetch: the core's TLB, or what a walk made for it found (R335). -/
def State.fetchTr (s : State) (c : Ctx) (va : Nat) : Tr :=
  match c.g.walkFaults.find? fun f => decide (f.page = va / 2 ^ 16) && f.fetch with
  | some f => .fault f.cause f.detail f.pte
  | none =>
    match (s.coreAt c.t.core).tlb.find? fun t => t.covers va with
    | some t => .hit t
    | none => .miss

/-- One word fetched, or its fault: misaligned or outside the translated window, untranslated, or not executable; none while
its walk is to be made. A word that a store has changed is read as memory stands at the fetch (R75; DESIGN CHOICE,
notes/assumptions/104). -/
def State.fetchWord (s : State) (c : Ctx) (va : Nat) : Option Fetched :=
  let ap := va / 2 ^ 48
  if va % 8 ≠ 0 then some (.bad .accessViolation 1 0)
  else if ap = 0xFFFC ∨ ap = 0xFFFD ∨ ap = 0xFFFE then some (.bad .accessViolation 0 0)
  else match s.fetchTr c va with
    | .miss => none
    | .fault k d pte => some (.bad k d pte)
    | .lost => none
    | .hit t =>
      if t.sup && !c.g.hmode then some (.bad .accessViolation 3 0)
      else if !t.x then some (.bad .accessViolation 2 0)
      else some (.word (s.dwordAt (s.fwd (t.pa va))))

/-- Up to n words from an address, to the first with B set or the first fault; or the address whose walk must come first. -/
def State.fetchRun (s : State) (c : Ctx) : Nat → Nat → Except Nat (List Fetched)
  | 0, _ => .ok []
  | n + 1, va =>
    match s.fetchWord c va with
    | none => .error va
    | some (.bad k d p) => .ok [.bad k d p]
    | some (.word w) =>
      if w.getLsbD 63 then .ok [.word w]
      else match s.fetchRun c n ((va + 8) % 2 ^ 64) with
        | .ok l => .ok (.word w :: l)
        | .error e => .error e

/-- INSTRUCTION_FETCH (R38): the words of a group's next run arrive; a walk they need comes first, and waits for the group's
earlier accesses (R335). -/
def execInstructionFetch (gid : Nat) (s : State) : Host.Outcome State Fault Refusal :=
  match s.ctx? gid with
  | none => .next s
  | some c =>
    if c.g.ibuf.isSome ∨ s.runs.contains gid then .next s
    else match s.fetchRun c 24 c.g.pc.toNat with
      | .ok l => .next (s.modGroup gid fun g => { g with ibuf := some l, walkFaults := g.walkFaults.filter fun f => !f.fetch })
      | .error va => if c.g.memBusy then .next s else .next (s.missWalk gid c.t.core va true)

/-- The trap of a word whose fetch faulted (R75, R102). -/
def fetchTrap (g : Group) (k : Cause) (d : BitVec 4) (pte : DWord) : TrapInfo :=
  let m := trapMask (trapOf k) g
  { cause := k, detail := d, access := 3, lanes := some m, addr := (lanesOf m).map fun l => (l, g.pc),
    pte := (lanesOf m).map fun l => (l, pte) }

/-! ## Results and traps -/

/-- RESULT_WRITE (R88): a result whose replies have all arrived is written. -/
def execResultWrite (gid i : Nat) (s : State) : Host.Outcome State Fault Refusal :=
  match s.group? gid with
  | none => .next s
  | some g =>
    match g.pends[i]? with
    | none => .next s
    | some p => if p.done ∨ p.outstanding ≠ 0 then .next s else .next (s.setGroup gid (g.writeResult p.id))

/-- Whether a group waits inside an instruction that has performed; it has no arbitration point until the wait ends. -/
def Group.inWait (g : Group) : Bool :=
  match g.stall with
  | some (.barrier _) => true
  | some (.clusterBarrier _) => true
  | some .divRefill => true
  | some .tlbi => true
  | _ => false

/-- TRAP_ENTRY (R324): between runs a team that a double trap or HALT ends is ended once the log has room (R310), else a trap that waited for pending registers is entered, else a waiting Machine Check (R328);
otherwise the trap given is taken. -/
def execTrapEntry (gid : Nat) (t : TrapInfo) (s : State) : Host.Outcome State Fault Refusal :=
  match s.group? gid with
  | none => .next s
  | some g =>
    if g.ended then .next s
    else if s.runs.contains gid then .next (s.takeTrap gid t)
    else match g.doom, g.trapped, g.dueMcs with
      | some r, _, _ => .next (if s.abortRoom g.team then (s.setGroup gid { g with doom := none }).selfAbort g.team r.1 r.2 else s)
      | none, some x, _ => if g.pending then .next s else .next (s.takeTrap gid x)
      | none, none, (x, info, addr) :: _ =>
        if g.pending || g.inWait then .next s
        else .next ((s.setGroup gid { g with mcs := g.mcs.erase (x, info, addr), mcinfo := info, mcaddr := addr }).takeTrap gid x)
      | none, none, [] => .next (s.takeTrap gid t)

/-! ## The divergence stack (R26) -/

/-- DIVERGENCE_SPILL (R26). -/
def execDivergenceSpill (gid : Nat) (s : State) : Host.Outcome State Fault Refusal := .next (s.divSpill gid)
/-- DIVERGENCE_REFILL (R26). -/
def execDivergenceRefill (gid : Nat) (s : State) : Host.Outcome State Fault Refusal := .next (s.divRefill gid)

end Sys2Proof.Machine
end

