-- ==== Sys2Proof/Machine/Sched.lean ====
section
/-!
DEFINITION. Run arbitration (R36 to R38): when a stall clears, which groups are eligible, and the grant of a scheduler.
-/
namespace Sys2Proof.Machine

/-- Whether a group is stopped from outside: a save, an abort, a compaction or a debug stop (R366, code 15). -/
def State.held (s : State) (t : Team) : Bool := decide (t.life ≠ .run) || t.stopped.isSome || s.coreBusy t.core

/-- Whether a queue lets a waiting instruction go on (R33). -/
def queueReady (q : Queue) (pop : Bool) : Bool := decide (q.kind = 0) || (if pop then !q.empty else !q.full)

/-- Whether a stall has cleared (R36). A stall that only an event clears is removed by that event. -/
def State.stallOver (s : State) (c : Ctx) : Stall → Bool
  | .lookahead => c.g.pends.all fun p => p.done || decide (2 ≤ p.left) || p.past
  | .drain => !c.g.pending
  | .writewait => !c.g.pending && c.g.unread.isEmpty
  | .queue q pop => queueReady (c.t.queue q) pop
  | .constant => true
  | .divSpill => false
  | .divRefill => false
  | .barrier _ => false
  | .clusterBarrier _ => false
  | .barrierRepeat id ph cluster => decide ((s.barrier c.t cluster id).ph ≠ ph)
  | .barrierValue id a => !(barwWaits (s.barrier c.t false id).ph a)
  | .monitor => false
  | .tagWait mask all => (xwaitDone c mask all).isSome
  | .tagIssue n => decide ((c.t.tag n).st ≠ .pending)
  | .rangelock need reads => s.mayLock need reads
  | .engine => !(s.engineFull c.t.core)
  | .translate => !(s.walks.any fun w => w.groups.contains c.gid)
  | .tlbi => false
  | .memorder _ => !c.g.memBusy
  | .pool => false
  | .poolRefill _ => false
  | .distrib => s.fifoRoom

/-- Whether nothing holds a group back (R36). -/
def State.unstalled (s : State) (c : Ctx) : Bool :=
  match c.g.stall with
  | none => true
  | some w => s.stallOver c w

/-- Whether a resident group is eligible (R38). -/
def State.eligible (s : State) (gid : Nat) : Bool :=
  match s.ctx? gid with
  | none => false
  | some c =>
    !c.g.ended && c.g.doom.isNone && s.unstalled c && c.g.ibuf.isSome && c.g.trapped.isNone && c.g.dueMcs.isEmpty && !(s.held c.t) &&
      !(s.runs.contains gid)

/-- The groups of a scheduler in age order. -/
def State.ageOf (s : State) (core sched : Nat) : List Nat := (s.coreAt core).age.getD sched []
/-- Whether a group of a scheduler is in a run (R37). -/
def State.schedBusy (s : State) (core sched : Nat) : Bool := s.runs.any fun g => g / 12 == 4 * core + sched
/-- The group a scheduler grants its slot to: the first eligible one in age order, while no run is under
way; none in a module whose cores do not run (R37, R38, R373, R374). -/
def State.nextGrant (s : State) (core sched : Nat) : Option Nat :=
  if s.schedBusy core sched || (s.coreAt core).asleep.isSome || s.host.lowWater || s.host.tripped then none
  else (s.ageOf core sched).find? s.eligible

/-- The grant: the group moves to the back of the age order, and its run begins (R38). -/
def State.grantRun (s : State) (core sched gid : Nat) : State :=
  ((({ s with runs := s.runs ++ [gid] } : State).modCore core fun k => { k with
    age := k.age.set sched (((k.age.getD sched []).filter fun x => x != gid) ++ [gid]) }).modGroup gid fun g =>
      { g with stall := none })

/-- RUN_ARBITRATION (R36 to R38). -/
def execRunArbitration (core sched : Nat) (s : State) : Host.Outcome State Fault Refusal :=
  match s.nextGrant core sched with
  | none => .next s
  | some gid => .next (s.grantRun core sched gid)

end Sys2Proof.Machine
end

