-- ==== Sys2Proof/Machine/Manage.lean ====
section
/-!
DEFINITION. Management of the module (R351, R372 to R378): fences, starts, limits, resets, and the debug stops, charges and
samples of the cores (R364 to R369).
-/
namespace Sys2Proof.Machine

/-! ## Management status (R351, R355) -/

def State.fencedCount (s : State) : Nat := (s.cores.filter fun e => e.2.fenced).length
/-- MGMT.STATUS. -/
def State.mgmtStatus (s : State) : DWord :=
  let h := s.host
  BitVec.ofNat 64 (boolBit h.ready + 2 * boolBit h.lowWater + 4 * boolBit h.replaceReq + 8 * boolBit h.limiting +
    16 * boolBit h.tripped + 256 * s.fencedCount)
/-- A step, with vector 1 if a status bit has changed. -/
def State.watchStatus (old s : State) : State := if s.mgmtStatus = old.mgmtStatus then s else s.raiseVector 1

/-! ## Fences and soft errors (R376, R377) -/

/-- A core is fenced, with the trigger: 0 self-test, 1 threshold, 2 host. -/
def State.fenceNow (s : State) (core trigger : Nat) : State :=
  if (s.coreAt core).fenced ∨ 512 ≤ core ∨ 96 ≤ coreIn core then s
  else
    let x := (s.modCore core fun k => { k with fenced := true }).pushFifo (fifoEntry 8 core)
    let x := (x.modHost fun h => { h with replaceReq := true }).postMsg 4 core (2 ^ 32 - 1) (leBytes 8 trigger)
    State.watchStatus s x
/-- Whether a fence with an order number waits for a command that arrived at its core before it, or for a compaction there. -/
def State.fenceWaits (s : State) (core order : Nat) : Bool := s.coreBusy core || s.queuedBefore core order
/-- A fence, which is a command on the core (R303, R377): performed at once, or kept until the commands before it have been
performed; a second one of the same core adds nothing (notes/assumptions/145). -/
def State.fence (s : State) (core trigger : Nat) : State :=
  if !(s.fenceWaits core s.nextId) then s.fenceNow core trigger
  else if (s.coreAt core).fenced ∨ s.dist.fences.any fun f => decide (f.1 = core) then s
  else s.newId.2.modDist fun d => { d with fences := d.fences ++ [(core, trigger, s.nextId)] }
/-- A fence that waited is performed when its turn comes, and the commands behind it go on. -/
def State.fenceDue (s : State) (f : Nat × Nat × Nat) : State :=
  if s.fenceWaits f.1 f.2.2 then s
  else ((s.modDist fun d => { d with fences := d.fences.filter fun x => x != f }).fenceNow f.1 f.2.1).retryHeld
/-- Every fence that waits is performed: what it waits for is lost. -/
def State.fenceAll (s : State) : State :=
  s.dist.fences.foldl (fun s f => s.fenceNow f.1 f.2.1) (s.modDist fun d => { d with fences := [] })
/-- CORE_FENCE (R377): a fence by the host, or the turn of one that waits. -/
def State.coreFence (s : State) (core : Nat) : State :=
  s.unlessLow (match s.dist.fences.find? fun f => f.1 == core with
    | some f => s.fenceDue f
    | none => s.fence core 2)
def execCoreFence (core : Nat) (s : State) : Host.Outcome State Fault Refusal := .next (s.coreFence core)
/-- SOFT_ERROR_CORRECTED (R376). -/
def execSoftErrorCorrected (core : Nat) (s : State) : Host.Outcome State Fault Refusal :=
  if 512 ≤ core ∨ 96 ≤ coreIn core ∨ s.host.lowWater then .next s
  else
    let s := s.modCore core fun k => { k with soft := k.soft + 1 }
    .next (if s.host.seThresh.toNat < (s.coreAt core).soft then s.fence core 1 else s)
/-- SOFT_ERROR_WINDOW (R376). -/
def execSoftErrorWindow (core : Nat) (s : State) : Host.Outcome State Fault Refusal :=
  .next (s.unlessLow (s.modCore core fun k => { k with soft := 0 }))

/-! ## Starts (R372, R373) -/

/-- What the cores hold is lost: groups, teams and everything they had in flight. -/
def State.dropTeams (s : State) : State :=
  { s with
    runs := [], groups := [], teams := [], walks := [], replies := [], reds := [], remotes := [], locks := [], ops := [],
    monitors := [], notices := [], bumps := [], appends := [], steals := [], tlbis := [],
    topTide := (s.groups.map fun e => e.2.tide).foldl max s.topTide,
    cores := s.cores.filterMap fun e =>
      let k := { e.2 with age := [[], [], [], []], engine := [], stopCtl := 0 }
      if k = {} then none else some (e.1, k) }
/-- What the distributor holds beside its registers is lost. -/
def State.dropWork (s : State) : State :=
  s.modDist fun d => { d with
    loaded := false, sram := [], fifo := [], held := [], aside := [], mechs := [], packets := [], nextPid := 1,
    offered := [], compacts := [], fences := [], owed := 0, since := s.cycle, watchdog := false, harts := [], hartTurn := false }
/-- The cores and the distributor stop (R373): a fence that waits is performed, and what they had under way is lost. -/
def State.stopAll (s : State) : State := s.fenceAll.dropTeams.dropWork

/-- A failed start: counted, and the third in a row puts the module in low-water mode. -/
def State.failStart (s : State) (reason : Byte) : State :=
  let n := if s.host.failedStarts = 3 then 3 else s.host.failedStarts + 1
  let s := if n = 3 then s.stopAll else s
  let x := s.modHost fun h => { h with
    failedStarts := n, startReason := reason, starts := h.starts + 1, ready := false,
    lowWater := h.lowWater || decide (n = 3) }
  x.raiseVector 1
/-- Whether a start is under way. -/
def State.starting (s : State) : Bool := !s.host.ready && !s.host.lowWater

/-- Every die has 48 cores that pass self-test. -/
def coresEnough (bad : List Nat) : Bool :=
  (List.range 4).all fun d => decide (((bad.eraseDups.filter fun c => decide (coreDie c = d) && decide (coreIn c < 96))).length ≤ 48)

/-- The routing table that firmware has discovered (R360): for each package, the links that may carry its traffic. -/
def State.loadRoutes (s : State) : State :=
  { s with free := s.free + 4096 }.modHost fun h => { h with
    linksDown := [], routes := sputs 0 [] ((List.range 4096).map fun d =>
      (d, (Config.openWord (s.free + d)).setWidth 18)) }

/-- The cores that fail self-test are fenced. -/
def State.fenceFailed (s : State) (l : List Nat) : State :=
  l.foldl (fun s c =>
    (s.fence c 0).modCore c fun k => { k with selfTestFail := k.selfTestFail || decide (coreIn c < 96) }) s
/-- START (R372): the outcome of the stages. A start that reaches the CORES stage fences the cores that fail there, whether or not a
later stage fails. -/
def State.start (s : State) (r : StartResult) : State :=
  if !s.starting then s
  else if r.reason ≠ 0 ∧ r.reason.toNat < 5 then s.failStart r.reason
  else if r.reason ≠ 0 then (s.fenceFailed r.fencedCores).failStart r.reason
  else if !(coresEnough r.fencedCores) then (s.fenceFailed r.fencedCores).failStart 5
  else
    ((s.fenceFailed r.fencedCores).loadRoutes.modHost fun h => { h with
      ready := true, failedStarts := 0, starts := h.starts + 1, number := r.package }).raiseVector 1
def execStart (r : StartResult) (s : State) : Host.Outcome State Fault Refusal := .next (s.start r)
/-- START_WATCHDOG (R372). -/
def execStartWatchdog (s : State) : Host.Outcome State Fault Refusal :=
  .next (if s.starting then s.failStart 8 else s)

/-- CLEAR_FAILED_STARTS (R373). -/
def State.clearStarts (s : State) : State := s.modHost fun h => { h with failedStarts := 0 }
def execClearFailedStarts (s : State) : Host.Outcome State Fault Refusal := .next s.clearStarts
/-- The distributor after a warm reset: its registers keep their values, and it starts on the image if that passes its check,
otherwise on the fallback placer (R378). -/
def State.restartDist (s : State) : State :=
  let s := s.dropWork
  match s.image? s.dist.ucode.toNat with
  | some _ =>
    let s := s.distLoad
    if s.dist.run && !s.dist.quiesce then (s.modDist fun d => { d with fallback := false, quiesced := false }).startHarts else s
  | none => (s.modDist fun d => { d with watchdog := true }).setFallback.reloadRecord
/-- Low-water mode is left for a start; the distributor restarts with the rest. -/
def State.leaveLow (s : State) : State := (s.modHost fun h => { h with lowWater := false }).restartDist

/-- FIRMWARE_COMMIT (R373): ACCEPTED clears the count and starts; REJECTED leaves the mode unchanged. -/
def State.commit (s : State) (ok : Bool) : State :=
  if !s.host.lowWater then s
  else if ok then s.watchStatus (s.modHost fun h => { h with fwCtl := 4, failedStarts := 0 }).leaveLow
  else s.modHost fun h => { h with fwCtl := 8 }
def execFirmwareCommit (accepted : Bool) (s : State) : Host.Outcome State Fault Refusal := .next (s.commit accepted)

/-! ## Limits (R374) -/

/-- A LIMIT message naming the limit that acted: 0 MGMT.POWERCAP, 1 to 3 the absolute ones (R357). -/
def State.limitMsg (s : State) (limit : Nat) : State :=
  s.postMsg 6 0 (2 ^ 32 - 1) (leBytes 8 (Config.limitCode limit).toNat)
/-- POWER_LIMITING. -/
def execPowerLimiting (s : State) : Host.Outcome State Fault Refusal :=
  .next (if s.host.limiting then s
    else s.watchStatus ((s.modHost fun h => { h with limiting := true }).limitMsg 0))
/-- LIMITING_END. -/
def execLimitingEnd (s : State) : Host.Outcome State Fault Refusal :=
  .next (s.watchStatus (s.modHost fun h => { h with limiting := false }))

/-- THERMAL_TRIP: every core halts; which of the absolute limits acted is open. -/
def execThermalTrip (s : State) : Host.Outcome State Fault Refusal :=
  .next (if s.host.tripped then s
    else s.watchStatus ((s.fresh.2.dropTeams.modHost fun h => { h with tripped := true }).limitMsg
      (1 + (Config.openWord s.fresh.1).toNat % 3)))

/-! ## Resets (R191, R289, R372, R373, R378) -/

/-- What management flash keeps of a core. -/
def Core.kept (k : Core) : Core := { fenced := k.fenced, selfTestFail := k.selfTestFail }
def State.keptCores (s : State) : Store Core :=
  s.cores.filterMap fun e => if e.2.kept = {} then none else some (e.1, e.2.kept)

/-- Every line of the package is written back; one that cannot be is lost and marked poisoned (R378). -/
def State.writeBack (s : State) : State :=
  s.lines.foldl (fun s e =>
    let x := s.evict e.1
    if e.1 < 2 ^ 45 ∧ s.ownPackage (e.1 * 128) ∧ Config.writeBackFails s.free e.1 then
      { x.poke (e.1 * 128) (List.replicate 128 0) with free := x.free + 1, poisoned := x.poisoned ++ [e.1] }
    else { x with free := x.free + 1 }) s
/-- A warm reset; in low-water mode it gives a start when the count has been cleared (R373). -/
def State.warmReset (s : State) : State :=
  if s.host.lowWater then
    if s.host.failedStarts = 3 then s else s.watchStatus s.leaveLow
  else
    let s := s.fenceAll
    let x := s.writeBack.dropTeams
    let x : State := { x with
      mem := x.mem.filter fun e => decide (e.1 < devTop), lines := x.lines.filter fun e => decide (e.1 < 2 ^ 46),
      cores := s.keptCores, dies := [], farSealed := [], genNotices := [], since := s.cycle }
    s.watchStatus ((x.modHost fun h => { h with tripped := false }).restartDist)
def execWarmReset (s : State) : Host.Outcome State Fault Refusal := .next s.warmReset

/-- A cold reset: the state after reset, with what management flash holds, the inputs to come, and the count of free values. -/
def State.coldReset (s : State) : State :=
  let s := s.fenceAll
  { State.reset with
    agenda := s.agenda, free := s.free, nextId := s.nextId, cores := s.keptCores,
    host := { State.reset.host with
      stepping := s.host.stepping, failedStarts := s.host.failedStarts, startReason := s.host.startReason,
      starts := s.host.starts, replaceReq := s.host.replaceReq, lowWater := decide (s.host.failedStarts = 3) } }
def execColdReset (s : State) : Host.Outcome State Fault Refusal := .next s.coldReset

/-! ## Team stops (R364, R368, R369) -/

def triggerCode : StopTrigger → Nat
  | .host => 0
  | .brk => 1
  | .check => 2

/-- Every group of a team stands at an arbitration point with its pending registers written. -/
def State.stillTeam (s : State) (t : Team) : Bool :=
  !(s.runs.any fun g => t.gids.contains g) && t.gids.all fun g => match s.group? g with
    | some x => !x.pending && x.trapped.isNone && x.doom.isNone && (x.dueMcs.isEmpty || x.inWait)
    | none => true

/-- A team's dump: the header and the groups' records, in slot handle mod 64. -/
def State.dump (s : State) (pk : Packet) (h : Nat) (t : Team) : State :=
  let a := s.localPa (s.host.dumpBase.toNat + h % 64 * 2 ^ 18)
  s.hwWrite a (s.header pk t ++ t.gids.flatMap fun g => ((s.group? g).map Group.record).getD [])
/-- The STOP records of a team's groups, and its message. -/
def State.stopRecords (s : State) (h : Nat) (t : Team) (tr : StopTrigger) : State :=
  let s := t.gids.foldl (fun s g => match s.ctx? g with
    | some c => s.traceRec c 3 (triggerCode tr) c.g.pc
    | none => s) s
  s.postMsg 5 t.core t.index (leBytes 8 h ++ leBytes 8 (triggerCode tr))
def State.stopTeam (s : State) (h : Nat) (t : Team) (tr : StopTrigger) : State :=
  match s.packet? t.pid with
  | none => s
  | some pk =>
    (((s.dump pk h t).stopRecords h t tr).modTeam h fun u => { u with dumped := true }).modCore t.core fun k =>
      { k with stopCtl := BitVec.ofNat 64 (h + 2 ^ 31) }

/-- A stop is asked for, and made once every group of the cluster stands still. -/
def State.teamStop (s : State) (core h : Nat) (tr : StopTrigger) : State :=
  match s.team? h with
  | none => s
  | some t =>
    if t.core ≠ core ∨ t.life ≠ .run then s
    else
      let s := s.askStop h tr
      let ts := s.clusterOf t.lead
      if ts.all fun e => s.stillTeam e.2 then
        ts.foldl (fun s e => if e.2.dumped then s else s.stopTeam e.1 e.2 (e.2.stopped.getD tr)) s
      else s
/-- TEAM_STOP (R368). -/
def execTeamStop (core team : Nat) (by' : StopTrigger) (s : State) : Host.Outcome State Fault Refusal :=
  .next (s.teamStop core team by')

/-- A stopped team and its cluster go on; their groups join the back of the age orders. -/
def State.resumeTeam (s : State) (h : Nat) : State :=
  match s.team? h with
  | none => s
  | some t =>
    if t.stopped.isNone then s
    else (s.clusterOf t.lead).foldl (fun s e =>
      let mine (g : Nat) : Bool := e.2.gids.contains g
      (s.modTeam e.1 fun u => { u with stopped := none, dumped := false }).modCore e.2.core fun k =>
        { k with stopCtl := 0, age := k.age.map fun l => l.filter (fun g => !(mine g)) ++ l.filter mine }) s
/-- STOP_RESUME (R368): the core's stopped team. -/
def execStopResume (core : Nat) (s : State) : Host.Outcome State Fault Refusal :=
  .next (s.unlessLow (if (s.coreAt core).stopCtl.getLsbD 31 then s.resumeTeam ((s.coreAt core).stopCtl.toNat % 2 ^ 15) else s))

/-! ## Debug table and samples (R364 to R367) -/

/-- DEBUG_FLUSH (R364). -/
def execDebugFlush (core : Nat) (s : State) : Host.Outcome State Fault Refusal := .next (s.unlessLow (s.flushTable core fun _ => true))
/-- DEBUG_COUNT_WRAP (R365). -/
def execDebugCountWrap (core entry : Nat) (s : State) : Host.Outcome State Fault Refusal := .next (s.wrapCount core entry)

/-- The stall reason of a group; several causes give the lower code (R366). -/
def State.stallCode (s : State) (c : Ctx) : Nat :=
  match c.g.stall with
  | some w => if s.stallOver c w then (if s.held c.t then 15 else if c.g.ibuf.isNone then 16 else 0) else Stall.reason w
  | none => if s.held c.t || c.g.doom.isSome then 15 else if c.g.ibuf.isNone then 16 else 0

/-- The groups of a scheduler that are eligible, the one in a run among them (R38). -/
def State.readyOn (s : State) (core sched : Nat) : Nat :=
  (((s.coreAt core).age.getD sched []).filter fun g => s.eligible g || s.runs.contains g).length

/-- One cycle charged by a scheduler: the group that issues, else its oldest resident group. -/
def State.chargeSched (s : State) (core sched : Nat) : State :=
  let age := (s.coreAt core).age.getD sched []
  let issuing := s.runs.find? fun g => g / 12 == 4 * core + sched
  let s := s.modCore core fun k =>
    let i := 16 * sched + min 12 (s.readyOn core sched)
    { k with hist := sput 0 k.hist i (sget 0 k.hist i + 1) }
  match issuing with
  | some g => match s.ctx? g with
    | some c => s.charge core c.pk.queue 0 c.g.pc
    | none => s
  | none => match age with
    | [] => s
    | g :: _ => match s.ctx? g with
      | some c => s.charge core c.pk.queue (s.stallCode c) c.g.pc
      | none => s
/-- Hart clocks in which a queue had a READY team and none was placed: WAITCLOCKS (R294). -/
def State.waitClocks (s : State) : State :=
  if s.distClock = State.distClock { s with cycle := s.cycle - 1 } then s
  else (((s.dist.packets.filter fun e =>
      (List.range (e.2.pk.teams / e.2.pk.cluster)).any fun k => s.clusterReady e.2 (k * e.2.pk.cluster)).map
        fun e => e.2.pk.queue).eraseDups.filter s.queueRead).foldl (fun s q => s.qcbAdd q 120 1) s
/-- DEBUG_CHARGE (R364, R365): one cycle of every core. -/
def execDebugCharge (s : State) : Host.Outcome State Fault Refusal :=
  .next (s.unlessLow (allCores.foldl (fun s c => (List.range 4).foldl (fun s i => s.chargeSched c i) s)
    ({ s with cycle := s.cycle + 1 } : State).waitClocks))

/-- SAMPLE (R367): the oldest resident group of one scheduler, in turn. -/
def State.sample (s : State) (core : Nat) : State :=
  let k := s.coreAt core
  let g := (k.age.getD (k.sampleAt % 4) []).head?
  let s := s.modCore core fun k => { k with sampleAt := (k.sampleAt + 1) % 4 }
  match g with
  | none => s
  | some g => match s.ctx? g with
    | some c => if s.armed c.pk 4 then s.traceRec c 0 (if s.runs.contains g then 0 else s.stallCode c) c.g.pc else s
    | none => s
def execSample (core : Nat) (s : State) : Host.Outcome State Fault Refusal := .next (s.sample core)

end Sys2Proof.Machine
end

