-- ==== Sys2Proof/Machine/System.lean ====
section
/-!
DEFINITION. The system instructions, MAJ 0x15 (R329 to R332, R336 to R338), system registers, and the invalidation of
translations across the package.
-/
namespace Sys2Proof.Machine

/-! ## System registers (R329) -/

/-- Registers named only in handler mode (R101, R329). -/
def supervisor : SysReg → Bool
  | .nbmode => false
  | .lease => false
  | .tidemark => false
  | _ => true

/-- The value of a system register in a lane. -/
def sysRead (s : State) (g : Group) (r : SysReg) (l : Nat) : DWord :=
  match r with
  | .tvec => g.tvec
  | .tpc => g.tpc
  | .tmask => g.tmask.setWidth 64
  | .tcause => g.tcause
  | .taddr => sget 0 g.taddr l
  | .tpte => sget 0 g.tpte l
  | .tsave => g.tsave
  | .ptroot => s.host.ptRoot
  | .physview => s.host.physView
  | .framepool => s.host.framePool
  | .mcinfo => g.mcinfo
  | .mcaddr => g.mcaddr
  | .nbmode => g.nbmode.setWidth 64
  | .lease => g.lease.setWidth 64
  | .tidemark => BitVec.ofNat 64 g.tide

/-- MFSR (R330). -/
def execMfsr (h : Hd) (d : Dst) (r : SysReg) (s : State) : Host.Outcome State Fault Refusal :=
  issue { hd := h, wrs := [.g64 d], priv := supervisor r } (fun s c act _ =>
    .ok { s := s, w := dstWrites act d 2 fun l k => dwordPart (sysRead s c.g r l) k }) s

/-- Values MTSR refuses (R29, R190, R330). -/
def sysBad (r : SysReg) (x : DWord) : Bool :=
  match r with
  | .tvec => decide (x.toNat % 8 ≠ 0)
  | .nbmode => decide (x.toNat % 4 = 3)
  | .lease => decide (x.toNat % 65536 = 0)
  | _ => false
/-- A system register written; reserved bits are not stored (R329). -/
def Group.sysWrite (g : Group) (r : SysReg) (x : DWord) : Group :=
  match r with
  | .tvec => { g with tvec := x }
  | .tpc => { g with tpc := x }
  | .tmask => { g with tmask := x.lo }
  | .tcause => { g with tcause := x.lo.setWidth 64 }
  | .tsave => { g with tsave := x &&& 0xFFFFFFFFFFFF }
  | .nbmode => { g with nbmode := x.setWidth 2 }
  | .lease => { g with lease := x.setWidth 16 }
  | _ => g
/-- MTSR (R330). -/
def mtsrBody (r : SysReg) (a : Src) : Body := fun s c act _ =>
  let x := c.g.src64 a 0
  if act = 0 then .ok { s := s }
  else if sysBad r x then .trap (ownTrap c act .illegalOperand) s
  else .ok { s := s.modGroup c.gid fun g => g.sysWrite r x }
def execMtsr (h : Hd) (r : SysReg) (a : Src) (s : State) : Host.Outcome State Fault Refusal :=
  issue { hd := h, rds := [.u64 a], priv := supervisor r } (mtsrBody r a) s

/-! ## TRET and HALT (R331, R332) -/

def tretBody : Body := fun s c _ _ =>
  if c.g.depth ≠ c.g.tsave.toNat / 2 ^ 32 % 2 ^ 16 then .trap (trapOf .illegalInstruction) s
  else .ok { s := s.modGroup c.gid Group.trapReturn, jump := some c.g.tpc }
/-- TRET (R331): the return from a trap, once nothing is pending (R93). -/
def execTret (b : Bool) (s : State) : Host.Outcome State Fault Refusal :=
  issue { hd := ⟨b, .always⟩, priv := true, whole := true, drains := true } tretBody s

def haltBody (imm : BitVec 20) : Body := fun s c act _ =>
  if act = 0 then .ok { s := s }
  else .ok { s := s.reportEnd c.gid c.g 2 (c.g.reportOf (imm.setWidth 64) act), endRun := true }
/-- HALT (R332): the team ends, once the log has room (R310); the report carries the code. -/
def execHalt (h : Hd) (imm : BitVec 20) (s : State) : Host.Outcome State Fault Refusal :=
  issue { hd := h, priv := true } (haltBody imm) s

/-! ## TLBF (R336) -/

/-- The virtual address of a lane's address, if it is translated (R175 to R177). -/
def State.virtOf (s : State) (c : Ctx) (lane ea : Nat) : Option Nat :=
  match s.aperture c .ld lane ea 1 1 with
  | .good (.virt va) => some va
  | _ => none
def tlbfBody (a : Src) : Body := fun s c act _ =>
  .ok { s := (lanesOf act).foldl (fun s l =>
    match s.virtOf c l (c.g.src64 a l).toNat with
    | some va => s.dropVa c.t.core va
    | none => s) s }
/-- TLBF (R336). -/
def execTlbf (h : Hd) (a : Src) (s : State) : Host.Outcome State Fault Refusal :=
  issue { hd := h, rds := [.a64 a], priv := true, memory := true, memCode := 11 } (tlbfBody a) s

/-! ## TLBI (R337) -/

/-- Whether some of `count` pages from a page on, modulo 2^48 pages, lies in a range of pages; 0 covers all. -/
def pagesMeet (first count lo n : Nat) : Bool :=
  decide (count = 0) || decide ((lo + 2 ^ 48 - first) % 2 ^ 48 < count) || decide ((first + 2 ^ 48 - lo) % 2 ^ 48 < n)
/-- Whether an invalidation covers an entry of a level that starts at an index. -/
def levelMeets (first count level index : Nat) : Bool :=
  pagesMeet first count (index * 2 ^ (levelBits level - 16)) (2 ^ (levelBits level - 16))

/-- Every covering entry of the package is dropped, walks in flight are abandoned whose page or leaf
is covered, or forget the covered entries they have read, and cove slots that hold
a covered translation become stale. -/
def State.dropPages (s : State) (first count : Nat) : State :=
  { s with
    cores := s.cores.filterMap fun e =>
      let k := { e.2 with tlb := e.2.tlb.filter fun t => !(levelMeets first count t.level (t.va / 2 ^ levelBits t.level)) }
      if k = {} then none else some (e.1, k)
    dies := s.dies.filterMap fun e =>
      let d := Die.mk (e.2.wcache.filter fun w => !(levelMeets first count w.1 w.2.1))
      if d = ⟨[]⟩ then none else some (e.1, d)
    walks := (s.walks.filter fun w => !(pagesMeet first count w.page 1 || (match w.found with
      | .leaf t => levelMeets first count t.level (t.va / 2 ^ levelBits t.level)
      | .fault _ _ _ => false))).map fun w =>
        { w with seen := w.seen.filter fun e => !(levelMeets first count e.1 e.2.1) }
    teams := s.teams.map fun e => (e.1, { e.2 with coves := e.2.coves.map fun x =>
      (x.1, if x.2.pages.any (fun p => pagesMeet first count p.1 1) then { x.2 with stale := true } else x.2) }) }

/-- An invalidation begins (R337, R352): it waits for the engine operations that use a covered page. -/
def State.startTlbi (s : State) (group : Option Nat) (first count : Nat) : State :=
  let ops := (s.ops.filter fun o => o.pages.any fun p => pagesMeet first count p 1).map EngineOp.id
  let s := s.dropPages first count
  { s with tlbis := s.tlbis ++ [⟨group, ops⟩] }

/-- TLBI (R337). -/
def tlbiBody (a : Src) (b : SrcB) : Body := fun s c act ws =>
  let va := (c.g.src64 a 0).toNat
  if act = 0 then .ok { s := s }
  else if va % 65536 ≠ 0 then .trap (ownTrap c act .illegalOperand) s
  else .ok { s := s.startTlbi (some c.gid) (va / 65536) (c.g.srcB b ws 0 0).toNat, wait := some .tlbi }
def execTlbi (h : Hd) (hold : Hold) (a : Src) (b : SrcB) (s : State) : Host.Outcome State Fault Refusal :=
  issue { hd := h, hold := holdSrc hold none (regB b) none, rds := .u64 a :: rdsB b .u32, win := windowB b 1, priv := true,
          memory := true, memCode := 11 } (tlbiBody a b) s

/-- TLBI_ACKNOWLEDGEMENT (R337): all four dies acknowledge once the operations have completed. -/
def execTlbiAcknowledgement (i : Nat) (s : State) : Host.Outcome State Fault Refusal :=
  match s.tlbis[i]? with
  | none => .next s
  | some t =>
    if s.ops.any fun o => t.ops.contains o.id then .next s
    else
      let s := { s with tlbis := s.tlbis.eraseIdx i }
      match t.group with
      | none => .next s
      | some gid => .next (s.modGroup gid fun g => if g.stall = some Stall.tlbi then { g with stall := none } else g)

/-- PAGE_WALK (R335): a walk's result reaches the groups that wait for it. -/
def execPageWalk (i : Nat) (s : State) : Host.Outcome State Fault Refusal := .next (s.endWalk i)

/-! ## PROBE (R338) -/

/-- PROBE's result for a translation. -/
def probeHit (t : Tlb) (va : Nat) : DWord :=
  let bit (b : Bool) (n : Nat) : Nat := if b then 2 ^ n else 0
  BitVec.ofNat 64 (t.level * 2 ^ 59 + bit t.c 58 + bit t.n 57 + bit t.w 56 + bit t.x 55 + bit t.cell 54 + bit t.remote 53 +
    2 ^ 52 + t.pa va % 2 ^ 52)
/-- PROBE's result for a failure. -/
def probeFail (c : Cause) (d : BitVec 4) : DWord := BitVec.ofNat 64 (d.toNat * 256 + causeCode c)
/-- One lane's result; none while its walk is to be made. -/
def State.probe (s : State) (c : Ctx) (lane ea : Nat) : Option DWord :=
  match s.virtOf c lane ea with
  | none => some (probeFail .accessViolation 0)
  | some va =>
    match s.translate c.g c.t.core va with
    | .hit t => some (probeHit t va)
    | .fault k d _ => some (probeFail k d)
    | .lost => some 0
    | .miss => none
def probeBody (d : Dst) (a : Src) : Body := fun s c act _ =>
  let ea (l : Nat) : Nat := (c.g.src64 a l).toNat
  match (lanesOf act).filter fun l => (s.probe c l (ea l)).isNone with
  | [] => .ok { s := s, w := dstWrites act d 2 fun l k => dwordPart ((s.probe c l (ea l)).getD 0) k }
  | miss => .stall .translate (s.startWalks c (miss.filterMap fun l => s.virtOf c l (ea l)))
/-- PROBE (R338). -/
def execProbe (h : Hd) (d : Dst) (a : Src) (s : State) : Host.Outcome State Fault Refusal :=
  issue { hd := h, rds := [.a64 a], wrs := [.g64 d], priv := true, memory := true, memCode := 11 } (probeBody d a) s

end Sys2Proof.Machine
end

