-- ==== Sys2Proof/Machine/Bar.lean ====
section
/-!
DEFINITION. The host port: BAR0 registers (R350 to R352, R359, R363, R364),
BAR2 accesses (R203, R353), migration (R341, R342), the links and the arbiters (R360 to R362).
-/
namespace Sys2Proof.Machine

/-! ## Register values (R350) -/

def bits (x : DWord) (lo n : Nat) : Nat := x.toNat / 2 ^ lo % 2 ^ n

/-- The distributor control block (R289). -/
def State.distReg (s : State) (o : Nat) : DWord :=
  let d := s.dist
  match o with
  | 0x00 => BitVec.ofNat 64 (boolBit d.run + 2 * boolBit d.quiesce + 4 * boolBit d.quiesced + 8 * boolBit d.fallback)
  | 0x08 => d.ucode
  | 0x10 => d.qcbBase
  | 0x18 => d.nq
  | 0x20 => d.logBase
  | 0x28 => d.logCap
  | 0x30 => d.logWr
  | 0x38 => d.logRd
  | 0x40 => d.cntBase
  | 0x50 => BitVec.ofNat 64 s.distClock
  | _ => 0

/-- The management block (R351). -/
def State.mgmtReg (s : State) (o : Nat) : DWord :=
  let h := s.host
  match o with
  | 0x00 => BitVec.ofNat 64 (1 + h.stepping.toNat * 2 ^ 16)
  | 0x08 => s.mgmtStatus
  | 0x10 => BitVec.ofNat 64 (h.failedStarts.toNat + h.startReason.toNat * 2 ^ 8 + h.starts.toNat * 2 ^ 32)
  | 0x20 => h.fwCtl.setWidth 64
  | 0x28 => h.powerCap.setWidth 64
  | 0x30 => h.seThresh.setWidth 64
  | 0x38 => (Config.sense s.cycle).setWidth 64
  | _ => 0

/-- The package registers (R352). -/
def State.pkgReg (s : State) (o : Nat) : DWord :=
  let h := s.host
  match o with
  | 0x00 => h.trapVec
  | 0x08 => h.ptRoot
  | 0x10 => h.physView
  | 0x18 => h.framePool
  | 0x20 => h.bar2Base
  | 0x28 => if s.tlbis.any fun t => t.group.isNone then 1 else 0
  | 0x30 => h.number.setWidth 64
  | _ => 0

/-- The migration table (R341). -/
def migReg (m : Migration) (o : Nat) : DWord :=
  if o = 0 then m.src else if o = 8 then m.dst
  else if o = 16 then BitVec.ofNat 64 (m.progress + m.st * 2 ^ 16) else 0

/-- A core window (R364). The 16-bit count of corrected errors wraps, which is the model's choice (notes/assumptions/141). -/
def State.coreReg (s : State) (core o : Nat) : DWord :=
  let k := s.coreAt core
  if 96 ≤ coreIn core then 0
  else match o with
    | 0x00 => BitVec.ofNat 64 (1 + 2 * boolBit k.fenced + 4 * boolBit k.selfTestFail + k.soft % 2 ^ 16 * 2 ^ 32)
    | 0x10 => k.stopCtl
    | 0x20 => k.tabWr
    | 0x28 => k.tabRd
    | 0x30 => k.trcWr
    | 0x38 => k.trcRd
    | 0x40 => k.lost
    | _ =>
      let x := o - 0x100
      if 0x100 ≤ o ∧ x / 0x80 < 4 ∧ x % 0x80 / 8 < 13 then sget 0 k.hist (16 * (x / 0x80) + x % 0x80 / 8) else 0

def State.stagingReg (s : State) (o : Nat) : DWord :=
  BitVec.ofNat 64 (leNat ((List.range 8).map fun i => sget 0 s.host.staging (o + i)))

/-- The 8 bytes of BAR0 at an aligned offset. In low-water mode only the management block and the staging window answer. -/
def State.bar0 (s : State) (off : Nat) : DWord :=
  let blk := off / 0x1000
  let o := off % 0x1000
  let h := s.host
  if blk = 0 then s.mgmtReg o
  else if h.lowWater then (if 0x1000000 ≤ off ∧ off < 0x2000000 then s.stagingReg (off - 0x1000000) else 0)
  else if blk = 1 then s.distReg o
  else if blk = 2 then s.pkgReg o
  else if blk = 3 then
    if o = 0 then h.hmqHdr else if 0x100 ≤ o ∧ o < 0x180 then sget 0 h.watches ((o - 0x100) / 8) else 0
  else if blk = 4 then (if o < 0x800 then migReg (sget {} h.migration (o / 32)) (o % 32) else 0)
  else if blk = 5 then
    match o with
    | 0x00 => h.armed
    | 0x08 => h.tabBase
    | 0x10 => h.tabSize
    | 0x18 => h.trcBase
    | 0x20 => h.trcSize
    | 0x28 => h.dumpBase
    | _ => 0
  else if 0x2000000 ≤ off ∧ off < 0x4000000 then s.coreReg ((off - 0x2000000) / 0x10000) (off % 0x10000)
  else 0

/-! ## Register writes (R350) -/

/-- A write to a control-block register; some are fixed unless QUIESCED, and values out of range are ignored. -/
def State.setDist (s : State) (f : Dist → Dist) : State := if s.dist.quiesced then s.modDist f else s
def powTwo (n : Nat) : Bool := decide (n ≠ 0) && decide (n &&& (n - 1) = 0)

/-- DIST.CTL; LOAD acts only when the write covers it. -/
def State.writeDistCtl (s : State) (low : Bool) (v : DWord) : State :=
  let x := s.setRun (v.getLsbD 0) (v.getLsbD 1)
  if low && v.getLsbD 4 then x.distLoad else x
def State.writeDist (s : State) (o : Nat) (low : Bool) (v : DWord) : State :=
  let n := v.toNat
  match o with
  | 0x00 => s.writeDistCtl low v
  | 0x08 => s.modDist fun d => { d with ucode := v }
  | 0x10 => s.setDist fun d => { d with qcbBase := v }
  | 0x18 => if 1 ≤ n ∧ n ≤ 4096 then s.setDist fun d => { d with nq := v } else s
  | 0x20 => s.setDist fun d => { d with logBase := v, logWr := 0, logRd := 0 }
  | 0x28 => if powTwo n ∧ 64 ≤ n ∧ n ≤ 2 ^ 24 then s.setDist fun d => { d with logCap := v, logWr := 0, logRd := 0 } else s
  | 0x38 => s.setLogrd v
  | 0x40 => s.setDist fun d => { d with cntBase := v }
  | 0x48 => (s.modDist fun d => { d with hostReq := v }).hostreq v
  | _ => s

/-- MGMT.SETHRESH: a core whose count exceeds the new threshold is fenced (R376). -/
def State.setThresh (s : State) (v : BitVec 16) : State :=
  (s.cores.filter fun e => decide (v.toNat < e.2.soft)).foldl (fun s e => s.fence e.1 1)
    (s.modHost fun h => { h with seThresh := v })
/-- MGMT.CTL acts on the bits the write covers: clear the count, then a reset. -/
def State.writeMgmtCtl (s : State) (v : DWord) : State :=
  let s := if v.getLsbD 2 then s.clearStarts else s
  if v.getLsbD 1 then s.coldReset else if v.getLsbD 0 then s.warmReset else s
def State.writeMgmt (s : State) (o : Nat) (low : Bool) (v : DWord) : State :=
  match o with
  | 0x18 => if low then s.writeMgmtCtl v else s
  | 0x20 => if low && v.getLsbD 0 && s.host.lowWater then s.modHost fun h => { h with fwCtl := 2 } else s
  | 0x28 => if 400 ≤ bits v 0 16 ∧ bits v 0 16 ≤ 2000 then s.modHost fun h => { h with powerCap := v.setWidth 16 } else s
  | 0x30 => if 1 ≤ bits v 0 16 then s.setThresh (v.setWidth 16) else s
  | _ => s

/-- PKG.TLBINV (R352). -/
def State.tlbInv (s : State) (v : DWord) : State :=
  (s.modHost fun h => { h with tlbInv := v }).startTlbi none (v.toNat / 2 ^ 16) (v.toNat % 2 ^ 16)
def State.writePkg (s : State) (o : Nat) (v : DWord) : State :=
  match o with
  | 0x00 => s.modHost fun h => { h with trapVec := v }
  | 0x08 => s.modHost fun h => { h with ptRoot := v }
  | 0x10 => s.modHost fun h => { h with physView := v }
  | 0x18 => s.modHost fun h => { h with framePool := v }
  | 0x20 => s.modHost fun h => { h with bar2Base := v }
  | 0x28 => s.tlbInv v
  | _ => s

/-- HMQ.HDR and the host watches; reserved bits are not stored (R359). -/
def State.writeHmq (s : State) (o : Nat) (v : DWord) : State :=
  let line : DWord := v &&& 0x000FFFFFFFFFFF80
  if o = 0 then s.modHost fun h => { h with hmqHdr := line }
  else if 0x100 ≤ o ∧ o < 0x180 then
    s.modHost fun h => { h with watches := sput 0 h.watches ((o - 0x100) / 8) (line ||| (v &&& 1)) }
  else s

/-- The migration table: STATE set to RUN starts an entry over, IDLE ends it (R341). -/
def writeMig (m : Migration) (o : Nat) (v : DWord) : Migration :=
  if o = 0 then { m with src := v } else if o = 8 then { m with dst := v }
  else if o = 16 then
    if bits v 16 8 = 1 then (if m.st = 1 then m else { m with st := 1, progress := 0 })
    else if bits v 16 8 = 0 then { m with st := 0 } else m
  else m

def State.writeDbg (s : State) (o : Nat) (v : DWord) : State :=
  match o with
  | 0x00 => s.modHost fun h => { h with armed := v &&& 0xFFFFFFFF0FFF03FF }
  | 0x08 => s.modHost fun h => { h with tabBase := v }
  | 0x10 => s.modHost fun h => { h with tabSize := v }
  | 0x18 => s.modHost fun h => { h with trcBase := v }
  | 0x20 => s.modHost fun h => { h with trcSize := v }
  | 0x28 => s.modHost fun h => { h with dumpBase := v }
  | _ => s

/-- A core window; FENCE, STOP, RESUME and FLUSH act only when the write covers them. -/
def State.writeCore (s : State) (core o : Nat) (low : Bool) (v : DWord) : State :=
  let x := o - 0x100
  if 96 ≤ coreIn core then s
  else match o with
    | 0x08 => if low && v.getLsbD 0 then s.fence core 2 else s
    | 0x10 =>
      if low && v.getLsbD 15 then s.teamStop core (bits v 0 15) .host
      else if low && v.getLsbD 16 then s.resumeTeam (bits v 0 15) else s
    | 0x18 => if low && v.getLsbD 0 then s.flushTable core fun _ => true else s
    | 0x28 => s.modCore core fun k => { k with tabRd := v }
    | 0x38 => s.modCore core fun k => { k with trcRd := v }
    | 0x40 => s.modCore core fun k => { k with lost := v }
    | _ =>
      if 0x100 ≤ o ∧ x / 0x80 < 4 ∧ x % 0x80 / 8 < 13 then
        s.modCore core fun k => { k with hist := sput 0 k.hist (16 * (x / 0x80) + x % 0x80 / 8) v }
      else s

def State.writeStaging (s : State) (o : Nat) (v : DWord) : State :=
  s.modHost fun h => { h with staging := sputs 0 h.staging ((leBytes 8 v.toNat).zipIdx.map fun e => (o + e.2, e.1)) }

/-- A write of 8 bytes to an aligned register; `low` when it covers the low half. -/
def State.writeBar0 (s : State) (off : Nat) (low : Bool) (v : DWord) : State :=
  let blk := off / 0x1000
  let o := off % 0x1000
  if blk = 0 then s.writeMgmt o low v
  else if s.host.lowWater then
    (if 0x1000000 ≤ off ∧ off < 0x2000000 then s.writeStaging (off - 0x1000000) v else s)
  else if blk = 1 then s.writeDist o low v
  else if blk = 2 then s.writePkg o v
  else if blk = 3 then s.writeHmq o v
  else if blk = 4 then
    (if o < 0x800 then s.modHost fun h => { h with
      migration := sput {} h.migration (o / 32) (writeMig (sget {} h.migration (o / 32)) (o % 32) v) } else s)
  else if blk = 5 then s.writeDbg o v
  else if 0x2000000 ≤ off ∧ off < 0x4000000 then
    s.writeCore ((off - 0x2000000) / 0x10000) (off % 0x10000) low v
  else s

/-- The half a 4-byte write leaves: what the register holds, or what was last written to a write-only one. -/
def State.lastValue (s : State) (off : Nat) : DWord :=
  if off = 0x1048 then s.dist.hostReq else if off = 0x2028 then s.host.tlbInv else s.bar0 off

/-- A BAR0 access answered with Completer Abort (R349, R350). -/
def State.hostAbort (s : State) : State := s.modHost fun h => { h with aborted := true, readOut := [] }
/-- REGISTER_WRITE (R350). -/
def State.registerWrite (s : State) (off : Nat) (wide : Bool) (v : DWord) : State :=
  let size := if wide then 8 else 4
  if off % size ≠ 0 ∨ 0x4000000 ≤ off then s.hostAbort
  else
    let s := s.modHost fun h => { h with aborted := false }
    let a := off / 8 * 8
    if wide then s.writeBar0 a true v
    else
      let old := s.lastValue a
      if off % 8 = 0 then s.writeBar0 a true (DWord.ofWords (dwordPart old 1) v.lo)
      else s.writeBar0 a false (DWord.ofWords v.lo (dwordPart old 0))
def execRegisterWrite (off : Nat) (wide : Bool) (v : DWord) (s : State) : Host.Outcome State Fault Refusal :=
  .next (s.registerWrite off wide v)
/-- PKG_TLBINV (R352). -/
def execPkgTlbinv (v : DWord) (s : State) : Host.Outcome State Fault Refusal := .next (s.unlessLow (s.tlbInv v))

/-! ## BAR2 (R203, R353, R373) -/

def hostTop : Nat := 768 * 2 ^ 30
/-- Local physical addresses of a BAR2 access: its first byte, and how many lie below 768 GiB. -/
def State.bar2 (s : State) (off : Nat) : Nat := s.host.bar2Base.toNat % 2 ^ 40 + off
def below (a n : Nat) : Nat := min n (hostTop - a)

/-- A read of BAR0: 4 or 8 bytes, naturally aligned (R350). -/
def State.readBar0 (s : State) (off len : Nat) : State :=
  if (len ≠ 4 ∧ len ≠ 8) ∨ off % len ≠ 0 ∨ 0x4000000 ≤ off then s.hostAbort
  else s.modHost fun h => { h with
    aborted := false, readOut := ((leBytes 8 (s.bar0 (off / 8 * 8)).toNat).drop (off % 8)).take len }

/-- A read of BAR2 (R203). -/
def State.hostRead (s : State) (off len : Nat) : State :=
  let a := s.bar2 off
  if s.host.lowWater then s.modHost fun h => { h with readOut := List.replicate len 0xFF }
  else
    let r := s.readSpan (s.localPa a) (below a len) s.host.tide
    r.1.modHost fun h => { h with
      tide := r.2.1, aborted := false, readOut := r.2.2 ++ List.replicate (len - below a len) 0xFF }
/-- HOST_READ (R203, R350). -/
def execHostRead (off : HostBar) (len : Nat) (s : State) : Host.Outcome State Fault Refusal :=
  match off with
  | .bar0 off => .next (s.readBar0 off len)
  | .bar2 off => .next (s.hostRead off len)
/-- A write of BAR2 (R353). -/
def State.bar2Write (s : State) (off : Nat) (data : List Byte) : State :=
  let a := s.bar2 off
  if s.host.lowWater then s
  else
    let r := s.writeSpan (s.localPa a) (data.take (below a data.length)) s.host.tide
    r.1.modHost fun h => { h with tide := r.2 }
/-- A write of BAR0 is a REGISTER_WRITE of 4 or 8 bytes; any other size gets Completer Abort (R350). -/
def State.bar0Write (s : State) (off : Nat) (data : List Byte) : State :=
  if data.length = 8 then s.registerWrite off true (dwordOf data 0)
  else if data.length = 4 then s.registerWrite off false (dwordOf (data ++ List.replicate 4 0) 0)
  else s.hostAbort
/-- HOST_WRITE (R350, R353). -/
def State.hostWrite (s : State) : HostBar → List Byte → State
  | .bar0 off, data => s.bar0Write off data
  | .bar2 off, data => s.bar2Write off data
def execHostWrite (off : HostBar) (data : List Byte) (s : State) : Host.Outcome State Fault Refusal := .next (s.hostWrite off data)

/-- The matching atomic of an AtomicOp (R219, R220, R353); a 128-bit CAS has none (R349). -/
def hostElem (op : HostAtomic) (wide : Bool) : Option (ElemOp × Nat × Nat) :=
  match op with
  | .fetchAdd v => some (.int (.int .add) wide, v.toNat, 0)
  | .swap v => some (.int .xchg wide, v.toNat, 0)
  | .cas c n => some (.cas wide, c.toNat, n.toNat)
  | .cas128 => none
/-- An AtomicOp on BAR2 (R353). A misaligned one gets Completer Abort, which is the model's choice (notes/assumptions/140). -/
def State.hostElemOp (s : State) (off : Nat) (wide : Bool) (e : ElemOp × Nat × Nat) : State :=
  let a := s.bar2 off
  let n := intBytes wide
  if a % n ≠ 0 then s.hostAbort
  else if s.host.lowWater ∨ hostTop ≤ a then s.modHost fun h => { h with readOut := List.replicate n 0xFF }
  else
    let loc := s.localPa a
    let m := 2 ^ (8 * n)
    let r := s.claim loc s.host.tide none
    let old := r.1.natAt (r.1.fwd loc) n
    let x := match e.1.new old (e.2.1 % m) (e.2.2 % m) with
      | some v => (r.1.poke (r.1.fwd loc) (leBytes n v)).wrote [(r.1.fwd loc, n)] r.2
      | none => r.1
    x.modHost fun h => { h with tide := r.2, aborted := false, readOut := leBytes n old }
/-- HOST_ATOMICOP (R349, R350, R353): an AtomicOp to BAR0 and a 128-bit CAS get Completer Abort. -/
def State.hostAtomic (s : State) (off : HostBar) (wide : Bool) (op : HostAtomic) : State :=
  match off, hostElem op wide with
  | .bar2 off, some e => s.hostElemOp off wide e
  | _, _ => s.hostAbort
def execHostAtomicop (off : HostBar) (wide : Bool) (op : HostAtomic) (s : State) :
    Host.Outcome State Fault Refusal := .next (s.hostAtomic off wide op)

/-- VECTOR_0_HOLDOFF_EXPIRY (R355). -/
def execVector0HoldoffExpiry (s : State) : Host.Outcome State Fault Refusal :=
  .next (if s.host.vec0Due then (s.raiseVector 0).modHost fun h => { h with vec0Due := false, holdoff := true }
    else s.modHost fun h => { h with holdoff := false })

/-! ## Migration (R342) -/

/-- A line that a move must wait for: locked by an engine, or with an era bump that holds a cell of it. -/
def State.lineHeld (s : State) (loc : Nat) : Bool :=
  (s.locks.any fun k => decide (k.first ≤ loc / 128) && decide (loc / 128 ≤ k.last)) ||
    s.bumps.any fun b => b.holds && decide (b.pa / 128 = loc / 128)
/-- A line moved with its lease, its cells and its monitors. -/
def State.moveLine (s : State) (src dst : Nat) : State :=
  let s := s.settle (src / 128) 0
  let l := s.lineAt (src / 128)
  let s := (s.poke dst (s.bytesAt src 128)).setLine (dst / 128) { l with owner := none, evicting := false }
  let cells := (List.range 8).filterMap fun i => (sfind s.decided (src / 16 + i)).map fun x => (dst / 16 + i, x)
  { s with
    monitors := s.monitors.map fun m => if m.line = src / 128 then { m with line := dst / 128 } else m
    decided := cells.foldl (fun d e => sins d e.1 e.2) s.decided
    poisoned := s.poisoned ++ (if s.poisoned.contains (src / 128) then [dst / 128] else []) }
/-- MIGRATION_LINE_MOVE; none in low-water mode (R373). -/
def State.migrate (s : State) (e : Nat) : State :=
  let m := sget ({} : Migration) s.host.migration e
  let src := s.localPa (m.src.toNat / 65536 * 65536) + 128 * m.progress
  let dst := s.localPa (m.dst.toNat / 65536 * 65536) + 128 * m.progress
  if s.host.lowWater ∨ m.st ≠ 1 ∨ 512 ≤ m.progress ∨ s.lineHeld src then s
  else (s.moveLine src dst).modHost fun h => { h with
    migration := sput {} h.migration e { m with progress := m.progress + 1, st := if m.progress = 511 then 2 else 1 } }
def execMigrationLineMove (e : Nat) (s : State) : Host.Outcome State Fault Refusal := .next (s.migrate e)

/-! ## Links and arbiters (R360 to R362) -/

/-- LINK_FLIT (R360): a flit with a CRC error is replayed; another stays in its package, or takes a credit of the link it leaves
by. The links do not run in low-water mode (R373). -/
def execLinkFlit (link : Nat) (crcOk : Bool) (dest : BitVec 12) (cls : BitVec 2) (s : State) : Host.Outcome State Fault Refusal :=
  if 18 ≤ link ∨ cls = 3 ∨ s.host.lowWater then .next s
  else if !crcOk then .next (s.modHost fun h => { h with replays := sput 0 h.replays link (sget 0 h.replays link + 1) })
  else
    let s := s.creditBack link cls.toNat
    if dest = s.host.number then .next (s.modHost fun h => { h with egress := none })
    else match s.bestLink dest.toNat cls.toNat with
      | none => .next (s.modHost fun h => { h with egress := none })
      | some l => .next ((s.takeCredit l cls.toNat).modHost fun h =>
          { h with egress := some l })
/-- LINK_FAILURE (R361): the link leaves every routing mask. -/
def execLinkFailure (link : Nat) (s : State) : Host.Outcome State Fault Refusal :=
  if 18 ≤ link then .next s
  else .next (s.modHost fun h => { h with
    linksDown := sput false h.linksDown link true
    routes := h.routes.filterMap fun e =>
      let m := e.2 &&& ~~~(1#18 <<< link)
      if m = 0 then none else some (e.1, m) })

/-- Class of a head at a port, with its age. -/
def headAge (a : Arbiter) (h : Head) : Nat := sget 0 a.ages h.port
/-- Priority without saturation: class, then age, then the lower port. -/
def beats (a : Arbiter) (x y : Head) : Bool :=
  decide (y.cls.toNat < x.cls.toNat) || (decide (x.cls = y.cls) &&
    (decide (headAge a y < headAge a x) || (decide (headAge a x = headAge a y) && decide (x.port < y.port))))
def bestHead (a : Arbiter) (l : List Head) : Option Head :=
  l.foldl (fun b h => match b with
    | none => some h
    | some x => if beats a h x then some h else some x) none
/-- The first saturated head at or after the pointer. -/
def nextSaturated (a : Arbiter) (l : List Head) : Option Head :=
  let sat := l.filter fun h => decide (headAge a h = 63)
  let first (m : List Head) : Option Head := m.foldl (fun b h => match b with
    | none => some h
    | some x => if h.port < x.port then some h else some x) none
  match first (sat.filter fun h => decide (a.pointer ≤ h.port)) with
  | some h => some h
  | none => first sat
def Arbiter.arbitrate (a : Arbiter) (l : List Head) : Arbiter :=
  let sat := nextSaturated a l
  match sat.orElse fun _ => bestHead a l with
  | none => { a with won := none }
  | some w =>
    { pointer := if sat.isSome then w.port + 1 else a.pointer, won := some w.port,
      ages := sputs 0 [] (l.map fun h => (h.port, if h.port = w.port then 0 else min 63 (headAge a h + 1))) }
/-- RING_ARBITRATION (R362); none in low-water mode (R373). -/
def execRingArbitration (arb : Nat) (heads : List Head) (s : State) : Host.Outcome State Fault Refusal :=
  .next (s.unlessLow (s.modHost fun h => { h with arbs := sput {} h.arbs arb ((sget {} h.arbs arb).arbitrate heads) }))

end Sys2Proof.Machine
end

