-- ==== Sys2Proof/Machine/Interval.lean ====
section
/-!
DEFINITION. The interval arithmetic, set and compare instructions, MAJ 0x08 to 0x0A (R146 to R156).
-/
namespace Sys2Proof.Machine

def wordsIn : FW → Nat
  | .s => 2
  | .d => 4

/-- The extra half-rate cycle: a .D instruction of class 0x08 that is not uniform (R39, R148). -/
def halfRate (w : FW) (srcs : List Src) (b : Bool) : Bool := w == .d && !(srcs.all Src.uniform && b)

/-- The interval in a register source of a lane (R146). -/
def Group.ival (g : Group) (w : FW) (a : Src) (l : Nat) : Ival := ivOfWords w (g.src a l)
def Group.ivalB (g : Group) (w : FW) (b : SrcB) (ws : List Word) (l : Nat) : Ival := ivOfWords w (g.srcB b ws l)
/-- The point in a register source of a lane. -/
def Group.pt (g : Group) (w : FW) (a : Src) (l : Nat) : Pt := ptOfWords w (g.src a l)

/-- An interval written in each active lane. -/
def ivWrites (w : FW) (act : Word) (d : Dst) (f : Nat → Ival) : Writes :=
  dstWrites act d (wordsIn w) fun l k => ivWord w (f l) k
/-- A point written in each active lane (R147). -/
def ptWrites (w : FW) (act : Word) (d : Dst) (f : Nat → Pt) : Writes :=
  dstWrites act d (wordsIn w / 2) fun l k => ptWord w (f l) k

def gateF1 (o : FOp1) (arith : Bool) : Gate :=
  { hd := o.h, rds := [.iv o.w o.a], wrs := [.iv o.w o.d], half := arith && halfRate o.w [o.a] true }
def gateF2 (o : FOp2) (arith : Bool) : Gate :=
  { hd := o.h, rds := .iv o.w o.a :: rdsB o.b (.iv o.w), win := windowB o.b (wordsIn o.w), wrs := [.iv o.w o.d],
    half := arith && halfRate o.w [o.a] o.b.uniform }
def gateF3 (o : FOp3) : Gate :=
  { hd := o.h, rds := [.iv o.w o.a, .iv o.w o.b, .iv o.w o.c], wrs := [.iv o.w o.d],
    half := halfRate o.w [o.a, o.b, o.c] true }

/-- A function of one, two or three intervals in each active lane. -/
def ivBody1 (o : FOp1) (f : Ival → Ival) : Body :=
  pureRes fun c act _ => ivWrites o.w act o.d fun l => f (c.g.ival o.w o.a l)
def ivBody2 (o : FOp2) (f : Ival → Ival → Ival) : Body :=
  pureRes fun c act ws => ivWrites o.w act o.d fun l => f (c.g.ival o.w o.a l) (c.g.ivalB o.w o.b ws l)
def ivBody3 (o : FOp3) (f : Ival → Ival → Ival → Ival) : Body :=
  pureRes fun c act _ => ivWrites o.w act o.d fun l => f (c.g.ival o.w o.a l) (c.g.ival o.w o.b l) (c.g.ival o.w o.c l)

/-! ## Interval arithmetic (R149 to R153) -/

/-- FADD (R149, R150). -/
def execFadd (o : FOp2) (s : State) : Host.Outcome State Fault Refusal :=
  issue (gateF2 o true) (ivBody2 o (Ival.add (fmtOf o.w))) s
/-- FSUB (R149, R150). -/
def execFsub (o : FOp2) (s : State) : Host.Outcome State Fault Refusal :=
  issue (gateF2 o true) (ivBody2 o (Ival.sub (fmtOf o.w))) s
/-- FMUL (R149, R150). -/
def execFmul (o : FOp2) (s : State) : Host.Outcome State Fault Refusal :=
  issue (gateF2 o true) (ivBody2 o (Ival.mul (fmtOf o.w))) s
/-- FDIV (R149, R150). -/
def execFdiv (la : BitVec 4) (o : FOp2) (s : State) : Host.Outcome State Fault Refusal :=
  issue { gateF2 o true with long := some la } (ivBody2 o (Ival.div (fmtOf o.w))) s

/-- FDIVX's gate: both destinations as one group aligned as the width, and the predicate (R151). -/
def gateFdivx (la : BitVec 4) (o : FOpX) : Gate :=
  { hd := o.h, long := some la, rds := [.iv o.w o.a, .iv o.w o.b],
    wrs := [.dst o.d (2 * wordsIn o.w) (wordsIn o.w), .p o.p.toNat], half := halfRate o.w [o.a, o.b] true }
/-- FDIVX's writes (R151). -/
def fdivxWrites (o : FOpX) (c : Ctx) (act : Word) : Writes :=
  let q (l : Nat) := (c.g.ival o.w o.a l).divx (fmtOf o.w) (c.g.ival o.w o.b l)
  let n := wordsIn o.w
  (dstWrites act o.d (2 * n) fun l k => if k < n then ivWord o.w (q l).1 k else ivWord o.w (q l).2.1 (k - n)).append
    (pWrites act o.p.toNat fun l => (q l).2.2)
/-- FDIVX (R151). -/
def execFdivx (la : BitVec 4) (o : FOpX) (s : State) : Host.Outcome State Fault Refusal :=
  issue (gateFdivx la o) (pureRes fun c act _ => fdivxWrites o c act) s

/-- FFMA (R149, R150). -/
def execFfma (o : FOp3) (s : State) : Host.Outcome State Fault Refusal :=
  issue (gateF3 o) (ivBody3 o (Ival.fma (fmtOf o.w))) s
/-- FSQR (R149, R150). -/
def execFsqr (o : FOp1) (s : State) : Host.Outcome State Fault Refusal :=
  issue (gateF1 o true) (ivBody1 o (Ival.sqr (fmtOf o.w))) s
/-- FSQRT (R149, R150). -/
def execFsqrt (la : BitVec 4) (o : FOp1) (s : State) : Host.Outcome State Fault Refusal :=
  issue { gateF1 o true with long := some la } (ivBody1 o (Ival.sqrt (fmtOf o.w))) s
/-- FMIN (R149). -/
def execFmin (o : FOp2) (s : State) : Host.Outcome State Fault Refusal := issue (gateF2 o true) (ivBody2 o Ival.min) s
/-- FMAX (R149). -/
def execFmax (o : FOp2) (s : State) : Host.Outcome State Fault Refusal := issue (gateF2 o true) (ivBody2 o Ival.max) s
/-- FABS (R149). -/
def execFabs (o : FOp1) (s : State) : Host.Outcome State Fault Refusal := issue (gateF1 o true) (ivBody1 o Ival.abs) s
/-- FNEG (R149). -/
def execFneg (o : FOp1) (s : State) : Host.Outcome State Fault Refusal := issue (gateF1 o true) (ivBody1 o Ival.neg) s
/-- FPOWN (R153). -/
def execFpown (o : FOp1) (n : BitVec 10) (s : State) : Host.Outcome State Fault Refusal :=
  issue (gateF1 o true) (ivBody1 o (Ival.pown (fmtOf o.w) n.toInt)) s
/-- FEXP2 (R152). -/
def execFexp2 (la : BitVec 4) (o : FOp1) (s : State) : Host.Outcome State Fault Refusal :=
  issue { gateF1 o true with long := some la } (ivBody1 o (Ival.exp2 o.w)) s
/-- FLOG2 (R152). -/
def execFlog2 (la : BitVec 4) (o : FOp1) (s : State) : Host.Outcome State Fault Refusal :=
  issue { gateF1 o true with long := some la } (ivBody1 o (Ival.log2 o.w)) s

/-! ## Interval set operations (R154) -/

/-- FHULL (R154). -/
def execFhull (o : FOp2) (s : State) : Host.Outcome State Fault Refusal := issue (gateF2 o false) (ivBody2 o Ival.hull) s
/-- FISECT (R154). -/
def execFisect (o : FOp2) (s : State) : Host.Outcome State Fault Refusal :=
  issue (gateF2 o false) (ivBody2 o Ival.isect) s

/-- An operation with a point destination (R147). -/
def toPoint (o : FOp1) (f : Ival → Pt) (s : State) : Host.Outcome State Fault Refusal :=
  issue { hd := o.h, rds := [.iv o.w o.a], wrs := [.pt o.w o.d] }
    (pureRes fun c act _ => ptWrites o.w act o.d fun l => f (c.g.ival o.w o.a l)) s

/-- FMID (R154, R56). -/
def execFmid (o : FOp1) (s : State) : Host.Outcome State Fault Refusal := toPoint o (Ival.mid (fmtOf o.w)) s
/-- FRAD (R154). -/
def execFrad (o : FOp1) (s : State) : Host.Outcome State Fault Refusal := toPoint o (Ival.rad (fmtOf o.w)) s
/-- FWID (R154). -/
def execFwid (o : FOp1) (s : State) : Host.Outcome State Fault Refusal := toPoint o (Ival.wid (fmtOf o.w)) s
/-- FMAG (R154). -/
def execFmag (o : FOp1) (s : State) : Host.Outcome State Fault Refusal := toPoint o Ival.mag s
/-- FMIG (R154). -/
def execFmig (o : FOp1) (s : State) : Host.Outcome State Fault Refusal := toPoint o Ival.mig s
/-- FINF (R154). -/
def execFinf (o : FOp1) (s : State) : Host.Outcome State Fault Refusal := toPoint o Ival.inf s
/-- FSUP (R154). -/
def execFsup (o : FOp1) (s : State) : Host.Outcome State Fault Refusal := toPoint o Ival.sup s

/-- FMAKE (R154). -/
def execFmake (o : FOpM) (s : State) : Host.Outcome State Fault Refusal :=
  issue { hd := o.h, hold := holdSrc o.hold (some o.a) (regB o.b) none, rds := .pt o.w o.a :: rdsB o.b (.pt o.w),
          win := windowB o.b (wordsIn o.w / 2), wrs := [.iv o.w o.d] }
    (pureRes fun c act ws => ivWrites o.w act o.d fun l =>
      Ival.ofPts (c.g.pt o.w o.a l) (ptOfWords o.w (c.g.srcB o.b ws l))) s
/-- FPOINT (R154, R55). -/
def execFpoint (o : FOpP) (s : State) : Host.Outcome State Fault Refusal :=
  issue { hd := o.h, hold := holdSrc o.hold (some o.a) none none, rds := [.pt o.w o.a], wrs := [.iv o.w o.d] }
    (pureRes fun c act _ => ivWrites o.w act o.d fun l => Ival.ofPt (fmtOf o.w) (c.g.pt o.w o.a l)) s

/-! ## Interval comparison (R155, R156) -/

/-- FCMP (R58, R155). -/
def execFcmp (h : Hd) (d : BitVec 3) (a b : Src) (cc : Cond) (w : FW) (s : State) : Host.Outcome State Fault Refusal :=
  issue { hd := h, rds := [.iv w a, .iv w b], wrs := [.p d.toNat] }
    (pureRes fun c act _ => pWrites act d.toNat fun l => (c.g.ival w a l).cmp cc (c.g.ival w b l)) s

/-- A set relation (R59, R155). -/
def relation (o : FOpR) (f : Ival → Ival → Bool) (s : State) : Host.Outcome State Fault Refusal :=
  issue { hd := o.h, rds := [.iv o.w o.a, .iv o.w o.b], wrs := [.p o.d.toNat] }
    (pureRes fun c act _ => triWrites act o.d fun l => triBool (f (c.g.ival o.w o.a l) (c.g.ival o.w o.b l))) s

/-- FSUBSET (R155). -/
def execFsubset (o : FOpR) (s : State) : Host.Outcome State Fault Refusal := relation o Ival.subset s
/-- FINTERIOR (R155). -/
def execFinterior (o : FOpR) (s : State) : Host.Outcome State Fault Refusal := relation o Ival.interior s
/-- FDISJ (R155). -/
def execFdisj (o : FOpR) (s : State) : Host.Outcome State Fault Refusal := relation o Ival.disj s
/-- FCONTAINS (R155). -/
def execFcontains (o : FOpR) (s : State) : Host.Outcome State Fault Refusal :=
  issue { hd := o.h, hold := holdSrc o.hold none (some o.b) none, rds := [.iv o.w o.a, .pt o.w o.b],
          wrs := [.p o.d.toNat] }
    (pureRes fun c act _ => triWrites act o.d fun l => triBool ((c.g.ival o.w o.a l).contains (c.g.pt o.w o.b l))) s

/-- The raw images of an interval's bounds. -/
def rawLo (w : FW) (f : Nat → Word) : Nat := match w with
  | .s => (f 0).toNat
  | .d => (f 0).toNat + 2 ^ 32 * (f 1).toNat
def rawHi (w : FW) (f : Nat → Word) : Nat := match w with
  | .s => (f 1).toNat
  | .d => (f 2).toNat + 2 ^ 32 * (f 3).toNat

/-- FCLASS (R156). -/
def execFclass (h : Hd) (d : Dst) (a : Src) (w : FW) (s : State) : Host.Outcome State Fault Refusal :=
  issue { hd := h, rds := [.iv w a], wrs := [.g32 d] }
    (pureRes fun c act _ => dstWrites act d 1 fun l _ =>
      BitVec.ofNat 32 (classCode (fmtOf w) (rawLo w (c.g.src a l)) (rawHi w (c.g.src a l)))) s

end Sys2Proof.Machine
end

