-- ==== Sys2Proof/Machine/Conversion.lean ====
section
/-!
DEFINITION. The conversion instructions, MAJ 0x0B (R157 to R162).
-/
namespace Sys2Proof.Machine

/-- FWIDEN (R54, R157). -/
def execFwiden (h : Hd) (d : Dst) (a : Src) (s : State) : Host.Outcome State Fault Refusal :=
  issue { hd := h, rds := [.iv .s a], wrs := [.iv .d d] }
    (pureRes fun c act _ => ivWrites .d act d fun l => (c.g.ival .s a l).conv b64) s
/-- FNARROW (R54, R157). -/
def execFnarrow (h : Hd) (d : Dst) (a : Src) (s : State) : Host.Outcome State Fault Refusal :=
  issue { hd := h, rds := [.iv .d a], wrs := [.iv .s d] }
    (pureRes fun c act _ => ivWrites .s act d fun l => (c.g.ival .d a l).conv b32) s
/-- FCVTI (R158). -/
def execFcvti (h : Hd) (d : Dst) (a : Src) (m : CvtMode) (w : FW) (s : State) : Host.Outcome State Fault Refusal :=
  issue { hd := h, rds := [.iv w a], wrs := [.g32 d] }
    (pureRes fun c act _ => dstWrites act d 1 fun l _ => cvtInt w m (c.g.ival w a l)) s

/-- ICVTF's interval (R157). -/
def icvtfIval (u : Bool) (w : FW) (a : Word) : Ival :=
  let q : Rat := if u then (a.toNat : Rat) else (a.toInt : Rat)
  .round (fmtOf w) (.fin q) (.fin q)
/-- ICVTF (R157). -/
def execIcvtf (h : Hd) (hold : Hold) (d : Dst) (a : Src) (u : Bool) (w : FW) (s : State) :
    Host.Outcome State Fault Refusal :=
  issue { hd := h, hold := holdSrc hold (some a) none none, rds := [.w32 a], wrs := [.iv w d] }
    (pureRes fun c act _ => ivWrites w act d fun l => icvtfIval u w (c.g.src32 a l)) s

/-- FCVTBF's word (R159). -/
def cvtbfWord (m : PtMode) (x y : Ival) : Word :=
  BitVec.ofNat 32 (bf16.encPt (x.take .s bf16 m) + 2 ^ 16 * bf16.encPt (y.take .s bf16 m))
/-- FCVTBF (R159). -/
def execFcvtbf (h : Hd) (d : Dst) (a b : Src) (m : PtMode) (s : State) : Host.Outcome State Fault Refusal :=
  issue { hd := h, rds := [.iv .s a, .iv .s b], wrs := [.g32 d] }
    (pureRes fun c act _ => dstWrites act d 1 fun l _ => cvtbfWord m (c.g.ival .s a l) (c.g.ival .s b l)) s

/-- Word l of a packed block: the mantissa string, and the exponent in lane 31 (R160). -/
def packWord (k : Nat) (x : Nat × Nat) (l : Nat) : Word :=
  if l < k then BitVec.ofNat 32 (x.2 / 2 ^ (32 * l)) else if l = 31 then BitVec.ofNat 32 x.1 else 0
def packBlock (k : Nat) (c : Ctx) (act : Word) (a : Src) : Nat × Nat :=
  bfpPack k (lanes.map fun l => if act.getLsbD l then some (b32.dec (c.g.src32 a l).toNat) else none)
/-- FPACK (R160). -/
def execFpack (h : Hd) (hold : Hold) (d : BitVec 8) (a : Src) (k : Fin 7) (s : State) : Host.Outcome State Fault Refusal :=
  issue { hd := h, hold := holdSrc hold (some a) none none, rds := [.w32 a], wrs := [.v d.toNat 1 1] }
    (pureRes fun c act _ =>
      let x := packBlock (k.val + 2) c act a
      dstWrites act (.v d) 1 fun l _ => packWord (k.val + 2) x l) s

/-- The mantissa string held in lanes 0 to k - 1 (R161). -/
def mantString (k : Nat) (c : Ctx) (a : Src) : Nat :=
  (List.range k).foldl (fun n l => n + (c.g.src32 a l).toNat * 2 ^ (32 * l)) 0
/-- FUNPACK (R161). -/
def execFunpack (h : Hd) (hold : Hold) (d : BitVec 8) (a b : Src) (k : Fin 7) (s : State) :
    Host.Outcome State Fault Refusal :=
  issue { hd := h, hold := holdSrc hold (some a) (some b) none, rds := [.w32 a, .w32 b], wrs := [.v d.toNat 2 2] }
    (pureRes fun c act _ =>
      let str := mantString (k.val + 2) c a
      ivWrites .s act (.v d) fun l =>
        Ival.ofPt b32 (bfpPt (k.val + 2) ((c.g.src32 b l).toNat % 256) (mant (k.val + 2) str l))) s

/-- FTOMRAD (R66). -/
def execFtomrad (h : Hd) (d : Dst) (a : Src) (w : FW) (s : State) : Host.Outcome State Fault Refusal :=
  issue { hd := h, rds := [.iv w a], wrs := [.pt w d] }
    (pureRes fun c act _ => dstWrites act d (wordsIn w / 2) fun l k =>
      BitVec.ofNat 32 (mradEnc w (c.g.ival w a l) / 2 ^ (32 * k))) s
/-- FFROMMRAD (R65). -/
def execFfrommrad (h : Hd) (hold : Hold) (d : Dst) (a : Src) (w : FW) (s : State) : Host.Outcome State Fault Refusal :=
  issue { hd := h, hold := holdSrc hold (some a) none none, rds := [.pt w a], wrs := [.iv w d] }
    (pureRes fun c act _ => ivWrites w act d fun l =>
      mradDec w (match w with
        | .s => (c.g.src32 a l).toNat
        | .d => (c.g.src64 a l).toNat)) s

/-- FTRUNC's word (R162). -/
def truncWord (bfh : Bool) (a : Word) : Word :=
  if b32.isNan a.toNat then (if bfh then 0x7FC00000 else 0x00007FC0)
  else if bfh then a &&& 0xFFFF0000 else a >>> 16
/-- FTRUNC (R162). -/
def execFtrunc (h : Hd) (hold : Hold) (d : Dst) (a : Src) (bfh : Bool) (s : State) : Host.Outcome State Fault Refusal :=
  issue { hd := h, hold := holdSrc hold (some a) none none, rds := [.w32 a], wrs := [.g32 d] }
    (pureRes fun c act _ => dstWrites act d 1 fun l _ => truncWord bfh (c.g.src32 a l)) s

end Sys2Proof.Machine
end

