-- ==== Sys2Proof/Machine/Fork.lean ====
section
/-!
DEFINITION. The fork instructions, MAJ 0x0C (R163 to R174), and the events of pools: a spill and a refill.
-/
namespace Sys2Proof.Machine

/-- Step 5: a grid launched without a pool (R167). -/
def noPool (c : Ctx) (act : Word) (s : State) (k : Unit → Res) : Res :=
  if act = 0 then .ok { s := s }
  else if c.pk.poolEnt = 0 then .trap { illegalInstruction with lanes := some act } s
  else k ()

/-- A register block that step 3 checks in a grid with a pool only (R167). -/
def frameBad (pk : Packet) (n : Nat) : Bool := decide (pk.poolEnt ≠ 0) && decide (pk.regs < n + pk.poolN)

def frameRegs (n cnt : Nat) : List Reg := regRange .v n cnt

/-- The frame words of a lane. -/
def Group.frame (g : Group) (base cnt l : Nat) : List Word := (List.range cnt).map fun k => g.getV (base + k) l

/-- One push an instruction makes: the lane and the entry's bytes. -/
abbrev Push := Nat × List Byte

/-- The pushes of SPLIT and SPAWN once it is known how many are made (R168, R169, R173). -/
def State.doPushes (s : State) (c : Ctx) (l : List Push) : Except TrapInfo State := do
  if l.isEmpty then return s
  else
    let r ← s.liveAdd (some c.t.core) c.pk l.length c.g.tide
    let x ← l.foldlM (fun (a : State × Nat) e => a.1.pushSpill c.g.team c.pk e.2 a.2) r
    return x.1.raiseTide c.gid x.2

/-- Pushes, spills, the live count and the lanes' results (R41, R168, R169, R174). -/
def pushRes (s : State) (c : Ctx) (act : Word) (l : List Push) (w : List Nat → Writes) : Res :=
  let n := pushCount (c.pk.poolEnt - c.t.resvPool) l.length c.t.pool.length (c.t.spillFree c.pk)
  let full := decide (0 < n) && decide (c.t.poolFree c.pk = 0)
  if c.pk.pxen && decide (n < l.length) then .trap (ownTrap c act .poolExhausted) s
  else if full && !c.g.poolTry then .stall .pool s
  else match s.doPushes c (l.take n) with
    | .error t => .trap (onceFor t act) s
    | .ok s' =>
      .ok { s := s', w := w ((l.take n).map Prod.fst),
            endRun := decide (c.t.poolFree c.pk < n) }

/-! ## SPLIT (R168) -/

/-- The halves of a frame interval, or none where it cannot be bisected. -/
def halves (x : Ival) : Option (Ival × Ival) :=
  match x, x.mid b64 with
  | .mk a b, .num m => if m = a ∨ m = b then none else some (.mk a m, .mk m b)
  | _, _ => none

def frameIval (g : Group) (fb l : Nat) : Ival := ivOfWords .d fun k => g.getV (fb + k) l

/-- The pushes SPLIT wants to make. -/
def splitPushes (c : Ctx) (act : Word) (site : Nat) : List Push :=
  (lanesOf act).filterMap fun l => (halves (frameIval c.g c.pk.poolFb l)).map fun h =>
    (l, taskBytes site ((List.range 4).map (ivWord .d h.2) ++ (c.g.frame c.pk.poolFb c.pk.poolN l).drop 4))

/-- The frames and predicates SPLIT leaves, given the lanes whose push was made. -/
def splitWrites (c : Ctx) (act : Word) (d : BitVec 3) (made : List Nat) : Writes :=
  let fb := c.pk.poolFb
  { v := made.flatMap fun l => match halves (frameIval c.g fb l) with
      | some h => (List.range 4).map fun k => (32 * (fb + k) + l, ivWord .d h.1 k)
      | none => [],
    p := (triWrites act d fun l => if made.contains l then .t
      else if (halves (frameIval c.g fb l)).isSome then .f else .u).p }

def splitGate (h : Hd) (d : BitVec 3) (pk : Packet) : Gate :=
  { hd := h, exReads := if pk.poolEnt = 0 then [] else frameRegs pk.poolFb pk.poolN,
    wrs := .p d.toNat :: (if pk.poolEnt = 0 then [] else [.v pk.poolFb 4 1]), badOperand := frameBad pk pk.poolFb,
    noHandler := true, memory := true }
def splitBody (d site : BitVec 3) : Body := fun s c act _ =>
  noPool c act s fun _ => pushRes s c act (splitPushes c act site.toNat) (splitWrites c act d)
/-- SPLIT (R168). -/
def execSplit (h : Hd) (d site : BitVec 3) (s : State) : Host.Outcome State Fault Refusal :=
  issueBy (fun c => splitGate h d c.pk) (splitBody d site) s

/-! ## SPAWN (R169) -/

def spawnReg : Src → Nat
  | .v n => n.toNat
  | _ => 0
def spawnKindBad : Src → Bool
  | .v n => decide (n.toNat % 4 ≠ 0)
  | _ => true

def spawnGate (h : Hd) (d : BitVec 3) (a : Src) (pk : Packet) : Gate :=
  { hd := h, exReads := if pk.poolEnt = 0 then [] else frameRegs (spawnReg a) pk.poolN, wrs := [.p d.toNat],
    badOperand := spawnKindBad a || frameBad pk (spawnReg a), noHandler := true, memory := true }
def spawnBody (d : BitVec 3) (a : Src) (site : BitVec 3) : Body := fun s c act _ =>
  noPool c act s fun _ =>
    pushRes s c act
      ((lanesOf act).map fun l => (l, taskBytes site.toNat (c.g.frame (spawnReg a) c.pk.poolN l)))
      (fun made => triWrites act d fun l => triBool (made.contains l))
/-- SPAWN (R169). -/
def execSpawn (h : Hd) (d : BitVec 3) (a : Src) (site : BitVec 3) (s : State) : Host.Outcome State Fault Refusal :=
  issueBy (fun c => spawnGate h d a c.pk) (spawnBody d a site) s

/-! ## TAKE (R170) -/

/-- What TAKE must do before it can pop for a lane (R165). -/
inductive TakeNeed where
  | pop
  | refill
  | spill
  | nothing
deriving DecidableEq, Repr

def State.takeNeed (s : State) (h : Nat) (pk : Packet) (site : Nat) : TakeNeed :=
  match s.team? h with
  | none => .nothing
  | some t =>
    if (s.poolSites t pk).contains site then .pop
    else if t.poolFree pk = 0 then
      if spillRoom t.pool.length (t.spillFree pk) then .spill else .nothing
    else if (s.spillSites t pk).contains site then .refill else .nothing

/-- One task for a lane, with the spill and refill it needs (R165): the task, the state, whether it stalled, and the tide
time. -/
def State.takeOne (s : State) (h : Nat) (pk : Packet) (site tide : Nat) :
    Except TrapInfo (Option Task × State × Bool × Nat) := do
  let need := s.takeNeed h pk site
  let x ← (if need = .spill then s.spillTasks h pk tide (halfOf (((s.team? h).map fun t => t.pool.length).getD 0))
    else return (s, tide))
  let x ← (if x.1.takeNeed h pk site = .refill then x.1.refillTasks h pk site x.2 else return x)
  let stalled := need == .spill || need == .refill
  match x.1.popTask h pk site x.2 with
  | none => return (none, x.1, stalled, x.2)
  | some (t, s) => return (some t, s, stalled, t.time)

/-- Tasks for the active lanes, ascending, until none is left. -/
def State.takeAll (s : State) (h : Nat) (pk : Packet) (site tide : Nat) : List Nat →
    Except TrapInfo (List (Nat × Task) × State × Bool × Nat)
  | [] => .ok ([], s, false, tide)
  | l :: r => do
    let x ← s.takeOne h pk site tide
    match x.1 with
    | none => return ([], x.2)
    | some t =>
      let y ← x.2.1.takeAll h pk site x.2.2.2 r
      return ((l, t) :: y.1, y.2.1, x.2.2.1 || y.2.2.1, y.2.2.2)

/-- Frames, task bits and predicates of the lanes that received tasks (R170). -/
def takeWrites (c : Ctx) (act : Word) (d : BitVec 3) (got : List (Nat × Task)) (rest : Tri) : Writes :=
  { v := got.flatMap fun e => (List.range c.pk.poolN).map fun k => (32 * (c.pk.poolFb + k) + e.1, frameWord e.2.bytes k),
    p := (triWrites act d fun l => if got.any fun e => e.1 == l then .t else rest).p }

/-- Step 3 of R170: the live count, and a steal request. -/
def State.takeRest (s : State) (c : Ctx) (site tide : Nat) (need : Bool) : Except TrapInfo (State × Nat × Tri) := do
  if !need then return (s, tide, .f)
  else
    let r ← s.liveRead c.t.core c.pk c.g.lease.toNat tide
    if r.2.2 = 0 then return (r.1, r.2.1, .u)
    else return (r.1.sendSteal c.g.team c.pk site, r.2.1, .f)

def State.takeAct (s : State) (c : Ctx) (act : Word) (d : BitVec 3) (site : Nat) : Except TrapInfo Perf := do
  let s ← s.endTasks c act
  let tide := ((s.group? c.gid).map Group.tide).getD c.g.tide
  let x ← s.takeAll c.g.team c.pk site tide (lanesOf act)
  let y ← x.2.1.takeRest c site x.2.2.2 (decide (x.1.length < (lanesOf act).length))
  let m := maskOf fun l => x.1.any fun e => e.1 == l
  let s := (y.1.raiseTide c.gid y.2.1).modGroup c.gid fun g => { g with h := g.h ||| m }
  return { s := s, w := takeWrites c act d x.1 y.2.2, endRun := x.2.2.1 }

/-- A wait that must come first: the first task's refill or spill (R165). -/
def State.takeWait (s : State) (c : Ctx) (site : Nat) : Option Stall :=
  if c.g.poolTry then none
  else match s.takeNeed c.g.team c.pk site with
    | .refill => some (.poolRefill site)
    | .spill => some .pool
    | _ => none

def takeBody (d site : BitVec 3) : Body := fun s c act _ =>
  noPool c act s fun _ =>
    match s.takeWait c site.toNat with
    | some w => .stall w s
    | none => match s.takeAct c act d site.toNat with
      | .error t => .trap (onceFor t act) s
      | .ok p => .ok p
def takeGate (h : Hd) (d : BitVec 3) (pk : Packet) : Gate :=
  { hd := h, wrs := .p d.toNat :: (if pk.poolEnt = 0 then [] else [.v pk.poolFb pk.poolN 1]),
    badOperand := frameBad pk pk.poolFb, noHandler := true, memory := true }
/-- TAKE (R170). -/
def execTake (h : Hd) (d site : BitVec 3) (s : State) : Host.Outcome State Fault Refusal :=
  issueBy (fun c => takeGate h d c.pk) (takeBody d site) s

/-! ## TEND and POOLQ (R171, R172) -/

def tendBody : Body := fun s c act _ =>
  noPool c act s fun _ => match s.endTasks c act with
    | .error t => .trap (onceFor t act) s
    | .ok s => .ok { s := s }
/-- TEND (R171). -/
def execTend (h : Hd) (s : State) : Host.Outcome State Fault Refusal := issue { hd := h, noHandler := true, memory := true } tendBody s

/-- POOLQ's value (R172). -/
def poolqVal (s : State) (c : Ctx) : PoolSel → Nat
  | .tasks => c.t.pool.length
  | .spilled => c.t.spill.length
  | .cap => c.pk.poolEnt
  | .spillCap => c.pk.spillEnt
  | .steals => c.t.steals.toNat
  | .poolSite k => ((s.poolSites c.t c.pk).filter fun x => x == k.toNat).length
  | .spillSite k => ((s.spillSites c.t c.pk).filter fun x => x == k.toNat).length
def poolqBody (d : Dst) (sel : PoolSel) : Body := fun s c act _ =>
  noPool c act s fun _ => .ok { s := s, w := dstWrites act d 1 fun _ _ => BitVec.ofNat 32 (poolqVal s c sel) }
/-- POOLQ (R172). -/
def execPoolq (h : Hd) (d : Dst) (sel : PoolSel) (s : State) : Host.Outcome State Fault Refusal :=
  issue { hd := h, wrs := [.g32 d] } (poolqBody d sel) s

/-! ## Events -/

/-- The groups of a team that wait for a pool spill, or for a refill of a site. -/
def State.poolWaiters (s : State) (h : Nat) (w : Stall) : List Nat :=
  match s.team? h with
  | none => []
  | some t => t.gids.filter fun g => decide ((s.group? g).map Group.stall = some (some w))

/-- The waiting groups re-execute, with the spill or refill made or found impossible. -/
def State.wakePool (s : State) (l : List Nat) (made : Bool) : State :=
  l.foldl (fun s g => s.modGroup g fun x => { x with stall := none, poolTry := made }) s

/-- POOL_SPILL: the oldest half of a full pool goes to the spill segment (R41). One that faults is made by the waiting instruction
itself, which raises the fault for its active lanes (R206, R323). -/
def execPoolSpill (h : Nat) (s : State) : Host.Outcome State Fault Refusal :=
  let ws := s.poolWaiters h .pool
  match ws, s.team? h with
  | g :: _, some t =>
    match s.packet? t.pid, (s.group? g) with
    | some pk, some x =>
      if t.poolFree pk = 0 ∧ spillRoom t.pool.length (t.spillFree pk) then
        match s.spillTasks h pk x.tide (halfOf t.pool.length) with
        | .ok r => .next ((r.1.raiseTide g r.2).wakePool [g] true)
        | .error _ => .next (s.wakePool [g] true)
      else .next (s.wakePool [g] false)
    | _, _ => .next s
  | _, _ => .next s

/-- POOL_REFILL: the newest spilled tasks of a site return to the pool (R165); one that faults is made by the waiting instruction
itself (R206, R323). -/
def execPoolRefill (h : Nat) (site : BitVec 3) (s : State) : Host.Outcome State Fault Refusal :=
  let ws := s.poolWaiters h (.poolRefill site.toNat)
  match ws, s.team? h with
  | g :: _, some t =>
    match s.packet? t.pid, (s.group? g) with
    | some pk, some x =>
      if s.takeNeed h pk site.toNat = .refill then
        match s.refillTasks h pk site.toNat x.tide with
        | .ok r => .next ((r.1.raiseTide g r.2).wakePool [g] true)
        | .error _ => .next (s.wakePool [g] true)
      else .next (s.wakePool [g] false)
    | _, _ => .next s
  | _, _ => .next s

/-- STEAL_REQUEST (R43). -/
def execStealRequest (i : Nat) (s : State) : Host.Outcome State Fault Refusal := .next (s.stealAsk i)
/-- STEAL_SHIPMENT (R43). -/
def execStealShipment (i : Nat) (s : State) : Host.Outcome State Fault Refusal := .next (s.stealLand i)
/-- STEAL_EMPTY (R165). -/
def execStealEmpty (i : Nat) (s : State) : Host.Outcome State Fault Refusal := .next (s.stealEnd i)

end Sys2Proof.Machine
end

