-- ==== Sys2Proof/Machine/Hart.lean ====
section
/-!
DEFINITION. The distributor's harts: their address map (R287, R288, R300), and their execution of RV64IMAC (R287, R290). The
meaning of a RISC-V instruction is that of the RISC-V unprivileged architecture, which the specification names.
-/
namespace Sys2Proof.Machine

/-! ## The harts' address map (R287, R288, R300) -/

def State.hartData (s : State) (bs : List Byte) : State := s.modHost fun h => { h with hartOut := bs, hartFault := false }
def State.hartFaults (s : State) : State := s.modHost fun h => { h with hartFault := true, hartOut := [] }
def State.hartOk (s : State) : State := s.modHost fun h => { h with hartFault := false }

/-- A mechanism block's registers as bytes. -/
def Mech.status (m : Mech) : DWord := BitVec.ofNat 64 (boolBit m.busy + m.result * 2 ^ 8 + m.value.toNat * 2 ^ 32)
def Mech.bytes (m : Mech) : List Byte :=
  leDwords [0, m.arg.getD 0 0, m.arg.getD 1 0, m.arg.getD 2 0, m.arg.getD 3 0, m.status, m.res0, m.res1]
/-- A store into a mechanism block: operands, and a command when it covers CMD. -/
def State.mechStore (s : State) (h o : Nat) (bs : List Byte) : State :=
  let im := patch (s.mech h).bytes o bs
  let s := s.modMech h fun m => { m with arg := (List.range 4).map fun k => dwordOf im (8 + 8 * k) }
  if o = 0 ∧ bs ≠ [] then s.startCmd h (natOf bs 0 1 % 16) (s.mech h).arg else s

/-- The control block's mirror as bytes. -/
def State.mirror (s : State) (o n : Nat) : List Byte :=
  (List.range n).map fun i => (leBytes 8 (s.distReg ((o + i) / 8 * 8)).toNat).getD ((o + i) % 8) 0

/-- Where a hart's address leads. An access fault at bytes 0x40 to 0xFFF of a mechanism block, and for an atomic or a fetch at a
block, the FIFO register or the mirror, and no effect of a store to the FIFO register or the mirror, are the model's choices
(notes/assumptions/137). -/
inductive HartPlace where
  | sram (o : Nat)
  | mech (h o : Nat)
  | fifo
  | mirror (o : Nat)
  | mem (pa : Nat)
  | out
deriving DecidableEq, Repr
def State.hartPlace (s : State) (a n : Nat) : HartPlace :=
  if a + n ≤ 0x80000 then .sram a
  else if 0x10000000 ≤ a ∧ a < 0x10008000 ∧ a % 0x1000 + n ≤ 0x40 then .mech ((a - 0x10000000) / 0x1000) (a % 0x1000)
  else if a = 0x10010000 ∧ n ≤ 8 then .fifo
  else if 0x10020000 ≤ a ∧ a + n ≤ 0x10021000 then .mirror (a - 0x10020000)
  else if 2 ^ 63 ≤ a ∧ a + n ≤ 2 ^ 63 + 2 ^ 52 ∧ s.ownPackage (a - 2 ^ 63) ∧ s.ownPackage (a + n - 1 - 2 ^ 63) then
    .mem (a - 2 ^ 63)
  else .out

/-- A store to the private SRAM; it breaks the other harts' reservations of its bytes. -/
def State.sramStore (s : State) (hart o : Nat) (bs : List Byte) : State :=
  s.modDist fun d => { d with
    sram := sputs 0 d.sram (bs.zipIdx.map fun e => (o + e.2, e.1))
    harts := d.harts.map fun e => (e.1, match e.2.resv with
      | some (a, n, _) => if e.1 ≠ hart ∧ a < o + bs.length ∧ o < a + n then { e.2 with resv := none } else e.2
      | none => e.2) }

def State.hartLoad (s : State) (hart a n : Nat) : State :=
  match s.hartPlace a n with
  | .sram o => s.hartData ((List.range n).map fun i => sget 0 s.dist.sram (o + i))
  | .mech h o => s.hartData (((s.mech h).bytes.drop o).take n)
  | .fifo =>
    let x := s.fifoPop hart
    x.modHost fun h => { h with hartOut := h.hartOut.take n }
  | .mirror o => s.hartData (s.mirror o n)
  | .mem pa =>
    let r := s.readSpan pa n (s.hartTideOf hart)
    (r.1.setHartTide hart r.2.1).hartData r.2.2
  | .out => s.hartFaults
def State.hartStore (s : State) (hart a : Nat) (bs : List Byte) : State :=
  match s.hartPlace a bs.length with
  | .sram o => (s.sramStore hart o bs).hartOk
  | .mech h o => (s.mechStore h o bs).hartOk
  | .fifo => s.hartOk
  | .mirror _ => s.hartOk
  | .mem pa =>
    let r := s.writeSpan pa bs (s.hartTideOf hart)
    (r.1.setHartTide hart r.2).hartOk
  | .out => s.hartFaults
/-! ## Atomic accesses (R287, R288): the A extension -/

def amoFn {n : Nat} (op : HartAmo) (a b : BitVec n) : BitVec n :=
  match op with
  | .swap => b
  | .add => a + b
  | .xor => a ^^^ b
  | .and => a &&& b
  | .or => a ||| b
  | .min => if a.slt b then a else b
  | .max => if a.slt b then b else a
  | .minu => if a.ult b then a else b
  | .maxu => if a.ult b then b else a
/-- The word an AMO leaves. -/
def amoNew (op : HartAmo) (wide : Bool) (old : Nat) (v : DWord) : Nat :=
  if wide then (amoFn op (BitVec.ofNat 64 old) v).toNat else (amoFn op (BitVec.ofNat 32 old) v.lo).toNat

def State.hart (s : State) (h : Nat) : Hart := sget {} s.dist.harts h
def State.modHart (s : State) (h : Nat) (f : Hart → Hart) : State :=
  s.modDist fun d => { d with harts := sput {} d.harts h (f (sget {} d.harts h)) }

/-- An AMO: at the home of device memory in tide order, or in SRAM; elsewhere an access fault. -/
def State.hartAmo (s : State) (hart a : Nat) (op : HartAmo) (wide : Bool) (v : DWord) : State :=
  let n := intBytes wide
  match s.hartPlace a n with
  | .sram o =>
    let old := (List.range n).map fun i => sget 0 s.dist.sram (o + i)
    (s.sramStore hart o (leBytes n (amoNew op wide (leNat old) v))).hartData old
  | .mem pa =>
    let r := s.claim pa (s.hartTideOf hart) none
    let loc := r.1.fwd pa
    let old := r.1.natAt loc n
    ((((r.1.poke loc (leBytes n (amoNew op wide old v))).wrote [(loc, n)] r.2).setHartTide hart r.2)).hartData (leBytes n old)
  | _ => s.hartFaults

/-- What a reservation remembers of its place: the write time of a line of device memory. -/
def State.resvStamp (s : State) (a n : Nat) : Nat :=
  match s.hartPlace a n with
  | .mem pa => (s.lineAt (leaseKey (s.fwd pa))).wts
  | _ => 0
/-- LR: a load that reserves its bytes. -/
def State.hartLr (s : State) (hart a : Nat) (wide : Bool) : State :=
  let n := intBytes wide
  match s.hartPlace a n with
  | .sram _ => (s.hartLoad hart a n).modHart hart fun k => { k with resv := some (a, n, 0) }
  | .mem _ =>
    let s := s.hartLoad hart a n
    s.modHart hart fun k => { k with resv := some (a, n, s.resvStamp a n) }
  | _ => s.hartFaults
/-- Whether a reservation still holds: the same bytes, with no write to their line of device memory since. -/
def State.resvHolds (s : State) (hart a n : Nat) : Bool :=
  decide ((s.hart hart).resv = some (a, n, s.resvStamp a n)) && (match s.hartPlace a n with
    | .mem pa => (s.lineAt (leaseKey (s.fwd pa))).comm.isNone
    | _ => true)
/-- SC: a store if the reservation holds; 0 tells that it was made, 1 that it was not. -/
def State.hartSc (s : State) (hart a : Nat) (wide : Bool) (v : DWord) : State :=
  let n := intBytes wide
  let ok := s.resvHolds hart a n
  let free (s : State) : State := s.modHart hart fun k => { k with resv := none }
  match s.hartPlace a n with
  | .sram _ | .mem _ =>
    if ok then ((free (s.hartStore hart a (leBytes n v.toNat)))).hartData (leBytes 8 0) else (free s).hartData (leBytes 8 1)
  | _ => (free s).hartFaults

/-! ## Instructions -/

/-- n bits of a word from bit lo. -/
def rvBits (w lo n : Nat) : Nat := w / 2 ^ lo % 2 ^ n
def rvSext (n x m : Nat) : Nat := ((BitVec.ofNat n x).signExtend m).toNat
/-- Words of the base formats, from their fields. -/
def rvI (op f3 rd rs1 imm : Nat) : Nat := op + rd * 2 ^ 7 + f3 * 2 ^ 12 + rs1 * 2 ^ 15 + imm % 2 ^ 12 * 2 ^ 20
def rvR (op f3 f7 rd rs1 rs2 : Nat) : Nat := op + rd * 2 ^ 7 + f3 * 2 ^ 12 + rs1 * 2 ^ 15 + rs2 * 2 ^ 20 + f7 * 2 ^ 25
def rvS (f3 rs1 rs2 imm : Nat) : Nat :=
  0x23 + rvBits imm 0 5 * 2 ^ 7 + f3 * 2 ^ 12 + rs1 * 2 ^ 15 + rs2 * 2 ^ 20 + rvBits imm 5 7 * 2 ^ 25
def rvB (f3 rs1 rs2 imm : Nat) : Nat :=
  0x63 + rvBits imm 11 1 * 2 ^ 7 + rvBits imm 1 4 * 2 ^ 8 + f3 * 2 ^ 12 + rs1 * 2 ^ 15 + rs2 * 2 ^ 20 +
    rvBits imm 5 6 * 2 ^ 25 + rvBits imm 12 1 * 2 ^ 31
def rvJ (rd imm : Nat) : Nat :=
  0x6F + rd * 2 ^ 7 + rvBits imm 12 8 * 2 ^ 12 + rvBits imm 11 1 * 2 ^ 20 + rvBits imm 1 10 * 2 ^ 21 + rvBits imm 20 1 * 2 ^ 31

/-- Bits of a compressed word gathered into an immediate: source bit, length, place. -/
def rvPick (h : Nat) (l : List (Nat × Nat × Nat)) : Nat := (l.map fun e => rvBits h e.1 e.2.1 * 2 ^ e.2.2).sum

/-- The base word of a compressed one, quadrant 0. -/
def rvQ0 (h : Nat) : Option Nat :=
  let a := 8 + rvBits h 7 3
  let b := 8 + rvBits h 2 3
  let sp := rvPick h [(11, 2, 4), (7, 4, 6), (6, 1, 2), (5, 1, 3)]
  let w := rvPick h [(10, 3, 3), (6, 1, 2), (5, 1, 6)]
  let d := rvPick h [(10, 3, 3), (5, 2, 6)]
  match rvBits h 13 3 with
  | 0 => if sp = 0 then none else some (rvI 0x13 0 b 2 sp)
  | 2 => some (rvI 0x03 2 b a w)
  | 3 => some (rvI 0x03 3 b a d)
  | 6 => some (rvS 2 a b w)
  | 7 => some (rvS 3 a b d)
  | _ => none
/-- The arithmetic of quadrant 1. -/
def rvQ1Alu (h : Nat) : Option Nat :=
  let a := 8 + rvBits h 7 3
  let b := 8 + rvBits h 2 3
  let imm := rvPick h [(12, 1, 5), (2, 5, 0)]
  match rvBits h 10 2, rvBits h 12 1, rvBits h 5 2 with
  | 0, _, _ => some (rvI 0x13 5 a a imm)
  | 1, _, _ => some (rvI 0x13 5 a a (imm + 0x400))
  | 2, _, _ => some (rvI 0x13 7 a a (rvSext 6 imm 12))
  | _, 0, 0 => some (rvR 0x33 0 0x20 a a b)
  | _, 0, 1 => some (rvR 0x33 4 0 a a b)
  | _, 0, 2 => some (rvR 0x33 6 0 a a b)
  | _, 0, _ => some (rvR 0x33 7 0 a a b)
  | _, _, 0 => some (rvR 0x3B 0 0x20 a a b)
  | _, _, 1 => some (rvR 0x3B 0 0 a a b)
  | _, _, _ => none
/-- Quadrant 1. -/
def rvQ1 (h : Nat) : Option Nat :=
  let rd := rvBits h 7 5
  let imm := rvPick h [(12, 1, 5), (2, 5, 0)]
  let sp := rvPick h [(12, 1, 9), (6, 1, 4), (5, 1, 6), (3, 2, 7), (2, 1, 5)]
  let j := rvPick h [(12, 1, 11), (11, 1, 4), (9, 2, 8), (8, 1, 10), (7, 1, 6), (6, 1, 7), (3, 3, 1), (2, 1, 5)]
  let b := rvPick h [(12, 1, 8), (10, 2, 3), (5, 2, 6), (3, 2, 1), (2, 1, 5)]
  match rvBits h 13 3 with
  | 0 => some (rvI 0x13 0 rd rd (rvSext 6 imm 12))
  | 1 => if rd = 0 then none else some (rvI 0x1B 0 rd rd (rvSext 6 imm 12))
  | 2 => some (rvI 0x13 0 rd 0 (rvSext 6 imm 12))
  | 3 =>
    if imm = 0 then none
    else if rd = 2 then some (rvI 0x13 0 2 2 (rvSext 10 sp 12))
    else some (0x37 + rd * 2 ^ 7 + rvSext 6 imm 20 * 2 ^ 12)
  | 4 => rvQ1Alu h
  | 5 => some (rvJ 0 (rvSext 12 j 21))
  | 6 => some (rvB 0 (8 + rvBits h 7 3) 0 (rvSext 9 b 13))
  | _ => some (rvB 1 (8 + rvBits h 7 3) 0 (rvSext 9 b 13))
/-- Quadrant 2. -/
def rvQ2 (h : Nat) : Option Nat :=
  let rd := rvBits h 7 5
  let b := rvBits h 2 5
  match rvBits h 13 3 with
  | 0 => some (rvI 0x13 1 rd rd (rvPick h [(12, 1, 5), (2, 5, 0)]))
  | 2 => if rd = 0 then none else some (rvI 0x03 2 rd 2 (rvPick h [(12, 1, 5), (4, 3, 2), (2, 2, 6)]))
  | 3 => if rd = 0 then none else some (rvI 0x03 3 rd 2 (rvPick h [(12, 1, 5), (5, 2, 3), (2, 3, 6)]))
  | 4 =>
    if rvBits h 12 1 = 0 then
      if b ≠ 0 then some (rvR 0x33 0 0 rd 0 b) else if rd = 0 then none else some (rvI 0x67 0 0 rd 0)
    else if b ≠ 0 then some (rvR 0x33 0 0 rd rd b)
    else if rd = 0 then some 0x00100073 else some (rvI 0x67 0 1 rd 0)
  | 6 => some (rvS 2 2 b (rvPick h [(9, 4, 2), (7, 2, 6)]))
  | 7 => some (rvS 3 2 b (rvPick h [(10, 3, 3), (7, 3, 6)]))
  | _ => none
def rvExpand (h : Nat) : Option Nat :=
  match h % 4 with
  | 0 => rvQ0 h
  | 1 => rvQ1 h
  | _ => rvQ2 h

/-- Immediates of a word. -/
def rvImmI (w : Nat) : DWord := (BitVec.ofNat 12 (w / 2 ^ 20)).signExtend 64
def rvImmS (w : Nat) : DWord := (BitVec.ofNat 12 (rvBits w 25 7 * 32 + rvBits w 7 5)).signExtend 64
def rvImmB (w : Nat) : DWord := (BitVec.ofNat 13 (rvPick w [(31, 1, 12), (7, 1, 11), (25, 6, 5), (8, 4, 1)])).signExtend 64
def rvImmU (w : Nat) : DWord := (BitVec.ofNat 32 (w / 2 ^ 12 * 2 ^ 12)).signExtend 64
def rvImmJ (w : Nat) : DWord := (BitVec.ofNat 21 (rvPick w [(31, 1, 20), (12, 8, 12), (20, 1, 11), (21, 10, 1)])).signExtend 64

/-- The integer operations, by funct3 and the alternate bit. -/
def rvAlu {n : Nat} (f3 : Nat) (alt : Bool) (a b : BitVec n) (sh : Nat) : BitVec n :=
  match f3 with
  | 0 => if alt then a - b else a + b
  | 1 => a <<< sh
  | 2 => if a.slt b then 1 else 0
  | 3 => if a.ult b then 1 else 0
  | 4 => a ^^^ b
  | 5 => if alt then a.sshiftRight sh else a >>> sh
  | 6 => a ||| b
  | _ => a &&& b
/-- The M extension, by funct3. -/
def rvMul {n : Nat} (f3 : Nat) (a b : BitVec n) : BitVec n :=
  match f3 with
  | 0 => a * b
  | 1 => BitVec.ofInt n (a.toInt * b.toInt / 2 ^ n)
  | 2 => BitVec.ofInt n (a.toInt * b.toNat / 2 ^ n)
  | 3 => BitVec.ofNat n (a.toNat * b.toNat / 2 ^ n)
  | 4 => if b = 0 then -1 else a.sdiv b
  | 5 => if b = 0 then -1 else a / b
  | 6 => if b = 0 then a else a.srem b
  | _ => if b = 0 then a else a % b
/-- A branch's condition, by funct3. -/
def rvCond (f3 : Nat) (a b : DWord) : Option Bool :=
  match f3 with
  | 0 => some (a == b)
  | 1 => some (a != b)
  | 4 => some (a.slt b)
  | 5 => some (!a.slt b)
  | 6 => some (a.ult b)
  | 7 => some (!a.ult b)
  | _ => none
def rvAmo (f5 : Nat) : Option HartAmo :=
  match f5 with
  | 0 => some .add
  | 1 => some .swap
  | 4 => some .xor
  | 8 => some .or
  | 12 => some .and
  | 16 => some .min
  | 20 => some .max
  | 24 => some .minu
  | 28 => some .maxu
  | _ => none

/-- What a word does. -/
inductive RvAct where
  | write (rd : Nat) (v : DWord)
  | jump (rd : Nat) (dest : DWord)
  | load (rd : Nat) (a : DWord) (n : Nat) (signed : Bool)
  | store (a : DWord) (n : Nat) (v : DWord)
  | lr (rd : Nat) (a : DWord) (wide : Bool)
  | sc (rd : Nat) (a : DWord) (wide : Bool) (v : DWord)
  | amo (rd : Nat) (a : DWord) (op : HartAmo) (wide : Bool) (v : DWord)
  | stop (cause : Nat)
deriving DecidableEq, Repr

def Hart.get (k : Hart) (n : Nat) : DWord := if n = 0 then 0 else sget 0 k.x n
def Hart.set (k : Hart) (n : Nat) (v : DWord) : Hart := if n = 0 then k else { k with x := sput 0 k.x n v }

/-- OP and OP-32. -/
def rvOp (w : Nat) (wide : Bool) (a b : DWord) : RvAct :=
  let f3 := rvBits w 12 3
  let f7 := rvBits w 25 7
  let rd := rvBits w 7 5
  let alt := decide (f7 = 32)
  let base := decide (f7 = 0) || (alt && (decide (f3 = 0) || decide (f3 = 5)))
  if wide then
    if f7 = 1 then .write rd (rvMul f3 a b)
    else if base then .write rd (rvAlu f3 alt a b (b.toNat % 64)) else .stop 2
  else if f7 = 1 ∧ (f3 = 0 ∨ 4 ≤ f3) then .write rd ((rvMul f3 a.lo b.lo).signExtend 64)
  else if base && (decide (f3 = 0) || decide (f3 = 1) || decide (f3 = 5)) then
    .write rd ((rvAlu f3 alt a.lo b.lo (b.toNat % 32)).signExtend 64)
  else .stop 2
/-- OP-IMM and OP-IMM-32. -/
def rvOpImm (w : Nat) (wide : Bool) (a : DWord) : RvAct :=
  let f3 := rvBits w 12 3
  let rd := rvBits w 7 5
  let imm := rvImmI w
  let top := if wide then rvBits w 26 6 * 2 else rvBits w 25 7
  let sh := rvBits w 20 (if wide then 6 else 5)
  let alt := decide (f3 = 5) && decide (top = 32)
  if (f3 = 1 ∧ top ≠ 0) ∨ (f3 = 5 ∧ top ≠ 0 ∧ top ≠ 32) then .stop 2
  else if wide then .write rd (rvAlu f3 alt a imm sh)
  else if f3 = 0 ∨ f3 = 1 ∨ f3 = 5 then .write rd ((rvAlu f3 alt a.lo imm.lo sh).signExtend 64)
  else .stop 2
/-- The A extension. -/
def rvAtomic (w : Nat) (a v : DWord) : RvAct :=
  let f3 := rvBits w 12 3
  let f5 := rvBits w 27 5
  let rd := rvBits w 7 5
  let wide := decide (f3 = 3)
  if f3 ≠ 2 ∧ f3 ≠ 3 then .stop 2
  else if f5 = 2 then (if rvBits w 20 5 = 0 then .lr rd a wide else .stop 2)
  else if f5 = 3 then .sc rd a wide v
  else match rvAmo f5 with
    | some op => .amo rd a op wide v
    | none => .stop 2

/-- A word's action, at a pc with the address of the next word. -/
def rvAct (k : Hart) (w : Nat) (pc next : DWord) : RvAct :=
  let rd := rvBits w 7 5
  let f3 := rvBits w 12 3
  let a := k.get (rvBits w 15 5)
  let b := k.get (rvBits w 20 5)
  match rvBits w 0 7 with
  | 0x37 => .write rd (rvImmU w)
  | 0x17 => .write rd (pc + rvImmU w)
  | 0x6F => .jump rd (pc + rvImmJ w)
  | 0x67 => if f3 = 0 then .jump rd ((a + rvImmI w) &&& ~~~1) else .stop 2
  | 0x63 => match rvCond f3 a b with
    | some true => .jump 0 (pc + rvImmB w)
    | some false => .jump 0 next
    | none => .stop 2
  | 0x03 => if f3 = 7 then .stop 2 else .load rd (a + rvImmI w) (2 ^ (f3 % 4)) (decide (f3 < 4))
  | 0x23 => if 4 ≤ f3 then .stop 2 else .store (a + rvImmS w) (2 ^ f3) b
  | 0x13 => rvOpImm w true a
  | 0x1B => rvOpImm w false a
  | 0x33 => rvOp w true a b
  | 0x3B => rvOp w false a b
  | 0x2F => rvAtomic w a b
  | 0x0F => if f3 ≤ 1 then .write 0 0 else .stop 2
  | 0x73 => if w = 0x73 then .stop 11 else if w = 0x00100073 then .stop 3 else .stop 2
  | _ => .stop 2

/-! ## Execution -/

/-- An exception: no trap handling is given for the harts, so the hart stops with its cause. -/
def State.hartStop (s : State) (hart cause : Nat) (tval : DWord) : State :=
  s.modHart hart fun k => { k with run := false, cause := some cause, tval := tval }
/-- A word done: a register written and the next pc. -/
def State.hartNext (s : State) (hart rd : Nat) (v next : DWord) : State :=
  s.modHart hart fun k => { k.set rd v with pc := next }
/-- What an access read, as a register's value. -/
def rvValue (bs : List Byte) (signed : Bool) : DWord :=
  BitVec.ofNat 64 (if signed then rvSext (8 * bs.length) (leNat bs) 64 else leNat bs)
/-- An access made: its exception where it faulted, else its result written. -/
def State.hartAfter (s : State) (hart cause : Nat) (a : DWord) (rd : Nat) (signed : Bool) (next : DWord) : State :=
  if s.host.hartFault then s.hartStop hart cause a else s.hartNext hart rd (rvValue s.host.hartOut signed) next

def State.rvRun (s : State) (hart : Nat) (w : Nat) (next : DWord) : RvAct → State
  | .write rd v => s.hartNext hart rd v next
  | .jump rd dest => s.hartNext hart rd next dest
  | .load rd a n sg => (s.hartLoad hart a.toNat n).hartAfter hart 5 a rd sg next
  | .store a n v => (s.hartStore hart a.toNat (leBytes n v.toNat)).hartAfter hart 7 a 0 false next
  | .lr rd a wide =>
    if a.toNat % intBytes wide ≠ 0 then s.hartStop hart 4 a else (s.hartLr hart a.toNat wide).hartAfter hart 5 a rd true next
  | .sc rd a wide v =>
    if a.toNat % intBytes wide ≠ 0 then s.hartStop hart 6 a else (s.hartSc hart a.toNat wide v).hartAfter hart 7 a rd true next
  | .amo rd a op wide v =>
    if a.toNat % intBytes wide ≠ 0 then s.hartStop hart 6 a
    else (s.hartAmo hart a.toNat op wide v).hartAfter hart 7 a rd true next
  | .stop cause => s.hartStop hart cause (if cause = 2 then BitVec.ofNat 64 w else 0)

/-- Bytes fetched from SRAM or device memory; none elsewhere. -/
def State.hartFetch (s : State) (hart : Nat) (a : DWord) (n : Nat) : Option (State × Nat) :=
  match s.hartPlace a.toNat n with
  | .sram _ | .mem _ =>
    let x := s.hartLoad hart a.toNat n
    some (x, leNat x.host.hartOut)
  | _ => none
/-- The instruction at a hart's pc: a 16-bit word, or two. -/
def State.hartStep (s : State) (hart : Nat) : State :=
  let k := s.hart hart
  if !k.run then s
  else match s.hartFetch hart k.pc 2 with
    | none => s.hartStop hart 1 k.pc
    | some (s, lo) =>
      if lo % 4 ≠ 3 then
        match rvExpand lo with
        | some w => s.rvRun hart lo (k.pc + 2) (rvAct k w k.pc (k.pc + 2))
        | none => s.hartStop hart 2 (BitVec.ofNat 64 lo)
      else match s.hartFetch hart (k.pc + 2) 2 with
        | none => s.hartStop hart 1 (k.pc + 2)
        | some (s, hi) =>
          let w := lo + 2 ^ 16 * hi
          s.rvRun hart w (k.pc + 4) (rvAct k w k.pc (k.pc + 4))

/-- HART_DEVICE_ACCESS (R287, R288): one access of a hart, or its next instruction. -/
def execHartDeviceAccess (hart : Nat) (addr : DWord) (op : HartOp) (s : State) : Host.Outcome State Fault Refusal :=
  if !(s.hartsOn) ∨ 8 ≤ hart then .next s
  else match op with
    | .load n => .next (s.hartLoad hart addr.toNat n)
    | .store bs => .next (s.hartStore hart addr.toNat bs)
    | .lr wide => .next (s.hartLr hart addr.toNat wide)
    | .sc wide v => .next (s.hartSc hart addr.toNat wide v)
    | .amo op wide v => .next (s.hartAmo hart addr.toNat op wide v)
    | .step => .next (s.hartStep hart)

end Sys2Proof.Machine
end

