-- ==== Sys2Proof/Machine/Integer.lean ====
section
/-!
DEFINITION. The integer, immediate and bit instructions, MAJ 0x02 to 0x04 (R115 to R119, R128 to R132), and the integer
compares, MAJ 0x06 (R139).
-/
namespace Sys2Proof.Machine

def gate1 (o : Op1) : Gate :=
  { hd := o.h, hold := holdSrc o.hold (some o.a) none none, rds := [.w32 o.a], wrs := [.g32 o.d] }
def gate2 (o : Op2) : Gate :=
  { hd := o.h, hold := holdSrc o.hold (some o.a) (regB o.b) none, rds := .w32 o.a :: rdsB o.b .w32,
    win := windowB o.b 1, wrs := [.g32 o.d] }
def gate3 (o : Op3) : Gate :=
  { hd := o.h, hold := holdSrc o.hold (some o.a) (some o.b) (some o.c), rds := [.w32 o.a, .w32 o.b, .w32 o.c],
    wrs := [.g32 o.d] }
def gateI (o : OpI) : Gate :=
  { hd := o.h, hold := holdSrc o.hold (some o.a) none none, rds := [.w32 o.a], wrs := [.g32 o.d] }
def gate64 (o : Op2) : Gate :=
  { hd := o.h, rds := .w64 o.a :: rdsB o.b .w64, win := windowB o.b 2, wrs := [.g64 o.d] }

/-- A function of one, two or three 32-bit sources in each active lane. -/
def alu1 (o : Op1) (f : Word → Word) (s : State) : Host.Outcome State Fault Refusal :=
  issue (gate1 o) (pureRes fun c act _ => dstWrites act o.d 1 fun l _ => f (c.g.src32 o.a l)) s
def alu2 (o : Op2) (f : Word → Word → Word) (s : State) : Host.Outcome State Fault Refusal :=
  issue (gate2 o) (pureRes fun c act ws =>
    dstWrites act o.d 1 fun l _ => f (c.g.src32 o.a l) (c.g.srcB o.b ws l 0)) s
def alu3 (o : Op3) (f : Word → Word → Word → Word) (s : State) : Host.Outcome State Fault Refusal :=
  issue (gate3 o) (pureRes fun c act _ =>
    dstWrites act o.d 1 fun l _ => f (c.g.src32 o.a l) (c.g.src32 o.b l) (c.g.src32 o.c l)) s
def aluI (o : OpI) (f : Word → Word) (s : State) : Host.Outcome State Fault Refusal :=
  issue (gateI o) (pureRes fun c act _ => dstWrites act o.d 1 fun l _ => f (c.g.src32 o.a l)) s
/-- A function of two 64-bit sources (R116). -/
def alu64 (o : Op2) (f : DWord → DWord → DWord) (s : State) : Host.Outcome State Fault Refusal :=
  issue (gate64 o) (pureRes fun c act ws =>
    dstWrites act o.d 2 fun l k => dwordPart (f (c.g.src64 o.a l)
      (DWord.ofWords (c.g.srcB o.b ws l 1) (c.g.srcB o.b ws l 0))) k) s

/-- Carry out and borrow (R128). -/
def carryOut (a b c : Word) : Word := BitVec.ofNat 32 ((a.toNat + b.toNat + c.toNat % 2) / 2 ^ 32)
def borrowOut (a b c : Word) : Word := if a.toNat < b.toNat + c.toNat % 2 then 1 else 0
/-- The signed 64-bit product (R128). -/
def mulWide (a b : Word) : DWord := BitVec.ofInt 64 (a.toInt * b.toInt)
def mulHiS (a b : Word) : Word := (mulWide a b).hi
def mulHiU (a b : Word) : Word := BitVec.ofNat 32 (a.toNat * b.toNat / 2 ^ 32)

/-- Shifts and rotation by a 32-bit amount (R131). -/
def shlW (a n : Word) : Word := if 32 ≤ n.toNat then 0 else a <<< n.toNat
def shrW (a n : Word) : Word := if 32 ≤ n.toNat then 0 else a >>> n.toNat
def sarW (a n : Word) : Word := a.sshiftRight (min n.toNat 31)
def rotW (a n : Word) : Word := a.rotateLeft (n.toNat % 32)
def shfW (a b c : Word) : Word := ((b ++ a : BitVec 64) >>> (c.toNat % 64)).setWidth 32

/-- Position and width of a field (R132). -/
def fieldPos (b : Word) : Nat := b.toNat % 32
def fieldWid (b c : Word) : Nat := min (c.toNat % 64) (32 - fieldPos b)
def fieldOf (a b c : Word) : Nat := a.toNat / 2 ^ fieldPos b % 2 ^ fieldWid b c
def bfxuW (a b c : Word) : Word := BitVec.ofNat 32 (fieldOf a b c)
def bfxW (a b c : Word) : Word :=
  let w := fieldWid b c
  let f := fieldOf a b c
  if w = 0 then 0 else if 2 ^ (w - 1) ≤ f then BitVec.ofNat 32 (f + 2 ^ 32 - 2 ^ w) else BitVec.ofNat 32 f
def bfiW (d a b c : Word) : Word :=
  let w := fieldWid b c
  let m : Word := BitVec.ofNat 32 ((2 ^ w - 1) * 2 ^ fieldPos b)
  (d &&& ~~~m) ||| (BitVec.ofNat 32 (a.toNat % 2 ^ w * 2 ^ fieldPos b) &&& m)
def clzW (a : Word) : Word := if a = 0 then 32 else BitVec.ofNat 32 (31 - a.toNat.log2)
def brevW (a : Word) : Word := maskOf fun i => a.getLsbD (31 - i)

/-- imm20 sign- or zero-extended (R85, R130). -/
def immS (i : BitVec 20) : Word := i.signExtend 32
def immZ (i : BitVec 20) : Word := i.setWidth 32

/-- The old value of a destination in a lane (R132). -/
def Group.dstOld (g : Group) (d : Dst) (l : Nat) : Word :=
  match d with
  | .v n => g.getV n.toNat l
  | .s n => g.getS n.toNat

/-- IADD (R128). -/
def execIadd (o : Op2) (s : State) : Host.Outcome State Fault Refusal := alu2 o (fun a b => a + b) s
/-- ISUB (R128). -/
def execIsub (o : Op2) (s : State) : Host.Outcome State Fault Refusal := alu2 o (fun a b => a - b) s
/-- IADDC (R128). -/
def execIaddc (o : Op3) (s : State) : Host.Outcome State Fault Refusal := alu3 o (fun a b c => carryOut a b c) s
/-- ISUBB (R128). -/
def execIsubb (o : Op3) (s : State) : Host.Outcome State Fault Refusal := alu3 o (fun a b c => borrowOut a b c) s
/-- INEG (R128). -/
def execIneg (o : Op1) (s : State) : Host.Outcome State Fault Refusal := alu1 o (fun a => 0 - a) s
/-- IABS (R128). -/
def execIabs (o : Op1) (s : State) : Host.Outcome State Fault Refusal := alu1 o (fun a => if a.slt 0 then 0 - a else a) s
/-- IMIN (R128). -/
def execImin (o : Op2) (s : State) : Host.Outcome State Fault Refusal := alu2 o (fun a b => sminBv a b) s
/-- IMAX (R128). -/
def execImax (o : Op2) (s : State) : Host.Outcome State Fault Refusal := alu2 o (fun a b => smaxBv a b) s
/-- IMINU (R128). -/
def execIminu (o : Op2) (s : State) : Host.Outcome State Fault Refusal := alu2 o (fun a b => uminBv a b) s
/-- IMAXU (R128). -/
def execImaxu (o : Op2) (s : State) : Host.Outcome State Fault Refusal := alu2 o (fun a b => umaxBv a b) s
/-- AND (R128). -/
def execAnd (o : Op2) (s : State) : Host.Outcome State Fault Refusal := alu2 o (fun a b => a &&& b) s
/-- OR (R128). -/
def execOr (o : Op2) (s : State) : Host.Outcome State Fault Refusal := alu2 o (fun a b => a ||| b) s
/-- XOR (R128). -/
def execXor (o : Op2) (s : State) : Host.Outcome State Fault Refusal := alu2 o (fun a b => a ^^^ b) s
/-- ANDN (R128). -/
def execAndn (o : Op2) (s : State) : Host.Outcome State Fault Refusal := alu2 o (fun a b => a &&& ~~~b) s
/-- NOT (R128). -/
def execNot (o : Op1) (s : State) : Host.Outcome State Fault Refusal := alu1 o (fun a => ~~~a) s
/-- SEL (R128). -/
def execSel (o : Op3) (s : State) : Host.Outcome State Fault Refusal := alu3 o (fun a b c => if c ≠ 0 then a else b) s
/-- IMUL (R128). -/
def execImul (o : Op2) (s : State) : Host.Outcome State Fault Refusal := alu2 o (fun a b => a * b) s
/-- IMULHI (R128). -/
def execImulhi (o : Op2) (s : State) : Host.Outcome State Fault Refusal := alu2 o (fun a b => mulHiS a b) s
/-- IMULHIU (R128). -/
def execImulhiu (o : Op2) (s : State) : Host.Outcome State Fault Refusal := alu2 o (fun a b => mulHiU a b) s
/-- IMAD (R128). -/
def execImad (o : Op3) (s : State) : Host.Outcome State Fault Refusal := alu3 o (fun a b c => a * b + c) s
/-- IMULW (R128, R129). -/
def execImulw (o : Op2) (s : State) : Host.Outcome State Fault Refusal :=
  issue { gate2 o with wrs := [.g64 o.d] } (pureRes fun c act ws =>
    dstWrites act o.d 2 fun l k => dwordPart (mulWide (c.g.src32 o.a l) (c.g.srcB o.b ws l 0)) k) s
/-- LEA (R128, R129). -/
def execLea (o : OpLea) (s : State) : Host.Outcome State Fault Refusal :=
  issue { hd := o.h, hold := holdSrc o.hold none (some o.b) none, rds := [.w64 o.a, .w32 o.b], wrs := [.g64 o.d] }
    (pureRes fun c act _ => dstWrites act o.d 2 fun l k =>
      dwordPart (c.g.src64 o.a l + ((c.g.src32 o.b l).signExtend 64 <<< o.sh.toNat)) k) s
/-- IADD64 (R128, R129). -/
def execIadd64 (o : Op2) (s : State) : Host.Outcome State Fault Refusal := alu64 o (fun a b => a + b) s
/-- ISUB64 (R128, R129). -/
def execIsub64 (o : Op2) (s : State) : Host.Outcome State Fault Refusal := alu64 o (fun a b => a - b) s

/-- IADDI (R130). -/
def execIaddi (o : OpI) (s : State) : Host.Outcome State Fault Refusal := aluI o (fun a => a + immS o.imm) s
/-- ANDI (R130). -/
def execAndi (o : OpI) (s : State) : Host.Outcome State Fault Refusal := aluI o (fun a => a &&& immS o.imm) s
/-- ORI (R130). -/
def execOri (o : OpI) (s : State) : Host.Outcome State Fault Refusal := aluI o (fun a => a ||| immZ o.imm) s
/-- XORI (R130). -/
def execXori (o : OpI) (s : State) : Host.Outcome State Fault Refusal := aluI o (fun a => a ^^^ immZ o.imm) s
/-- MOVHI (R130). -/
def execMovhi (o : OpI) (s : State) : Host.Outcome State Fault Refusal := aluI o (fun a => (immZ o.imm <<< 12) ||| (a &&& 0xFFF)) s
/-- IMINI (R130). -/
def execImini (o : OpI) (s : State) : Host.Outcome State Fault Refusal := aluI o (fun a => sminBv a (immS o.imm)) s
/-- IMAXI (R130). -/
def execImaxi (o : OpI) (s : State) : Host.Outcome State Fault Refusal := aluI o (fun a => smaxBv a (immS o.imm)) s
/-- MOVI (R130). -/
def execMovi (h : Hd) (d : Dst) (imm : BitVec 20) (s : State) : Host.Outcome State Fault Refusal :=
  issue { hd := h, wrs := [.g32 d] } (pureRes fun _ act _ => dstWrites act d 1 fun _ _ => immS imm) s

/-- SHL (R131, R132). -/
def execShl (o : Op2) (s : State) : Host.Outcome State Fault Refusal := alu2 o (fun a b => shlW a b) s
/-- SHR (R131, R132). -/
def execShr (o : Op2) (s : State) : Host.Outcome State Fault Refusal := alu2 o (fun a b => shrW a b) s
/-- SAR (R131, R132). -/
def execSar (o : Op2) (s : State) : Host.Outcome State Fault Refusal := alu2 o (fun a b => sarW a b) s
/-- ROT (R131, R132). -/
def execRot (o : Op2) (s : State) : Host.Outcome State Fault Refusal := alu2 o (fun a b => rotW a b) s
/-- SHF (R131, R132). -/
def execShf (o : Op3) (s : State) : Host.Outcome State Fault Refusal := alu3 o (fun a b c => shfW a b c) s
/-- BFX (R131, R132). -/
def execBfx (o : Op3) (s : State) : Host.Outcome State Fault Refusal := alu3 o (fun a b c => bfxW a b c) s
/-- BFXU (R131, R132). -/
def execBfxu (o : Op3) (s : State) : Host.Outcome State Fault Refusal := alu3 o (fun a b c => bfxuW a b c) s
/-- BFI: reads its destination (R132). -/
def execBfi (o : Op3) (s : State) : Host.Outcome State Fault Refusal :=
  issue { gate3 o with exReads := Wr.regs (.g32 o.d) } (pureRes fun c act _ =>
    dstWrites act o.d 1 fun l _ => bfiW (c.g.dstOld o.d l) (c.g.src32 o.a l) (c.g.src32 o.b l) (c.g.src32 o.c l)) s

/-- POPC (R131). -/
def execPopc (o : Op1) (s : State) : Host.Outcome State Fault Refusal := alu1 o (fun a => BitVec.ofNat 32 (popcount a)) s
/-- CLZ (R131). -/
def execClz (o : Op1) (s : State) : Host.Outcome State Fault Refusal := alu1 o (fun a => clzW a) s
/-- BREV (R131). -/
def execBrev (o : Op1) (s : State) : Host.Outcome State Fault Refusal := alu1 o (fun a => brevW a) s

/-- A comparison of two 32-bit sources (R139). -/
def cmp32 (o : OpCmp) (f : Word → Word → Bool) (s : State) : Host.Outcome State Fault Refusal :=
  issue { hd := o.h, hold := holdSrc o.hold (some o.a) (some o.b) none, rds := [.w32 o.a, .w32 o.b], wrs := [.p o.d.toNat] }
    (pureRes fun c act _ => triWrites act o.d fun l => triBool (f (c.g.src32 o.a l) (c.g.src32 o.b l))) s

/-- ICMP (R139). -/
def execIcmp (o : OpCmp) (s : State) : Host.Outcome State Fault Refusal := cmp32 o (condS o.cc) s
/-- ICMPU (R139). -/
def execIcmpu (o : OpCmp) (s : State) : Host.Outcome State Fault Refusal := cmp32 o (condU o.cc) s
/-- ICMP64 (R139). -/
def execIcmp64 (o : OpCmp) (u : Bool) (s : State) : Host.Outcome State Fault Refusal :=
  issue { hd := o.h, rds := [.w64 o.a, .w64 o.b], wrs := [.p o.d.toNat] }
    (pureRes fun c act _ => triWrites act o.d fun l =>
      triBool (if u then condU o.cc (c.g.src64 o.a l) (c.g.src64 o.b l)
               else condS o.cc (c.g.src64 o.a l) (c.g.src64 o.b l))) s

end Sys2Proof.Machine
end

