-- ==== Sys2Proof/Machine/Lane.lean ====
section
/-!
DEFINITION. The lane instructions, MAJ 0x07 (R140 to R145).
-/
namespace Sys2Proof.Machine

/-- The inclusive or exclusive prefix over some lanes, each with its value (R141). -/
def scanGo (op : LaneOp) (excl : Bool) : Word → List (Nat × Word) → List (Nat × Word)
  | _, [] => []
  | acc, (l, a) :: r =>
    let n := laneFn op acc a
    (l, if excl then acc else n) :: scanGo op excl n r

def laneVals (c : Ctx) (act : Word) (a : Src) : List (Nat × Word) := (lanesOf act).map fun l => (l, c.g.src32 a l)

/-- A lane's value in a list of results, written to a V register. -/
def laneCells (d : BitVec 8) (l : List (Nat × Word)) : Writes := { v := l.map fun e => (32 * d.toNat + e.1, e.2) }

/-- SCAN (R141). -/
def execScan (h : Hd) (hold : Hold) (d : BitVec 8) (a : Src) (op : LaneOp) (excl : Bool) (s : State) :
    Host.Outcome State Fault Refusal :=
  issue { hd := h, hold := holdSrc hold (some a) none none, rds := [.w32 a], wrs := [.v d.toNat 1 1] }
    (pureRes fun c act _ => laneCells d (scanGo op excl (laneId op) (laneVals c act a))) s

/-- The width of a floating GRED. -/
def gredWidth : GredOp → Option FW
  | .int _ => none
  | .fadd w => some w
  | .fmin w => some w
  | .fmax w => some w

/-- Folding over a non-empty list. -/
def foldOne {α : Type} (f : α → α → α) : List α → Option α
  | [] => none
  | x :: r => some (r.foldl f x)

/-- GRED's interval result: the 32-position block sum of R67 to R70, or the fold of FMIN or FMAX (R142). -/
def gredIval (op : GredOp) (w : FW) (act : Word) (x : Nat → Ival) : Ival :=
  match op with
  | .fmin _ => (foldOne Ival.min ((lanesOf act).map x)).getD .empty
  | .fmax _ => (foldOne Ival.max ((lanesOf act).map x)).getD .empty
  | _ => (blockSum (Ival.add (fmtOf w)) (lanes.map fun l => if act.getLsbD l then some (x l) else none)).getD .empty

def wordsOf (w : FW) : Nat := match w with
  | .s => 2
  | .d => 4

def gredGate (h : Hd) (hold : Hold) (d : Dst) (a : Src) (op : GredOp) : Gate :=
  match gredWidth op with
  | none => { hd := h, hold := holdSrc hold (some a) none none, rds := [.w32 a], wrs := [.g32 d] }
  | some w => { hd := h, rds := [.iv w a], wrs := [.iv w d] }

/-- GRED's writes (R142). -/
def gredWrites (d : Dst) (a : Src) (op : GredOp) (c : Ctx) (act : Word) : Writes :=
  match op with
  | .int o =>
    let x := (foldOne (laneFn o) ((lanesOf act).map fun l => c.g.src32 a l)).getD (laneId o)
    dstWrites act d 1 fun _ _ => x
  | op =>
    let w := (gredWidth op).getD .s
    let r := gredIval op w act fun l => ivOfWords w (c.g.src a l)
    dstWrites act d (wordsOf w) fun _ k => ivWord w r k

/-- GRED (R142). -/
def execGred (h : Hd) (hold : Hold) (d : Dst) (a : Src) (op : GredOp) (s : State) : Host.Outcome State Fault Refusal :=
  issue (gredGate h hold d a op) (pureRes fun c act _ => gredWrites d a op c act) s

/-- COMPACT (R143). -/
def compactVals (act : Word) (take : Nat → Bool) (a : Nat → Word) : List (Nat × Word) :=
  let src := ((lanesOf act).filter take).map a
  (lanesOf act).zipIdx.map fun e => (e.1, src.getD e.2 0)
def execCompact (h : Hd) (hold : Hold) (d : BitVec 8) (a : Src) (p : BitVec 3) (s : State) :
    Host.Outcome State Fault Refusal :=
  issue { hd := h, hold := holdSrc hold (some a) none none, rds := [.w32 a], exReads := [.p p.toNat],
          wrs := [.v d.toNat 1 1] }
    (pureRes fun c act _ => laneCells d (compactVals act (fun l => c.g.tri p l == .t) (c.g.src32 a))) s

/-- ISECT's word (R144). -/
def isectWord (act : Word) (a b : Nat → Word) (l : Nat) : Word :=
  let ls := lanesOf act
  let top := (ls.getLast?).getD 0
  let lim := uminBv (a top) (b top)
  let adv (x : Nat → Word) : Nat := (ls.filter fun i => (x i).ule lim).length
  BitVec.ofNat 32 (adv b * 2 ^ 16 + adv a * 2 ^ 8 + (if ls.any fun j => a l == b j then 1 else 0))
def execIsect (h : Hd) (hold : Hold) (d : BitVec 8) (a b : Src) (s : State) : Host.Outcome State Fault Refusal :=
  issue { hd := h, hold := holdSrc hold (some a) (some b) none, rds := [.w32 a, .w32 b], wrs := [.v d.toNat 1 1] }
    (pureRes fun c act _ => laneCells d ((lanesOf act).map fun l =>
      (l, isectWord act (c.g.src32 a) (c.g.src32 b) l))) s

/-- MPATH's value (R145). -/
def mpathWord (act : Word) (a b : Nat → Word) (c : Word) (l : Nat) : Word :=
  let n := ((lanesOf act).zipIdx.filter fun e => decide ((b e.1).toNat + c.toNat + e.2 + 1 ≤ (a l).toNat)).length
  c + BitVec.ofNat 32 n
def execMpath (h : Hd) (hold : Hold) (d : BitVec 8) (a b c : Src) (s : State) : Host.Outcome State Fault Refusal :=
  issue { hd := h, hold := holdSrc hold (some a) (some b) (some c), rds := [.w32 a, .w32 b, .u32 c],
          wrs := [.v d.toNat 1 1] }
    (pureRes fun x act _ => laneCells d ((lanesOf act).map fun l =>
      (l, mpathWord act (x.g.src32 a) (x.g.src32 b) (x.g.src32 c 0) l))) s

end Sys2Proof.Machine
end

