-- ==== Sys2Proof/Machine/Pair.lean ====
section
/-!
DEFINITION. The pair word (R97 to R99): two short operations whose operands are read before either writes.
-/
namespace Sys2Proof.Machine

def pairSrc : PairSrc → Src
  | .v n => .v n
  | .s n => .s n
def halfCnt (x : Half) : Nat := if x.op.interval then 2 else 1

/-- The 32-bit operations: the old destination and the source (R98). -/
def pairInt (op : PairOp) (d a : Word) : Word :=
  match op with
  | .mov => a
  | .iadd => d + a
  | .isub => d - a
  | .and => d &&& a
  | .or => d ||| a
  | .xor => d ^^^ a
  | .shl => shlW d a
  | .shr => shrW d a
  | .sar => sarW d a
  | .imin => sminBv d a
  | .imax => smaxBv d a
  | .imul => d * a
  | _ => a
/-- The .S interval operations (R98). -/
def pairIval (op : PairOp) (d a : Ival) : Ival :=
  match op with
  | .fadd => d.add b32 a
  | .fsub => d.sub b32 a
  | .fmul => d.mul b32 a
  | .fmin => d.min a
  | .fmax => d.max a
  | .fhull => d.hull a
  | .fneg => a.neg
  | .fabs => a.abs
  | _ => a

/-- Word k of a half's result in a lane. -/
def halfWord (g : Group) (x : Half) (l k : Nat) : Word :=
  if x.op.interval then
    ivWord .s (pairIval x.op (g.ival .s (.v x.d) l) (g.ival .s (pairSrc x.src) l)) k
  else pairInt x.op (g.getV x.d.toNat l) (g.src32 (pairSrc x.src) l)
/-- The writes of a half in the lanes that pass its guard. -/
def halfWrites (g : Group) (x : Half) : Writes :=
  { v := vCells (g.active x.g) x.d.toNat (halfCnt x) (halfWord g x) }

/-- The registers a half reads: its destination and its source (R89, R98). -/
def halfRds (x : Half) : List Rd :=
  [.vgroup (.v x.d) (halfCnt x) (halfCnt x), ⟨pairSrc x.src, { cnt := halfCnt x, al := halfCnt x }⟩]
/-- The register a half writes, if any lane passes its guard in the group whose run is under way. -/
def halfWrs (s : State) (x : Half) : List Wr :=
  match s.runs.head?.bind s.group? with
  | some g => if g.active x.g = 0 then [] else [.v x.d.toNat (halfCnt x) (halfCnt x)]
  | none => []

/-- The pair word (R97 to R99). -/
def execPairWord (b : Bool) (hi lo : Half) (s : State) : Host.Outcome State Fault Refusal :=
  issue { hd := ⟨b, .always⟩, size := 2, rds := halfRds hi ++ halfRds lo, wrs := halfWrs s hi ++ halfWrs s lo,
          exReads := guardRegs hi.g ++ guardRegs lo.g }
    (pureRes fun c _ _ => (halfWrites c.g hi).append (halfWrites c.g lo)) s

end Sys2Proof.Machine
end

