-- ==== Sys2Proof/Machine/Predicate.lean ====
section
/-!
DEFINITION. The predicate instructions, MAJ 0x01 (R125 to R127).
-/
namespace Sys2Proof.Machine

def gateP2 (o : OpP2) : Gate :=
  { hd := o.h, exReads := [.p o.a.toNat, .p o.b.toNat], wrs := [.p o.d.toNat] }
def gateP1 (o : OpP1) : Gate := { hd := o.h, exReads := [.p o.a.toNat], wrs := [.p o.d.toNat] }
def gatePC (o : OpPC) : Gate := { hd := o.h, exReads := [.p o.a.toNat], wrs := [.g32 o.d] }

/-- A lane-wise predicate operation of two sources. -/
def pred2 (o : OpP2) (f : Tri → Tri → Tri) (s : State) : Host.Outcome State Fault Refusal :=
  issue (gateP2 o) (pureRes fun c act _ => triWrites act o.d fun l => f (c.g.tri o.a l) (c.g.tri o.b l)) s

/-- A lane-wise predicate operation of one source. -/
def pred1 (o : OpP1) (f : Tri → Tri) (s : State) : Host.Outcome State Fault Refusal :=
  issue (gateP1 o) (pureRes fun c act _ => triWrites act o.d fun l => f (c.g.tri o.a l)) s

/-- A predicate operation across the active lanes. -/
def predAll (o : OpP1) (f : List Tri → Tri) (s : State) : Host.Outcome State Fault Refusal :=
  issue (gateP1 o) (pureRes fun c act _ =>
    triWrites act o.d fun _ => f ((lanesOf act).map fun l => c.g.tri o.a l)) s

/-- PAND (R126, R127). -/
def execPand (o : OpP2) (s : State) : Host.Outcome State Fault Refusal := pred2 o triAnd s
/-- POR (R126, R127). -/
def execPor (o : OpP2) (s : State) : Host.Outcome State Fault Refusal := pred2 o triOr s
/-- PXOR (R126, R127). -/
def execPxor (o : OpP2) (s : State) : Host.Outcome State Fault Refusal := pred2 o triXor s
/-- PNOT (R126, R127). -/
def execPnot (o : OpP1) (s : State) : Host.Outcome State Fault Refusal := pred1 o triNot s
/-- PKNOWN (R127). -/
def execPknown (o : OpP1) (s : State) : Host.Outcome State Fault Refusal := pred1 o triKnown s
/-- PRESOLVE (R127). -/
def execPresolve (o : OpP1) (t : Bool) (s : State) : Host.Outcome State Fault Refusal := pred1 o (triResolve t) s
/-- PSET (R127). -/
def execPset (h : Hd) (d : BitVec 3) (v : Tri) (s : State) : Host.Outcome State Fault Refusal :=
  issue { hd := h, wrs := [.p d.toNat] } (pureRes fun _ act _ => triWrites act d fun _ => v) s
/-- PMOVV (R127). -/
def execPmovv (h : Hd) (d : BitVec 8) (a : BitVec 3) (s : State) : Host.Outcome State Fault Refusal :=
  issue { hd := h, exReads := [.p a.toNat], wrs := [.v d.toNat 1 1] }
    (pureRes fun c act _ => { v := vCells act d.toNat 1 fun l _ => (triCode (c.g.tri a l)).setWidth 32 }) s
/-- PMOVP (R127). -/
def execPmovp (h : Hd) (hold : Hold) (d : BitVec 3) (a : Src) (s : State) : Host.Outcome State Fault Refusal :=
  issue { hd := h, hold := holdSrc hold (some a) none none, rds := [.w32 a], wrs := [.p d.toNat] }
    (pureRes fun c act _ => triWrites act d fun l => triOfWord (c.g.src32 a l)) s
/-- PANY (R127). -/
def execPany (o : OpP1) (s : State) : Host.Outcome State Fault Refusal := predAll o triAny s
/-- PALL (R127). -/
def execPall (o : OpP1) (s : State) : Host.Outcome State Fault Refusal := predAll o triAll s
/-- PCOUNT (R127). -/
def execPcount (o : OpPC) (s : State) : Host.Outcome State Fault Refusal :=
  issue (gatePC o) (pureRes fun c act _ =>
    dstWrites act o.d 1 fun _ _ => BitVec.ofNat 32 (popcount (triMask c.g act o.a o.v))) s
/-- PMASK (R127). -/
def execPmask (o : OpPC) (s : State) : Host.Outcome State Fault Refusal :=
  issue (gatePC o) (pureRes fun c act _ => dstWrites act o.d 1 fun _ _ => triMask c.g act o.a o.v) s

end Sys2Proof.Machine
end

