-- ==== Sys2Proof/Machine/Dispatch.lean ====
section
/-!
DEFINITION. The one match over every instruction and event: each arm is one call of its meaning.
-/
namespace Sys2Proof.Machine

def exec (i : Instr) (s : State) : Host.Outcome State Fault Refusal :=
  match i with
  | .bra b off => Sys2Proof.Machine.execBra b off s
  | .brp b p t f => Sys2Proof.Machine.execBrp b p t f s
  | .brx b a => Sys2Proof.Machine.execBrx b a s
  | .call b off => Sys2Proof.Machine.execCall b off s
  | .ret b => Sys2Proof.Machine.execRet b s
  | .div b off => Sys2Proof.Machine.execDiv b off s
  | .join b => Sys2Proof.Machine.execJoin b s
  | .loop b c off => Sys2Proof.Machine.execLoop b c off s
  | .exit h => Sys2Proof.Machine.execExit h s
  | .yield h => Sys2Proof.Machine.execYield h s
  | .trap h imm => Sys2Proof.Machine.execTrap h imm s
  | .brk h imm => Sys2Proof.Machine.execBrk h imm s
  | .pand o => Sys2Proof.Machine.execPand o s
  | .por o => Sys2Proof.Machine.execPor o s
  | .pxor o => Sys2Proof.Machine.execPxor o s
  | .pnot o => Sys2Proof.Machine.execPnot o s
  | .pknown o => Sys2Proof.Machine.execPknown o s
  | .presolve o t => Sys2Proof.Machine.execPresolve o t s
  | .pset h d v => Sys2Proof.Machine.execPset h d v s
  | .pmovv h d a => Sys2Proof.Machine.execPmovv h d a s
  | .pmovp h hold d a => Sys2Proof.Machine.execPmovp h hold d a s
  | .pany o => Sys2Proof.Machine.execPany o s
  | .pall o => Sys2Proof.Machine.execPall o s
  | .pcount o => Sys2Proof.Machine.execPcount o s
  | .pmask o => Sys2Proof.Machine.execPmask o s
  | .iadd o => Sys2Proof.Machine.execIadd o s
  | .isub o => Sys2Proof.Machine.execIsub o s
  | .iaddc o => Sys2Proof.Machine.execIaddc o s
  | .isubb o => Sys2Proof.Machine.execIsubb o s
  | .ineg o => Sys2Proof.Machine.execIneg o s
  | .iabs o => Sys2Proof.Machine.execIabs o s
  | .imin o => Sys2Proof.Machine.execImin o s
  | .imax o => Sys2Proof.Machine.execImax o s
  | .iminu o => Sys2Proof.Machine.execIminu o s
  | .imaxu o => Sys2Proof.Machine.execImaxu o s
  | .and o => Sys2Proof.Machine.execAnd o s
  | .or o => Sys2Proof.Machine.execOr o s
  | .xor o => Sys2Proof.Machine.execXor o s
  | .andn o => Sys2Proof.Machine.execAndn o s
  | .not o => Sys2Proof.Machine.execNot o s
  | .sel o => Sys2Proof.Machine.execSel o s
  | .imul o => Sys2Proof.Machine.execImul o s
  | .imulhi o => Sys2Proof.Machine.execImulhi o s
  | .imulhiu o => Sys2Proof.Machine.execImulhiu o s
  | .imad o => Sys2Proof.Machine.execImad o s
  | .imulw o => Sys2Proof.Machine.execImulw o s
  | .lea o => Sys2Proof.Machine.execLea o s
  | .iadd64 o => Sys2Proof.Machine.execIadd64 o s
  | .isub64 o => Sys2Proof.Machine.execIsub64 o s
  | .iaddi o => Sys2Proof.Machine.execIaddi o s
  | .andi o => Sys2Proof.Machine.execAndi o s
  | .ori o => Sys2Proof.Machine.execOri o s
  | .xori o => Sys2Proof.Machine.execXori o s
  | .movi h d imm => Sys2Proof.Machine.execMovi h d imm s
  | .movhi o => Sys2Proof.Machine.execMovhi o s
  | .imini o => Sys2Proof.Machine.execImini o s
  | .imaxi o => Sys2Proof.Machine.execImaxi o s
  | .shl o => Sys2Proof.Machine.execShl o s
  | .shr o => Sys2Proof.Machine.execShr o s
  | .sar o => Sys2Proof.Machine.execSar o s
  | .rot o => Sys2Proof.Machine.execRot o s
  | .shf o => Sys2Proof.Machine.execShf o s
  | .bfx o => Sys2Proof.Machine.execBfx o s
  | .bfxu o => Sys2Proof.Machine.execBfxu o s
  | .bfi o => Sys2Proof.Machine.execBfi o s
  | .popc o => Sys2Proof.Machine.execPopc o s
  | .clz o => Sys2Proof.Machine.execClz o s
  | .brev o => Sys2Proof.Machine.execBrev o s
  | .mov o => Sys2Proof.Machine.execMov o s
  | .movQueuePush h q a => Sys2Proof.Machine.execMovQueuePush h q a s
  | .movQueuePop h d q => Sys2Proof.Machine.execMovQueuePop h d q s
  | .mov64 o => Sys2Proof.Machine.execMov64 o s
  | .movs h hold d a => Sys2Proof.Machine.execMovs h hold d a s
  | .bcast o => Sys2Proof.Machine.execBcast o s
  | .rdlane h la hold d a b => Sys2Proof.Machine.execRdlane h la hold d a b s
  | .wrlane o => Sys2Proof.Machine.execWrlane o s
  | .shfl h la hold d a b m => Sys2Proof.Machine.execShfl h la hold d a b m s
  | .nmov o => Sys2Proof.Machine.execNmov o s
  | .movm h hold a => Sys2Proof.Machine.execMovm h hold a s
  | .rdsp h d c => Sys2Proof.Machine.execRdsp h d c s
  | .icmp o => Sys2Proof.Machine.execIcmp o s
  | .icmpu o => Sys2Proof.Machine.execIcmpu o s
  | .icmp64 o u => Sys2Proof.Machine.execIcmp64 o u s
  | .scan h hold d a op excl => Sys2Proof.Machine.execScan h hold d a op excl s
  | .gred h hold d a op => Sys2Proof.Machine.execGred h hold d a op s
  | .compact h hold d a p => Sys2Proof.Machine.execCompact h hold d a p s
  | .isect h hold d a b => Sys2Proof.Machine.execIsect h hold d a b s
  | .mpath h hold d a b c => Sys2Proof.Machine.execMpath h hold d a b c s
  | .fadd o => Sys2Proof.Machine.execFadd o s
  | .fsub o => Sys2Proof.Machine.execFsub o s
  | .fmul o => Sys2Proof.Machine.execFmul o s
  | .fdiv la o => Sys2Proof.Machine.execFdiv la o s
  | .fdivx la o => Sys2Proof.Machine.execFdivx la o s
  | .ffma o => Sys2Proof.Machine.execFfma o s
  | .fsqr o => Sys2Proof.Machine.execFsqr o s
  | .fsqrt la o => Sys2Proof.Machine.execFsqrt la o s
  | .fmin o => Sys2Proof.Machine.execFmin o s
  | .fmax o => Sys2Proof.Machine.execFmax o s
  | .fabs o => Sys2Proof.Machine.execFabs o s
  | .fneg o => Sys2Proof.Machine.execFneg o s
  | .fpown o n => Sys2Proof.Machine.execFpown o n s
  | .fexp2 la o => Sys2Proof.Machine.execFexp2 la o s
  | .flog2 la o => Sys2Proof.Machine.execFlog2 la o s
  | .fhull o => Sys2Proof.Machine.execFhull o s
  | .fisect o => Sys2Proof.Machine.execFisect o s
  | .fmid o => Sys2Proof.Machine.execFmid o s
  | .frad o => Sys2Proof.Machine.execFrad o s
  | .fwid o => Sys2Proof.Machine.execFwid o s
  | .fmag o => Sys2Proof.Machine.execFmag o s
  | .fmig o => Sys2Proof.Machine.execFmig o s
  | .finf o => Sys2Proof.Machine.execFinf o s
  | .fsup o => Sys2Proof.Machine.execFsup o s
  | .fmake o => Sys2Proof.Machine.execFmake o s
  | .fpoint o => Sys2Proof.Machine.execFpoint o s
  | .fcmp h d a b cc w => Sys2Proof.Machine.execFcmp h d a b cc w s
  | .fsubset o => Sys2Proof.Machine.execFsubset o s
  | .finterior o => Sys2Proof.Machine.execFinterior o s
  | .fdisj o => Sys2Proof.Machine.execFdisj o s
  | .fcontains o => Sys2Proof.Machine.execFcontains o s
  | .fclass h d a w => Sys2Proof.Machine.execFclass h d a w s
  | .fwiden h d a => Sys2Proof.Machine.execFwiden h d a s
  | .fnarrow h d a => Sys2Proof.Machine.execFnarrow h d a s
  | .fcvti h d a m w => Sys2Proof.Machine.execFcvti h d a m w s
  | .icvtf h hold d a u w => Sys2Proof.Machine.execIcvtf h hold d a u w s
  | .fcvtbf h d a b m => Sys2Proof.Machine.execFcvtbf h d a b m s
  | .fpack h hold d a k => Sys2Proof.Machine.execFpack h hold d a k s
  | .funpack h hold d a b k => Sys2Proof.Machine.execFunpack h hold d a b k s
  | .ftomrad h d a w => Sys2Proof.Machine.execFtomrad h d a w s
  | .ffrommrad h hold d a w => Sys2Proof.Machine.execFfrommrad h hold d a w s
  | .ftrunc h hold d a bfh => Sys2Proof.Machine.execFtrunc h hold d a bfh s
  | .split h d site => Sys2Proof.Machine.execSplit h d site s
  | .spawn h d a site => Sys2Proof.Machine.execSpawn h d a site s
  | .take h d site => Sys2Proof.Machine.execTake h d site s
  | .tend h => Sys2Proof.Machine.execTend h s
  | .poolq h d sel => Sys2Proof.Machine.execPoolq h d sel s
  | .ld o => Sys2Proof.Machine.execLd o s
  | .st o => Sys2Proof.Machine.execSt o s
  | .lds o => Sys2Proof.Machine.execLds o s
  | .sts o => Sys2Proof.Machine.execSts o s
  | .ldk o => Sys2Proof.Machine.execLdk o s
  | .ldmrad o => Sys2Proof.Machine.execLdmrad o s
  | .stmrad o => Sys2Proof.Machine.execStmrad o s
  | .stp o => Sys2Proof.Machine.execStp o s
  | .pref o => Sys2Proof.Machine.execPref o s
  | .atom o => Sys2Proof.Machine.execAtom o s
  | .atomcas o => Sys2Proof.Machine.execAtomcas o s
  | .fatom o => Sys2Proof.Machine.execFatom o s
  | .red o => Sys2Proof.Machine.execRed o s
  | .fred o => Sys2Proof.Machine.execFred o s
  | .xcopy o => Sys2Proof.Machine.execXcopy o s
  | .xfill o => Sys2Proof.Machine.execXfill o s
  | .xwait h d a all => Sys2Proof.Machine.execXwait h d a all s
  | .xtest h d a => Sys2Proof.Machine.execXtest h d a s
  | .xclear h a => Sys2Proof.Machine.execXclear h a s
  | .bar h hold a id => Sys2Proof.Machine.execBar h hold a id s
  | .barc h id => Sys2Proof.Machine.execBarc h id s
  | .bara h hold d a id => Sys2Proof.Machine.execBara h hold d a id s
  | .barw h hold a id => Sys2Proof.Machine.execBarw h hold a id s
  | .qmap h kind q a b => Sys2Proof.Machine.execQmap h kind q a b s
  | .qtry h d q pop => Sys2Proof.Machine.execQtry h d q pop s
  | .waitv h hold d a b => Sys2Proof.Machine.execWaitv h hold d a b s
  | .mma o => Sys2Proof.Machine.execMma o s
  | .mmax o => Sys2Proof.Machine.execMmax o s
  | .zclr h z w => Sys2Proof.Machine.execZclr h z w s
  | .zld h la z a w => Sys2Proof.Machine.execZld h la z a w s
  | .zst h z a w => Sys2Proof.Machine.execZst h z a w s
  | .zget h la d z w => Sys2Proof.Machine.execZget h la d z w s
  | .zput h z a w => Sys2Proof.Machine.execZput h z a w s
  | .scld h slot part => Sys2Proof.Machine.execScld h slot part s
  | .seal o => Sys2Proof.Machine.execSeal o s
  | .peek o => Sys2Proof.Machine.execPeek o s
  | .reopen h la hold d a c => Sys2Proof.Machine.execReopen h la hold d a c s
  | .cinit h hold a c => Sys2Proof.Machine.execCinit h hold a c s
  | .ktable h slot a => Sys2Proof.Machine.execKtable h slot a s
  | .kstore h hold slot a b => Sys2Proof.Machine.execKstore h hold slot a b s
  | .ksign h la d a slot => Sys2Proof.Machine.execKsign h la d a slot s
  | .kgather h d a b slot tag => Sys2Proof.Machine.execKgather h d a b slot tag s
  | .kclear h hold b table slot tag => Sys2Proof.Machine.execKclear h hold b table slot tag s
  | .dqnext h hold a tag => Sys2Proof.Machine.execDqnext h hold a tag s
  | .dqdone h hold a => Sys2Proof.Machine.execDqdone h hold a s
  | .devent h hold a => Sys2Proof.Machine.execDevent h hold a s
  | .dwait h hold d a b => Sys2Proof.Machine.execDwait h hold d a b s
  | .tret b => Sys2Proof.Machine.execTret b s
  | .mfsr h d r => Sys2Proof.Machine.execMfsr h d r s
  | .mtsr h r a => Sys2Proof.Machine.execMtsr h r a s
  | .tlbf h a => Sys2Proof.Machine.execTlbf h a s
  | .tlbi h hold a b => Sys2Proof.Machine.execTlbi h hold a b s
  | .probe h d a => Sys2Proof.Machine.execProbe h d a s
  | .halt h imm => Sys2Proof.Machine.execHalt h imm s
  | .pairWord b hi lo => Sys2Proof.Machine.execPairWord b hi lo s
  | .instructionFetch g => Sys2Proof.Machine.execInstructionFetch g s
  | .teamStop core team by' => Sys2Proof.Machine.execTeamStop core team by' s
  | .debugCountWrap core entry => Sys2Proof.Machine.execDebugCountWrap core entry s
  | .migrationLineMove e => Sys2Proof.Machine.execMigrationLineMove e s
  | .vector0HoldoffExpiry => Sys2Proof.Machine.execVector0HoldoffExpiry s
  | .runArbitration core sched => Sys2Proof.Machine.execRunArbitration core sched s
  | .resultWrite g n => Sys2Proof.Machine.execResultWrite g n s
  | .trapEntry g t => Sys2Proof.Machine.execTrapEntry g t s
  | .divergenceSpill g => Sys2Proof.Machine.execDivergenceSpill g s
  | .divergenceRefill g => Sys2Proof.Machine.execDivergenceRefill g s
  | .loadReply n => Sys2Proof.Machine.execLoadReply n s
  | .generationNotice slice => Sys2Proof.Machine.execGenerationNotice slice s
  | .wakeCheck core => Sys2Proof.Machine.execWakeCheck core s
  | .partialAccept n => Sys2Proof.Machine.execPartialAccept n s
  | .remoteAcknowledgement n => Sys2Proof.Machine.execRemoteAcknowledgement n s
  | .rangeLockRegistration g => Sys2Proof.Machine.execRangeLockRegistration g s
  | .engineTransfer n => Sys2Proof.Machine.execEngineTransfer n s
  | .engineCompletion n => Sys2Proof.Machine.execEngineCompletion n s
  | .monitorNotice n => Sys2Proof.Machine.execMonitorNotice n s
  | .sealEraNotice core => Sys2Proof.Machine.execSealEraNotice core s
  | .sealEraAcknowledgement n => Sys2Proof.Machine.execSealEraAcknowledgement n s
  | .coveAppend n => Sys2Proof.Machine.execCoveAppend n s
  | .gatherCompletion n => Sys2Proof.Machine.execGatherCompletion n s
  | .bucketClear n => Sys2Proof.Machine.execBucketClear n s
  | .matrixOpStart core => Sys2Proof.Machine.execMatrixOpStart core s
  | .matrixOpFinish core => Sys2Proof.Machine.execMatrixOpFinish core s
  | .poolSpill team => Sys2Proof.Machine.execPoolSpill team s
  | .poolRefill team site => Sys2Proof.Machine.execPoolRefill team site s
  | .stealRequest n => Sys2Proof.Machine.execStealRequest n s
  | .stealShipment n => Sys2Proof.Machine.execStealShipment n s
  | .stealEmpty n => Sys2Proof.Machine.execStealEmpty n s
  | .pageWalk n => Sys2Proof.Machine.execPageWalk n s
  | .tlbiAcknowledgement n => Sys2Proof.Machine.execTlbiAcknowledgement n s
  | .completionEventWrite team => Sys2Proof.Machine.execCompletionEventWrite team s
  | .compaction core => Sys2Proof.Machine.execCompaction core s
  | .contextSave team => Sys2Proof.Machine.execContextSave team s
  | .abortEnd team => Sys2Proof.Machine.execAbortEnd team s
  | .deferredAnswer hart => Sys2Proof.Machine.execDeferredAnswer hart s
  | .fallbackPlacement => Sys2Proof.Machine.execFallbackPlacement s
  | .quiescenceReached => Sys2Proof.Machine.execQuiescenceReached s
  | .machineCheck r => Sys2Proof.Machine.execMachineCheck r s
  | .tidemarkAdvance g => Sys2Proof.Machine.execTidemarkAdvance g s
  | .homeLoad g pa => Sys2Proof.Machine.execHomeLoad g pa s
  | .homeWrite g pa data => Sys2Proof.Machine.execHomeWrite g pa data s
  | .writeLeaseRecall line => Sys2Proof.Machine.execWriteLeaseRecall line s
  | .forwardedRead g line => Sys2Proof.Machine.execForwardedRead g line s
  | .goneAnswer line => Sys2Proof.Machine.execGoneAnswer line s
  | .dirtyWriteback core line => Sys2Proof.Machine.execDirtyWriteback core line s
  | .shelfEviction line => Sys2Proof.Machine.execShelfEviction line s
  | .dramFill line => Sys2Proof.Machine.execDramFill line s
  | .retentionSleep core => Sys2Proof.Machine.execRetentionSleep core s
  | .remoteTimeout n => Sys2Proof.Machine.execRemoteTimeout n s
  | .sealHomeOperation r => Sys2Proof.Machine.execSealHomeOperation r s
  | .fifoPop hart => Sys2Proof.Machine.execFifoPop hart s
  | .fifoWatchdog => Sys2Proof.Machine.execFifoWatchdog s
  | .place hart a0 a1 a2 => Sys2Proof.Machine.execPlace hart a0 a1 a2 s
  | .preempt hart a0 a1 => Sys2Proof.Machine.execPreempt hart a0 a1 s
  | .resume hart a0 a1 => Sys2Proof.Machine.execResume hart a0 a1 s
  | .abort hart a0 a1 => Sys2Proof.Machine.execAbort hart a0 a1 s
  | .query hart a0 => Sys2Proof.Machine.execQuery hart a0 s
  | .answer hart a0 a1 => Sys2Proof.Machine.execAnswer hart a0 a1 s
  | .invalidCommand hart op => Sys2Proof.Machine.execInvalidCommand hart op s
  | .packetRead q => Sys2Proof.Machine.execPacketRead q s
  | .distRun => Sys2Proof.Machine.execDistRun s
  | .distQuiesce => Sys2Proof.Machine.execDistQuiesce s
  | .distLoad => Sys2Proof.Machine.execDistLoad s
  | .distHostreq v => Sys2Proof.Machine.execDistHostreq v s
  | .distLogrd v => Sys2Proof.Machine.execDistLogrd v s
  | .registerWrite off wide v => Sys2Proof.Machine.execRegisterWrite off wide v s
  | .hostRead off len => Sys2Proof.Machine.execHostRead off len s
  | .hostWrite off data => Sys2Proof.Machine.execHostWrite off data s
  | .hostAtomicop off wide op => Sys2Proof.Machine.execHostAtomicop off wide op s
  | .pkgTlbinv v => Sys2Proof.Machine.execPkgTlbinv v s
  | .warmReset => Sys2Proof.Machine.execWarmReset s
  | .coldReset => Sys2Proof.Machine.execColdReset s
  | .clearFailedStarts => Sys2Proof.Machine.execClearFailedStarts s
  | .firmwareCommit accepted => Sys2Proof.Machine.execFirmwareCommit accepted s
  | .start r => Sys2Proof.Machine.execStart r s
  | .startWatchdog => Sys2Proof.Machine.execStartWatchdog s
  | .linkFlit link crcOk dest cls => Sys2Proof.Machine.execLinkFlit link crcOk dest cls s
  | .linkFailure link => Sys2Proof.Machine.execLinkFailure link s
  | .ringArbitration arb heads => Sys2Proof.Machine.execRingArbitration arb heads s
  | .coreFence core => Sys2Proof.Machine.execCoreFence core s
  | .stopResume core => Sys2Proof.Machine.execStopResume core s
  | .debugFlush core => Sys2Proof.Machine.execDebugFlush core s
  | .debugCharge => Sys2Proof.Machine.execDebugCharge s
  | .sample core => Sys2Proof.Machine.execSample core s
  | .softErrorCorrected core => Sys2Proof.Machine.execSoftErrorCorrected core s
  | .softErrorWindow core => Sys2Proof.Machine.execSoftErrorWindow core s
  | .powerLimiting => Sys2Proof.Machine.execPowerLimiting s
  | .thermalTrip => Sys2Proof.Machine.execThermalTrip s
  | .hartDeviceAccess hart addr op => Sys2Proof.Machine.execHartDeviceAccess hart addr op s
  | .limitingEnd => Sys2Proof.Machine.execLimitingEnd s

end Sys2Proof.Machine
end

