-- ==== Sys2Proof/Machine/Agenda.lean ====
section
/-!
DEFINITION. What happens next: an input or event that the agenda names, the next word of a run (R36, R74, R75, R102), or the
first event of the machine's own that has an effect. The order among events that the specification leaves free is this
file's; the agenda gives any other (notes/assumptions).
-/
namespace Sys2Proof.Machine

/-! ## Issue -/

/-- Whether a constructor is an instruction word (R74), not an event. -/
def isWord : Instr → Bool
  | .pairWord _ _ _ => true
  | i => (encodeFields i).isSome

/-- A pair word that would be the 25th instruction begins the next run (R36). -/
def pairLate (g : Group) (i : Instr) : Bool :=
  match i with
  | .pairWord _ _ _ => decide (g.pos = 23)
  | _ => false

/-- A fetched word is decoded and executed; a word with no decoding is an Illegal Instruction (R102). -/
def State.issueWord (s : State) (gid : Nat) (g : Group) (w : DWord) (rest : List Fetched) :
    Host.Outcome State Fault Refusal :=
  let s' := s.setGroup gid { g with ibuf := some rest }
  match decode w with
  | .error _ => exec (.trapEntry gid illegalInstruction) s'
  | .ok i => if pairLate g i then .next (s.endRun gid) else exec i s'

/-- The next word of a run (R36, R75). -/
def State.runStep (s : State) (gid : Nat) : Host.Outcome State Fault Refusal :=
  match s.group? gid with
  | none => .next (s.endRun gid)
  | some g =>
    match g.ibuf with
    | some (.word w :: rest) => s.issueWord gid g w rest
    | some (.bad k d pte :: _) => exec (.trapEntry gid (fetchTrap g k d pte)) s
    | _ => .next (s.endRun gid)

/-! ## Events of the machine's own -/

/-- A trap or a Machine Check that may be delivered, or an abort that waits for the log (R310, R324, R328). -/
def Group.trapDue (g : Group) : Bool :=
  !g.ended && (g.doom.isSome || !g.pending && (g.trapped.isSome || (!g.dueMcs.isEmpty && !g.inWait)))

/-- What a group may do between runs. -/
def groupEvents (gid : Nat) (g : Group) : List Instr :=
  ((List.range g.pends.length).filter fun i => match g.pends[i]? with
    | some p => !p.done && decide (p.outstanding = 0)
    | none => false).map (Instr.resultWrite gid) ++
  (if g.trapDue then [.trapEntry gid illegalInstruction] else []) ++
  (match g.stall with
    | some .divSpill => [.divergenceSpill gid]
    | some .divRefill => [.divergenceRefill gid]
    | some (.rangelock _ _) => [.rangeLockRegistration gid]
    | some .pool => [.poolSpill g.team]
    | some (.poolRefill site) => [.poolRefill g.team (BitVec.ofNat 3 site)]
    | _ => [])

/-- Groups that fetch: a resident one whose next words are not there (R38). -/
def State.fetching (s : State) (g : Group) : Bool :=
  !g.ended && g.ibuf.isNone && (match s.team? g.team with
    | some t => decide (t.life = .run)
    | none => false)

/-- What a team may do once its groups have stopped or ended (R305, R306, R311, R313, R368). -/
def teamEvents (h : Nat) (t : Team) : List Instr :=
  match t.life with
  | .ending => [.completionEventWrite h]
  | .aborting _ _ => [.abortEnd h]
  | .saving _ _ => [.contextSave h]
  | .run => match t.stopped with
    | some tr => if t.dumped then [] else [.teamStop t.core h tr]
    | none => []

/-- What an engine operation or a core's matrix engine may do (R199, R228, R249, R281, R283). -/
def opEvents (i : Nat) : List Instr := [.engineTransfer i, .engineCompletion i, .gatherCompletion i, .bucketClear i]
def coreEvents (core : Nat) : List Instr := [.matrixOpFinish core, .matrixOpStart core, .sealEraNotice core]
def stealEvents (i : Nat) : List Instr := [.stealShipment i, .stealRequest i, .stealEmpty i]

/-- A sleeping core whose group could run (R193). -/
def State.wakeDue (s : State) (k : Core) : Bool := k.asleep.isSome && k.age.any fun l => l.any s.eligible
/-- Table entries of a core whose count is at its end (R365). -/
def fullCounts (k : Core) : List Nat := (k.table.filter fun e => decide (0xFFFFFFFF ≤ e.2.count)).map Prod.fst

/-- The events of the memory system. -/
def State.memoryEvents (s : State) : List Instr :=
  [.pageWalk 0, .loadReply 0, .partialAccept 0, .remoteAcknowledgement 0, .monitorNotice 0] ++
  s.genNotices.map Instr.generationNotice ++
  (List.range s.appends.length).map Instr.coveAppend ++
  (List.range s.ops.length).flatMap opEvents ++
  s.cores.flatMap (fun e => coreEvents e.1) ++
  (List.range s.bumps.length).map Instr.sealEraAcknowledgement ++
  (List.range s.tlbis.length).map Instr.tlbiAcknowledgement ++
  (List.range s.steals.length).flatMap stealEvents

/-- The events of groups, teams, the distributor and the host port. -/
def State.otherEvents (s : State) : List Instr :=
  s.groups.flatMap (fun e => groupEvents e.1 e.2) ++
  s.teams.flatMap (fun e => teamEvents e.1 e.2) ++
  s.dist.compacts.map (fun c => Instr.compaction c.core) ++
  s.dist.fences.map (fun f => Instr.coreFence f.1) ++
  s.dist.mechs.map (fun e => Instr.deferredAnswer e.1) ++
  [.quiescenceReached, .fallbackPlacement] ++
  (s.groups.filter fun e => s.fetching e.2).map (fun e => Instr.instructionFetch e.1) ++
  s.cores.flatMap (fun e => (fullCounts e.2).map (Instr.debugCountWrap e.1)) ++
  (s.cores.filter fun e => s.wakeDue e.2).map (fun e => Instr.wakeCheck e.1)

/-- Migration and arbitration: what goes on while nothing else is due (R38, R341). -/
def State.idleEvents (s : State) : List Instr :=
  s.host.migration.map (fun e => Instr.migrationLineMove e.1) ++
  s.cores.flatMap (fun e => (List.range 4).map (Instr.runArbitration e.1)) ++
  (if s.host.holdoff then [.vector0HoldoffExpiry] else [])

/-- The state after an event, if it changes anything. -/
def State.tryEvent (s : State) (e : Instr) : Option State :=
  match exec e s with
  | .next s' => if s' = s then none else some s'
  | _ => none

/-- The first event of the machine's own, the harts apart, that changes anything; in low-water mode only the host port's (R373). -/
def State.ownEvent (s : State) : Option State :=
  if s.host.lowWater then s.tryEvent .vector0HoldoffExpiry else
  (s.memoryEvents.findSome? s.tryEvent).orElse fun _ =>
    (s.otherEvents.findSome? s.tryEvent).orElse fun _ => s.idleEvents.findSome? s.tryEvent

/-- The next instruction of a hart: of the first, from `hartNext` on, that runs and changes anything (R287). -/
def State.hartEvent (s : State) : Option State :=
  if !s.hartsOn then none
  else (List.range 8).findSome? fun k =>
    let h := (s.dist.hartNext + k) % 8
    let t := s.hartStep h
    if t = s then none else some (t.modDist fun d => { d with hartNext := (h + 1) % 8, hartTurn := false })
/-- An event of the machine's own, after which a hart has its turn. -/
def State.ownTurn (s : State) : Option State :=
  s.ownEvent.map fun t => if t.hartsOn then t.modDist fun d => { d with hartTurn := true } else t

/-- What happens next of itself: harts and the rest of the machine by turns. -/
def State.nextEvent (s : State) : Option State :=
  if s.dist.hartTurn then s.hartEvent.orElse fun _ => s.ownTurn else s.ownTurn.orElse fun _ => s.hartEvent

/-- An entry of the agenda; an instruction word there is no event, and is dropped. -/
def State.agendaStep (s : State) (e : Instr) (rest : List Instr) : Host.Outcome State Fault Refusal :=
  if isWord e then .next { s with agenda := rest } else exec e { s with agenda := rest }

/-! ## Placing one word -/

/-- The packet, team and group that `withFetchWord` places where no run is under way. -/
def sampleEntry : DWord := 0x10000
def samplePacket : Packet :=
  { queue := 0, addr := 0, entry := sampleEntry, grid := (1, 1, 1), groups := 1, clw := 1, clh := 1, carve := 1, regs := 64,
    acc := 8, tags := 16, scratch := 2048, poolEnt := 0, poolFb := 0, poolN := 0, spillEnt := 0, pxen := false, seq := 0,
    items := 0, args := 0, ctxSave := 0, events := 0, arena := 0, psBase := 0, psSize := 0, kwin := [0, 0, 0, 0], deps := [] }
def sampleTeam : Team :=
  { pid := 1, index := 0, rank := 0, lead := 1, core := 0, sbase := 0, slots := [0], regAt := [0], granule := 0, tileAt := [0] }
def sampleGroup (w : DWord) : Group :=
  { team := 1, idx := 0, pc := sampleEntry, mask := 0xFFFFFFFF, live := 0xFFFFFFFF, h := 0, tide := 0, tvec := 0,
    ibuf := some [.word w] }
/-- A machine with one team of one group on core 0, its run under way with one word fetched. -/
def State.placeWord (s : State) (w : DWord) : State :=
  { s with
    agenda := [], runs := [0], groups := sins s.groups 0 (sampleGroup w), teams := sins s.teams 1 sampleTeam,
    cores := sins s.cores 0 { s.coreAt 0 with age := [[0], [], [], []], fenced := false, asleep := none },
    dist := { s.dist with packets := sins s.dist.packets 1 { pk := samplePacket } } }

/-- The word the next step issues: the first fetched word of the run that is first, else of a team placed for it. -/
def State.withWord (s : State) (w : DWord) : State :=
  match s.runs with
  | [] => s.placeWord w
  | gid :: _ => match s.group? gid with
    | none => s.placeWord w
    | some g => { s with agenda := [] }.setGroup gid { g with ibuf := some [.word w], pos := 0 }

end Sys2Proof.Machine
end

