-- ==== Sys2Proof/Machine/Step.lean ====
section
/-!
DEFINITION. One step of the machine: the next input of the agenda, the next word of a run under way, or the next event of
the machine's own; with none of these the machine is idle.
-/
namespace Sys2Proof.Machine

def step (s : State) : Host.Outcome State Fault Refusal :=
  match s.agenda with
  | e :: rest => s.agendaStep e rest
  | [] => match s.runs with
    | gid :: _ => s.runStep gid
    | [] => .next (s.nextEvent.getD s)

/-- The word numbered as spec/opcode_table.json numbers it, where the next step issues it. -/
def State.withFetchWord (s : State) (nbits w : Nat) : State := s.withWord (BitVec.ofNat 64 (w % 2 ^ min nbits 64))

end Sys2Proof.Machine
end

