-- ==== Sys2Proof/Safety.lean ====
section
/-!
DEFINITION. The words in which the statements about the machine are written: when an instruction may begin, the registers it
leaves, and what stays as it was.
-/
namespace Sys2Proof.Machine

/-! ## What each word declares (R102, step 2 to 4) -/

/-- What each form of instruction word declares in the context `c`: its guard, its operands with their kinds, counts and
alignments, the registers it writes, whether it is long-latency, privileged or refused in handler mode; nothing for an event. -/
def declares (s : State) (c : Ctx) : Instr → Option Gate
  | .bra b _ => some { hd := bare b }
  | .brp b p _ _ => some { hd := bare b, exReads := [.p p.toNat] }
  | .brx b a => some { hd := bare b, rds := [.sgroup a 2 2], target := some a }
  | .call b _ => some { hd := bare b, wrs := [.s 62, .s 63], whole := true }
  | .ret b => some { hd := bare b, exReads := [.s 62, .s 63], target := some (.s 62) }
  | .div b _ => some { hd := bare b }
  | .join b => some { hd := bare b }
  | .loop b k _ => some { hd := bare b, rds := [.sgroup k 1 1], wrs := [.s (counterOf k)], whole := true }
  | .exit h => some (exitGate h c)
  | .yield h => some { hd := h }
  | .trap h _ => some { hd := h }
  | .brk h _ => some { hd := h }
  | .pand o | .por o | .pxor o => some (gateP2 o)
  | .pnot o | .pknown o => some (gateP1 o)
  | .presolve o _ => some (gateP1 o)
  | .pset h d _ => some { hd := h, wrs := [.p d.toNat] }
  | .pmovv h d a => some { hd := h, exReads := [.p a.toNat], wrs := [.v d.toNat 1 1] }
  | .pmovp h hold d a => some { hd := h, hold := holdSrc hold (some a) none none, rds := [.w32 a], wrs := [.p d.toNat] }
  | .pany o | .pall o => some (gateP1 o)
  | .pcount o | .pmask o => some (gatePC o)
  | .iadd o | .isub o => some (gate2 o)
  | .iaddc o | .isubb o => some (gate3 o)
  | .ineg o | .iabs o => some (gate1 o)
  | .imin o | .imax o | .iminu o | .imaxu o | .and o | .or o | .xor o | .andn o => some (gate2 o)
  | .not o => some (gate1 o)
  | .sel o => some (gate3 o)
  | .imul o | .imulhi o | .imulhiu o => some (gate2 o)
  | .imad o => some (gate3 o)
  | .imulw o => some { gate2 o with wrs := [.g64 o.d] }
  | .lea o => some { hd := o.h, hold := holdSrc o.hold none (some o.b) none, rds := [.w64 o.a, .w32 o.b], wrs := [.g64 o.d] }
  | .iadd64 o | .isub64 o => some (gate64 o)
  | .iaddi o | .andi o | .ori o | .xori o => some (gateI o)
  | .movi h d _ => some { hd := h, wrs := [.g32 d] }
  | .movhi o | .imini o | .imaxi o => some (gateI o)
  | .shl o | .shr o | .sar o | .rot o => some (gate2 o)
  | .shf o | .bfx o | .bfxu o => some (gate3 o)
  | .bfi o => some { gate3 o with exReads := Wr.regs (.g32 o.d) }
  | .popc o | .clz o | .brev o => some (gate1 o)
  | .mov o => some { hd := o.h, hold := holdSrc o.hold (some o.a) none none, rds := [.w32 o.a], wrs := [.g32 o.d] }
  | .movQueuePush h _ a => some { hd := h, rds := [.w32 a], badOperand := pushKind a == 0, noHandler := true, memory := true }
  | .movQueuePop h d _ => some { hd := h, wrs := [.g32 d], noHandler := true, memory := true }
  | .mov64 o => some { hd := o.h, rds := [.w64 o.a], wrs := [.g64 o.d] }
  | .movs h hold d a => some { hd := h, hold := holdSrc hold (some a) none none, rds := [.w32 a], wrs := [.s d.toNat] }
  | .bcast o => some (gateVU o .w32)
  | .rdlane h la hold d a b =>
    some { hd := h, long := some la, hold := holdSrc hold (some a) (regB b) none, rds := .w32 a :: rdsB b .u32, win :=
           windowB b 1, wrs := [.s d.toNat] }
  | .wrlane o => some (gateVU o .u32)
  | .shfl h la hold d a b _ =>
    some { hd := h, long := some la, hold := holdSrc hold (some a) (some b) none, rds := [.w32 a, .w32 b], wrs := [.v
           d.toNat 1 1] }
  | .nmov o => some (gateVU o .w32)
  | .movm h hold a => some { hd := h, hold := holdSrc hold (some a) none none, rds := [.u32 a] }
  | .rdsp h d x => some { hd := h, wrs := [if x = .cycle then .g64 d else .g32 d] }
  | .icmp o | .icmpu o =>
    some { hd := o.h, hold := holdSrc o.hold (some o.a) (some o.b) none, rds := [.w32 o.a, .w32 o.b], wrs := [.p
           o.d.toNat] }
  | .icmp64 o _ => some { hd := o.h, rds := [.w64 o.a, .w64 o.b], wrs := [.p o.d.toNat] }
  | .scan h hold d a _ _ =>
    some { hd := h, hold := holdSrc hold (some a) none none, rds := [.w32 a], wrs := [.v d.toNat 1 1] }
  | .gred h hold d a op => some (gredGate h hold d a op)
  | .compact h hold d a p =>
    some { hd := h, hold := holdSrc hold (some a) none none, rds := [.w32 a], exReads := [.p p.toNat], wrs := [.v
           d.toNat 1 1] }
  | .isect h hold d a b =>
    some { hd := h, hold := holdSrc hold (some a) (some b) none, rds := [.w32 a, .w32 b], wrs := [.v d.toNat 1 1] }
  | .mpath h hold d a b c =>
    some { hd := h, hold := holdSrc hold (some a) (some b) (some c), rds := [.w32 a, .w32 b, .u32 c], wrs := [.v
           d.toNat 1 1] }
  | .fadd o | .fsub o | .fmul o => some (gateF2 o true)
  | .fdiv la o => some { gateF2 o true with long := some la }
  | .fdivx la o => some (gateFdivx la o)
  | .ffma o => some (gateF3 o)
  | .fsqr o => some (gateF1 o true)
  | .fsqrt la o => some { gateF1 o true with long := some la }
  | .fmin o | .fmax o => some (gateF2 o true)
  | .fabs o | .fneg o => some (gateF1 o true)
  | .fpown o _ => some (gateF1 o true)
  | .fexp2 la o | .flog2 la o => some { gateF1 o true with long := some la }
  | .fhull o | .fisect o => some (gateF2 o false)
  | .fmid o | .frad o | .fwid o | .fmag o | .fmig o | .finf o | .fsup o =>
    some { hd := o.h, rds := [.iv o.w o.a], wrs := [.pt o.w o.d] }
  | .fmake o =>
    some { hd := o.h, hold := holdSrc o.hold (some o.a) (regB o.b) none, rds := .pt o.w o.a :: rdsB o.b (.pt o.w), win
           := windowB o.b (wordsIn o.w / 2), wrs := [.iv o.w o.d] }
  | .fpoint o => some { hd := o.h, hold := holdSrc o.hold (some o.a) none none, rds := [.pt o.w o.a], wrs := [.iv o.w o.d] }
  | .fcmp h d a b _ w => some { hd := h, rds := [.iv w a, .iv w b], wrs := [.p d.toNat] }
  | .fsubset o | .finterior o | .fdisj o => some { hd := o.h, rds := [.iv o.w o.a, .iv o.w o.b], wrs := [.p o.d.toNat] }
  | .fcontains o =>
    some { hd := o.h, hold := holdSrc o.hold none (some o.b) none, rds := [.iv o.w o.a, .pt o.w o.b], wrs := [.p
           o.d.toNat] }
  | .fclass h d a w => some { hd := h, rds := [.iv w a], wrs := [.g32 d] }
  | .fwiden h d a => some { hd := h, rds := [.iv .s a], wrs := [.iv .d d] }
  | .fnarrow h d a => some { hd := h, rds := [.iv .d a], wrs := [.iv .s d] }
  | .fcvti h d a _ w => some { hd := h, rds := [.iv w a], wrs := [.g32 d] }
  | .icvtf h hold d a _ w => some { hd := h, hold := holdSrc hold (some a) none none, rds := [.w32 a], wrs := [.iv w d] }
  | .fcvtbf h d a b _ => some { hd := h, rds := [.iv .s a, .iv .s b], wrs := [.g32 d] }
  | .fpack h hold d a _ =>
    some { hd := h, hold := holdSrc hold (some a) none none, rds := [.w32 a], wrs := [.v d.toNat 1 1] }
  | .funpack h hold d a b _ =>
    some { hd := h, hold := holdSrc hold (some a) (some b) none, rds := [.w32 a, .w32 b], wrs := [.v d.toNat 2 2] }
  | .ftomrad h d a w => some { hd := h, rds := [.iv w a], wrs := [.pt w d] }
  | .ffrommrad h hold d a w => some { hd := h, hold := holdSrc hold (some a) none none, rds := [.pt w a], wrs := [.iv w d] }
  | .ftrunc h hold d a _ => some { hd := h, hold := holdSrc hold (some a) none none, rds := [.w32 a], wrs := [.g32 d] }
  | .split h d _ => some (splitGate h d c.pk)
  | .spawn h d a _ => some (spawnGate h d a c.pk)
  | .take h d _ => some (takeGate h d c.pk)
  | .tend h => some { hd := h, noHandler := true, memory := true }
  | .poolq h d _ => some { hd := h, wrs := [.g32 d] }
  | .ld o => some (ldGate o)
  | .st o => some (stGate o)
  | .lds o => some (ldsGate o)
  | .sts o => some (stsGate o)
  | .ldk o => some (ldGate o)
  | .ldmrad o => some (ldmradGate o)
  | .stmrad o => some { hd := o.h, rds := [.a64 o.a, .iv o.w o.b], memory := true }
  | .stp o => some { hd := o.h, rds := [.a64 o.a, .iv (stpWidth o.fmt) o.b], memory := true }
  | .pref o => some { hd := o.h, hold := holdSrc o.hold none (some o.b) none, rds := [.a64 o.a, .w32 o.b] }
  | .atom o => some (atomGate o)
  | .atomcas o => some (casGate o)
  | .fatom o => some (fatomGate o)
  | .red o => some (redGate o)
  | .fred o => some (fredGate o)
  | .xcopy o | .xfill o => some (xGate o)
  | .xwait h d a _ => some { hd := h, rds := [.u64 a], wrs := [.p d.toNat] }
  | .xtest h d a => some { hd := h, rds := [.u64 a], wrs := [.g32 d] }
  | .xclear h a => some { hd := h, rds := [.u64 a] }
  | .bar h hold a _ => some { hd := h, hold := holdSrc hold (some a) none none, rds := [.u32 a], noHandler := true }
  | .barc h _ => some { hd := h, noHandler := true }
  | .bara h hold d a _ =>
    some { hd := h, hold := holdSrc hold (some a) none none, rds := [.u32 a], wrs := [.g32 d], noHandler := true }
  | .barw h hold a _ => some { hd := h, hold := holdSrc hold (some a) none none, rds := [.u32 a], noHandler := true }
  | .qmap h kind _ a b =>
    some { hd := h, rds := [.u32 a, .u32 b], noHandler := true, badOperand := !(qmapForm kind a b) }
  | .qtry h d _ _ => some { hd := h, wrs := [.p d.toNat] }
  | .waitv h hold d a b =>
    some { hd := h, hold := holdSrc hold none (regB b) none, rds := .u64 a :: rdsB b .u32, win := windowB b 1, wrs :=
           [.p d.toNat], memory := true }
  | .mma o => some (mmaGate o (depBytes o.dep / 16))
  | .mmax o => some (mmaGate o (depBytes o.dep / 16 + mmaK o.fmt (depBytes o.dep) / 4))
  | .zclr h z _ => some { hd := h, wrs := [.z z.toNat] }
  | .zld h la z a _ => some { hd := h, long := some la, rds := [.u64 a], wrs := [.z z.toNat], memory := true }
  | .zst h z a _ => some { hd := h, rds := [.u64 a], exReads := [.z z.toNat], zs := [z.toNat], memory := true }
  | .zget h la d z w =>
    some { hd := h, long := some la, wrs := [.v d.toNat (2 * ivWords w) (2 * ivWords w)], exReads := [.z z.toNat], zs
           := [z.toNat] }
  | .zput h z a w =>
    some { hd := h, rds := [.vgroup a (2 * ivWords w) (2 * ivWords w)], wrs := [.z z.toNat], uncharged := true }
  | .scld h slot part => some (scldGate h slot part)
  | .seal o => some (sealGate o true)
  | .peek o => some (sealGate o false)
  | .reopen h la hold d a c =>
    some { hd := h, long := some la, hold := holdSrc hold none none (some c), rds := [.a64 a, .w32 c], wrs := [.p
           d.toNat], memory := true }
  | .cinit h hold a c => some { hd := h, hold := holdSrc hold none none (some c), rds := [.a64 a, .w32 c], memory := true }
  | .ktable h _ a => some { hd := h, rds := [.u64 a], memory := true, memCode := 11 }
  | .kstore h hold slot a b =>
    some { hd := h, hold := holdSrc hold none (some b) none, rds := [.u32 b], exReads := keyReads s a slot.toNat,
           badOperand := !(isV a), noHandler := true, memory := true }
  | .ksign h la d a slot =>
    some { hd := h, long := some la, wrs := [.g64 d], exReads := keyReads s a slot.toNat, badOperand := !(isV a) }
  | .kgather h d a b slot _ =>
    some { hd := h, rds := [.sgroup b 4 4], wrs := [.p d.toNat], exReads := keyReads s a slot.toNat, badOperand :=
           !(isV a), memory := true }
  | .kclear h hold b _ _ _ => some { hd := h, hold := holdSrc hold none (some b) none, rds := [.u32 b], memory := true }
  | .dqnext h hold a _ =>
    some { hd := h, hold := holdSrc hold (some a) none none, rds := [.u32 a], noHandler := true, memory := true }
  | .dqdone h hold a =>
    some { hd := h, hold := holdSrc hold (some a) none none, rds := [.u32 a], noHandler := true, memory := true }
  | .devent h hold a =>
    some { hd := h, hold := holdSrc hold (some a) none none, rds := [.u32 a], noHandler := true, memory := true }
  | .dwait h hold d a b =>
    some { hd := h, hold := holdSrc hold none (regB b) none, rds := .u64 a :: rdsB b .u32, win := windowB b 1, wrs :=
           [.p d.toNat], memory := true }
  | .tret b => some { hd := ⟨b, .always⟩, priv := true, whole := true, drains := true }
  | .mfsr h d r => some { hd := h, wrs := [.g64 d], priv := supervisor r }
  | .mtsr h r a => some { hd := h, rds := [.u64 a], priv := supervisor r }
  | .tlbf h a => some { hd := h, rds := [.a64 a], priv := true, memory := true, memCode := 11 }
  | .tlbi h hold a b =>
    some { hd := h, hold := holdSrc hold none (regB b) none, rds := .u64 a :: rdsB b .u32, win := windowB b 1, priv :=
           true, memory := true, memCode := 11 }
  | .probe h d a =>
    some { hd := h, rds := [.a64 a], wrs := [.g64 d], priv := true, memory := true, memCode := 11 }
  | .halt h _ => some { hd := h, priv := true }
  | .pairWord b hi lo =>
    some { hd := ⟨b, .always⟩, size := 2, rds := halfRds hi ++ halfRds lo, wrs := halfWrs s hi ++ halfWrs s lo,
           exReads := guardRegs hi.g ++ guardRegs lo.g }
  | _ => none

/-! ## When an instruction begins -/

/-- The first run belongs to the group of `c`, and an instruction that declares `i` is stopped by none of steps 2 to 4 of
R102 and by no hazard (R88 to R91, R180): `ws` are the words of its constant window, if it reads one. No write from outside
to its registers or its team's tiles waits for the group's run to end (R37, R178). -/
def Starts (i : Gate) (s : State) (c : Ctx) (ws : List Word) : Prop :=
  s.runs.head? = some c.gid ∧ s.ctx? c.gid = some c ∧ c.g.inbound = [] ∧ c.t.tileIn = [] ∧
  i.privOk c.g = true ∧ i.operandsOk c = true ∧ i.violates c.g = false ∧
  i.lookaheadWait c.g = false ∧ (i.drains = true → c.g.pending = false) ∧ i.writeWait c.g = false ∧
  (i.memory = true → c.g.memBusy = false) ∧
  s.readWindow c (c.g.active i.hd.g) (if c.g.active i.hd.g = 0 then none else i.win) = .words ws

/-- An instruction word that begins, by what it declares. -/
def Begins (i : Instr) (s : State) (c : Ctx) (ws : List Word) : Prop := ∃ g, declares s c i = some g ∧ Starts g s c ws

/-- The word has performed: the next state is that of its effect `p`, with its group moved on (`Obligations.PerformFrame` says what that
changes). -/
def Performs (i : Instr) (s : State) (c : Ctx) (p : Perf) : Prop :=
  ∃ g, declares s c i = some g ∧ exec i s = .next (State.finish c.gid c.g g (c.g.active g.hd.g) p)
/-- The word takes a trap and performs nothing (R102). -/
def Traps (i : Instr) (s : State) (c : Ctx) (t : TrapInfo) : Prop := exec i s = .next (s.takeTrap c.gid t)
/-- The word stalls: its run ends and it issues again (R36). -/
def Waits (i : Instr) (s : State) (c : Ctx) (w : Stall) : Prop := exec i s = .next (s.stallAt c.gid w)

/-- The registers of a group: V, S, predicates and the handler banks (R13, R20, R325). -/
def Group.regs (g : Group) : Store Word × Store Word × Store (BitVec 2) × Store Word × Store (BitVec 2) :=
  (g.v, g.s, g.p, g.hs, g.hp)

/-- The lanes a trap reports that the instruction causes: its active lanes, or the live ones where it has none (R323). -/
def trapLanes (g : Group) (act : Word) : Word := if act = 0 then g.live else act

/-! ## Registers -/

/-- S registers by bank: the handler bank holds its own S56 to S63 (R325). -/
def Group.sCell (g : Group) (bank : Bool) (n : Nat) : Word := if bank then sget 0 g.hs n else sget 0 g.s n
/-- Predicate codes by bank: the handler bank holds its own P6 and P7 (R325). -/
def Group.pCell (g : Group) (bank : Bool) (k l : Nat) : BitVec 2 :=
  if bank then sget 0 g.hp (32 * k + l) else sget 0 g.p (32 * k + l)
/-- Which bank an S register or a predicate is in. -/
def Group.sBank (g : Group) (n : Nat) : Bool := g.hmode && decide (56 ≤ n)
def Group.pBank (g : Group) (k : Nat) : Bool := g.hmode && decide (6 ≤ k)

/-- A source whose kind its operand admits, in the allocation and aligned to its count (R47, R77, R78, R116): V registers and
neighbours, S registers, a valid latch, the lane index and M; the zero code always. -/
def SourceIs (regs : Nat) (g : Group) (a : Src) (cnt : Nat) (v s latch other : Bool) : Prop :=
  match a with
  | .v n | .left n | .right n => v = true ∧ n.toNat % cnt = 0 ∧ n.toNat + cnt ≤ regs
  | .s n => s = true ∧ n.toNat % cnt = 0 ∧ n.toNat + cnt ≤ 64
  | .latch i => latch = true ∧ g.latchOk i.val = true
  | .zero => True
  | .lane | .mask => other = true
  | .reserved _ => False

/-- The lowest active lane (R17). -/
def lowLane (act : Word) : Nat := (lanesOf act).headD 0

/-- V register r in lane l once a destination of `cnt` registers holds word k of lane l as `f l k`, in the active lanes. -/
def vAfter (old : Group) (act : Word) (d : Dst) (cnt : Nat) (f : Nat → Nat → Word) (r l : Nat) : Word :=
  match d with
  | .v n => if act.getLsbD l = true ∧ n.toNat ≤ r ∧ r < n.toNat + cnt then f l (r - n.toNat) else old.getV r l
  | .s _ => old.getV r l
/-- The S registers of each bank: a scalar destination receives the lowest active lane's value, once (R17). -/
def sAfter (old : Group) (act : Word) (d : Dst) (cnt : Nat) (f : Nat → Nat → Word) (bank : Bool) (n : Nat) : Word :=
  match d with
  | .v _ => old.sCell bank n
  | .s m =>
    if act ≠ 0 ∧ m.toNat ≤ n ∧ n < m.toNat + cnt ∧ bank = old.sBank n then f (lowLane act) (n - m.toNat)
    else old.sCell bank n
/-- Predicate k in lane l once predicate p holds the code `f l` in the active lanes. -/
def pAfter (old : Group) (act : Word) (p : Nat) (f : Nat → BitVec 2) (bank : Bool) (k l : Nat) : BitVec 2 :=
  if act.getLsbD l = true ∧ k = p ∧ bank = old.pBank k then f l else old.pCell bank k l

/-! ## What stays -/

/-- A group without its register cells and without what every instruction moves on (pc, run position, latches, windows). What
it keeps is the mask, the live lanes, the task bits, the divergence stack, the tidemark, every system register and the mode. -/
def Group.rest (g : Group) : Group :=
  { g with pc := 0, s := [], v := [], p := [], hs := [], hp := [], latches := [], lptr := 0, pos := 0, pends := [],
           ibuf := none, walkFaults := [], stall := none, poolTry := false, barHere := false, redo := false, unpopped := none }

/-- `t` is `x` but for one group and the runs, the clock and the operation numbers, which every instruction moves on: memory,
the other groups, teams, cores and everything else are those of `x`. -/
def Elsewhere (x t : State) (gid : Nat) : Prop :=
  { t with runs := x.runs, groups := x.groups, cycle := x.cycle, nextId := x.nextId } = x ∧
  ∀ k, k ≠ gid → t.group? k = x.group? k

/-- An instruction wrote `cnt` words of a destination and nothing else, and the group stands at the next word. -/
def Wrote (s t : State) (c : Ctx) (act : Word) (d : Dst) (cnt : Nat) (f : Nat → Nat → Word) : Prop :=
  Elsewhere s t c.gid ∧ ∃ g, t.group? c.gid = some g ∧ g.rest = c.g.rest ∧ g.pc = c.g.pc + 8 ∧
    (∀ r l, l < 32 → g.getV r l = vAfter c.g act d cnt f r l) ∧
    (∀ bank n, g.sCell bank n = sAfter c.g act d cnt f bank n) ∧
    (∀ bank k l, l < 32 → g.pCell bank k l = c.g.pCell bank k l)

/-- An instruction wrote a predicate and nothing else. -/
def WroteP (s t : State) (c : Ctx) (act : Word) (p : BitVec 3) (f : Nat → BitVec 2) : Prop :=
  Elsewhere s t c.gid ∧ ∃ g, t.group? c.gid = some g ∧ g.rest = c.g.rest ∧ g.pc = c.g.pc + 8 ∧
    (∀ r l, l < 32 → g.getV r l = c.g.getV r l) ∧
    (∀ bank n, g.sCell bank n = c.g.sCell bank n) ∧
    (∀ bank k l, l < 32 → g.pCell bank k l = pAfter c.g act p.toNat f bank k l)

/-- A long-latency instruction has issued (R87, R88): no register is written; where a lane is active its registers are pending
for `la` positions, with what is to be written to them and the replies still awaited. -/
def Pends (s t : State) (c : Ctx) (i : Gate) (act : Word) (la : BitVec 4) (w : Writes) (awaited : Nat) : Prop :=
  Elsewhere s t c.gid ∧ ∃ g, t.group? c.gid = some g ∧ g.rest = c.g.rest ∧ g.pc = c.g.pc + 8 ∧
    g.v = c.g.v ∧ g.s = c.g.s ∧ g.p = c.g.p ∧ g.hs = c.g.hs ∧ g.hp = c.g.hp ∧
    (act ≠ 0 → ∃ p, g.pends.getLast? = some p ∧ p.regs = i.writes ∧ p.left = la.toNat ∧ p.writes = w ∧
      p.done = false ∧ p.outstanding = awaited ∧ p.bank = c.g.hmode)

/-- The group of `c` became `g'` and stands at `pc` with the wait `w`; beside its run, nothing but it changed. -/
def Became (x t : State) (gid : Nat) (g' : Group) (pc : DWord) (w : Option Stall) : Prop :=
  Elsewhere x t gid ∧ ∃ g, t.group? gid = some g ∧ g.rest = g'.rest ∧ g.regs = g'.regs ∧ g.pc = pc ∧ g.stall = w

/-! ## Shapes of statements about words -/

/-- Whenever the word begins it completes and writes its destination: word k of active lane l is `f c ws l k`. -/
def WritesDst (i : Instr) (h : Hd) (d : Dst) (cnt : Nat) (f : State → Ctx → List Word → Nat → Nat → Word) : Prop :=
  ∀ s c ws, Begins i s c ws → ∃ t, exec i s = .next t ∧ Wrote s t c (c.g.active h.g) d cnt (f s c ws)
/-- Whenever the word begins it completes and writes its predicate with the value `f c l` in active lane l. -/
def WritesPred (i : Instr) (h : Hd) (p : BitVec 3) (f : Ctx → Nat → Tri) : Prop :=
  ∀ s c ws, Begins i s c ws → ∃ t, exec i s = .next t ∧ WroteP s t c (c.g.active h.g) p fun l => triCode (f c l)
/-- Whenever the long-latency word begins it completes: nothing is written yet, and its registers are pending for `la`
positions with the words `f c ws l k` of active lane l. -/
def LeavesPending (i : Instr) (h : Hd) (la : BitVec 4) (d : Dst) (cnt : Nat) (f : Ctx → List Word → Nat → Nat → Word) :
    Prop :=
  ∀ s c ws, Begins i s c ws → ∃ g t, declares s c i = some g ∧ exec i s = .next t ∧
    Pends s t c g (c.g.active h.g) la (dstWrites (c.g.active h.g) d cnt (f c ws)) 0
/-- Whenever the word begins it completes, and only its own group changes: to `f c act`, at the next word. -/
def Makes (i : Instr) (h : Hd) (f : Ctx → Word → Group) : Prop :=
  ∀ s c ws, Begins i s c ws → ∃ t, exec i s = .next t ∧ Became s t c.gid (f c (c.g.active h.g)) (c.g.pc + 8) none

/-- One, two or three 32-bit sources, or a source and imm20, to one word per lane (R128, R130, R131). -/
def OneSource (mk : Op1 → Instr) (f : Word → Word) : Prop :=
  ∀ o, WritesDst (mk o) o.h o.d 1 fun _ c _ l _ => f (c.g.src32 o.a l)
def TwoSources (mk : Op2 → Instr) (f : Word → Word → Word) : Prop :=
  ∀ o, WritesDst (mk o) o.h o.d 1 fun _ c ws l _ => f (c.g.src32 o.a l) (c.g.srcB o.b ws l 0)
def ThreeSources (mk : Op3 → Instr) (f : Word → Word → Word → Word) : Prop :=
  ∀ o, WritesDst (mk o) o.h o.d 1 fun _ c _ l _ => f (c.g.src32 o.a l) (c.g.src32 o.b l) (c.g.src32 o.c l)
def Immediate (mk : OpI → Instr) (f : Word → BitVec 20 → Word) : Prop :=
  ∀ o, WritesDst (mk o) o.h o.d 1 fun _ c _ l _ => f (c.g.src32 o.a l) o.imm
/-- A value of 64 bits from two words, as an unsigned number, and its word k (R116). -/
def joined (lo hi : Word) : Nat := lo.toNat + 2 ^ 32 * hi.toNat
def wordAtBit (x : Int) (k : Nat) : Word := BitVec.ofInt 32 (x / 2 ^ (32 * k))
/-- A comparison of two integers (R139). -/
def intCond (cc : Cond) (a b : Int) : Bool :=
  match cc with
  | .eq => decide (a = b)
  | .ne => decide (a ≠ b)
  | .lt => decide (a < b)
  | .le => decide (a ≤ b)
  | .gt => decide (a > b)
  | .ge => decide (a ≥ b)
/-- One, two or three intervals to an interval (R149, R154), at once or pending. -/
def Interval1 (mk : FOp1 → Instr) (f : FW → Ival → Ival) : Prop :=
  ∀ o, WritesDst (mk o) o.h o.d (wordsIn o.w) fun _ c _ l k => ivWord o.w (f o.w (c.g.ival o.w o.a l)) k
def Interval2 (mk : FOp2 → Instr) (f : FW → Ival → Ival → Ival) : Prop :=
  ∀ o, WritesDst (mk o) o.h o.d (wordsIn o.w) fun _ c ws l k =>
    ivWord o.w (f o.w (c.g.ival o.w o.a l) (c.g.ivalB o.w o.b ws l)) k
def LongInterval1 (mk : BitVec 4 → FOp1 → Instr) (f : FW → Ival → Ival) : Prop :=
  ∀ la o, LeavesPending (mk la o) o.h la o.d (wordsIn o.w) fun c _ l k => ivWord o.w (f o.w (c.g.ival o.w o.a l)) k
/-- An interval to a point (R147, R154). -/
def ToPoint (mk : FOp1 → Instr) (f : FW → Ival → Pt) : Prop :=
  ∀ o, WritesDst (mk o) o.h o.d (wordsIn o.w / 2) fun _ c _ l k => ptWord o.w (f o.w (c.g.ival o.w o.a l)) k

/-- The reals an interval holds (R49). -/
def Ival.has : Ival → Rat → Prop
  | .empty, _ => False
  | .mk lo hi, q => lo.le (.fin q) = true ∧ (Ext.fin q).le hi = true

/-- A bound of an interval lies below, or above, a real. -/
def Ext.below : Ext → ℝ → Prop
  | .ninf, _ => True
  | .fin q, y => (q : ℝ) ≤ y
  | .pinf, _ => False
def Ext.above : Ext → ℝ → Prop
  | .ninf, _ => False
  | .fin q, y => y ≤ (q : ℝ)
  | .pinf, _ => True
/-- The reals an interval holds, irrational ones too (R49). -/
def Ival.holds : Ival → ℝ → Prop
  | .empty, _ => False
  | .mk lo hi, y => lo.below y ∧ hi.above y
/-- An interval of a format: Empty, or bounds in order that the format has, the lower not +∞ and the upper not −∞ (R49). -/
def Ival.inFmt (f : Fmt) : Ival → Prop
  | .empty => True
  | .mk lo hi => lo.le hi = true ∧ lo ≠ .pinf ∧ hi ≠ .ninf ∧ (∃ n, f.dec n = .num lo) ∧ ∃ n, f.dec n = .num hi
/-- The smallest interval of a format that holds every real with a property (R51). -/
def Smallest (f : Fmt) (x : Ival) (P : ℝ → Prop) : Prop :=
  x.inFmt f ∧ (∀ y, P y → x.holds y) ∧ ∀ z : Ival, z.inFmt f → (∀ y, P y → z.holds y) → ∀ y, x.holds y → z.holds y

/-- A comparison of two reals. -/
def ratCond (cc : Cond) (a b : Rat) : Prop :=
  match cc with
  | .eq => a = b
  | .ne => a ≠ b
  | .lt => a < b
  | .le => a ≤ b
  | .gt => a > b
  | .ge => a ≥ b
/-- A set relation writes T exactly where the relation holds of what its operands hold, and F elsewhere (R155). -/
def Relation (mk : FOpR → Instr) (P : Ival → Ival → Prop) : Prop :=
  ∀ o s c ws, Begins (mk o) s c ws →
    ∃ (t : State) (f : Nat → Tri), exec (mk o) s = .next t ∧ WroteP s t c (c.g.active o.h.g) o.d (fun l => triCode (f l)) ∧
      ∀ l, (f l = .t ↔ P (c.g.ival o.w o.a l) (c.g.ival o.w o.b l)) ∧ (f l = .t ∨ f l = .f)

/-- The privileged forms (R101). -/
def privileged : Instr → Bool
  | .tret _ | .tlbf _ _ | .tlbi _ _ _ _ | .probe _ _ _ | .halt _ _ => true
  | .mfsr _ _ r | .mtsr _ r _ => match r with
    | .nbmode | .lease | .tidemark => false
    | _ => true
  | _ => false
/-- The forms refused in handler mode (R325). -/
def handlerForbidden : Instr → Bool
  | .bar _ _ _ _ | .bara _ _ _ _ _ | .barw _ _ _ _ | .barc _ _ | .qmap _ _ _ _ _ | .movQueuePush _ _ _
  | .movQueuePop _ _ _ | .split _ _ _ | .spawn _ _ _ _ | .take _ _ _ | .tend _ | .dqnext _ _ _ _ | .dqdone _ _ _
  | .devent _ _ _ | .exit _ | .kstore _ _ _ _ _ => true
  | _ => false

/-! ## Memory -/

/-- An address modulo 2^64, or the scratchpad address of a 32-bit value (R204, R213). -/
def address (x : Int) : Nat := (x % 2 ^ 64).toNat
def padAddress (x : Int) : Nat := 0xFFFE * 2 ^ 48 + (x % 2 ^ 32).toNat
/-- A 64-bit source of a lane as a number. -/
def Group.num64 (g : Group) (a : Src) (l : Nat) : Int := (joined (g.src a l 0) (g.src a l 1) : Nat)

/-- Whether a lane passes a step (R206). -/
def Chk.passed {α : Type} : Chk α → Bool
  | .good _ => true
  | _ => false
/-- The trap of one lane's failed check, with its address (R206). -/
def laneTrap (rule : Rule) (lane ea : Nat) (k : Cause) (d : BitVec 4) (pte : DWord) : TrapInfo :=
  { cause := k, detail := d, access := rule.access, lanes := some (1#32 <<< lane), addr := [(lane, BitVec.ofNat 64 ea)],
    pte := [(lane, pte)] }

/-- A load once it begins with an active lane: its lanes' addresses are checked (R206), and it performs, traps or waits for a
walk. `f` makes word k of what a lane's bytes are. -/
def LoadsFrom (i : Instr) (h : Hd) (d : Dst) (size cnt : Nat) (ea : Group → Nat → Nat) (f : List Byte → Nat → Word) : Prop :=
  ∀ s c ws, Begins i s c ws → c.g.active h.g ≠ 0 →
    match s.checkAll c .ld size size ((loadLanes (c.g.active h.g) d).map fun l => (l, ea c.g l)) with
    | .ok l => Performs i s c
        { s := (s.loadPlaces c size l).1,
          w := dstWrites (c.g.active h.g) d cnt fun n k => f (bytesOfLane (s.loadPlaces c size l).2.2.2.1 n) k,
          outstanding := (s.loadPlaces c size l).2.1, pend := (s.loadPlaces c size l).2.2.1,
          lines := (s.loadPlaces c size l).2.2.2.2 }
    | .trap t => Traps i s c (onceIf d t (c.g.active h.g))
    | .miss vas => exec i s = .next ((s.startWalks c vas).stallAt c.gid .translate)
/-- A store once it begins with an active lane. -/
def StoresTo (i : Instr) (h : Hd) (size : Nat) (ea : Group → Nat → Nat) (data : Group → Nat → List Byte) : Prop :=
  ∀ s c ws, Begins i s c ws → c.g.active h.g ≠ 0 →
    match s.checkAll c .st size size ((lanesOf (c.g.active h.g)).map fun l => (l, ea c.g l)) with
    | .ok l => Performs i s c { s := s.storePlaces c l (data c.g) }
    | .trap t => Traps i s c t
    | .miss vas => exec i s = .next ((s.startWalks c vas).stallAt c.gid .translate)
/-- A value-returning atomic once it begins with an active lane: its lanes' elements are operated on one after another at
their homes, or sent to a remote one (R219 to R223). -/
def Atomically (i : Instr) (h : Hd) (op : ElemOp) (d : Dst) (cnt : Nat) (a : Src) (b n : Group → Nat → Nat) : Prop :=
  ∀ s c ws, Begins i s c ws → c.g.active h.g ≠ 0 →
    match s.checkAll c .atom op.size op.size
        ((loadLanes (c.g.active h.g) d).map fun l => (l, address (c.g.num64 a l))) with
    | .ok l =>
      let acts := l.map fun e => LaneAct.mk e.1 e.2.2.loc (b c.g e.1) (n c.g e.1)
      let r := s.runElems op acts c.g.tide c.t.core (ownerOf l c.t.core)
      ((∀ e ∈ l, isRemote e.2.2 = false) → Performs i s c
        { s := (acts.foldl (fun s a => s.poisonCheck c a.loc) r.1).raiseTide c.gid r.2.1,
          w := dstWrites (c.g.active h.g) d cnt fun l k => wordAtBit (valueOf r.2.2 l) k,
          lines := acts.map fun a => (a.lane, a.loc / 128) }) ∧
      ((∃ e ∈ l, isRemote e.2.2 = true) → Performs i s c
        { s := s.newId.2.sendRemote c (c.g.active h.g) i l acts (some s.newId.1), outstanding := 1, pend := s.newId.1,
          remote := true })
    | .trap t => Traps i s c (onceIf d t (c.g.active h.g))
    | .miss vas => exec i s = .next ((s.startWalks c vas).stallAt c.gid .translate)
/-- A reduction once it begins with an active lane: one reduction for each lane is on its way, to the home or, from a remote
page, to the other package; the group's next memory access waits for them (R180, R195, R222). -/
def Reduces (i : Instr) (h : Hd) (op : RedOp) (a : Src) (b : Group → Nat → Nat) : Prop :=
  ∀ s c ws, Begins i s c ws → c.g.active h.g ≠ 0 →
    match s.checkAll c .atom op.size op.size ((lanesOf (c.g.active h.g)).map fun l => (l, address (c.g.num64 a l))) with
    | .ok l =>
      let far := l.filter fun e => isRemote e.2.2
      let near := l.filter fun e => !isRemote e.2.2
      let sent := near.map fun e => RedFlight.mk c.gid (coreDie c.t.core) op e.2.2.loc (b c.g e.1) c.g.tide
      let x := ({ s with reds := s.reds ++ sent } : State).modGroup c.gid fun g => { g with reds := g.reds + near.length }
      (far = [] → Performs i s c { s := x }) ∧
      (far ≠ [] → Performs i s c
        { s := x.sendRemote c (c.g.active h.g) i far (far.map fun e => ⟨e.1, e.2.2.loc, b c.g e.1, 0⟩) none })
    | .trap t => Traps i s c t
    | .miss vas => exec i s = .next ((s.startWalks c vas).stallAt c.gid .translate)
/-- The number in one or two words of a source (R218). -/
def Group.image (g : Group) (b : Src) (two : Bool) (off l : Nat) : Nat :=
  (g.src b l off).toNat + if two then 2 ^ 32 * (g.src b l (off + 1)).toNat else 0
/-- The number in an interval source's words. -/
def Group.ivImage (g : Group) (b : Src) (w : FW) (l : Nat) : Nat :=
  joined (g.src b l 0) (g.src b l 1) + if w = .d then 2 ^ 64 * joined (g.src b l 2) (g.src b l 3) else 0

/-- Nothing comes before an access to a line at its home: the line is not commutative (R195), and no bump holds a cell of
it (R264). -/
def Calm (s : State) (key : Nat) : Prop :=
  (s.lineAt key).comm = none ∧ ∀ b ∈ s.bumps, b.holds = true → leaseKey (s.fwd b.pa) ≠ key
/-- Every line that the places touch is calm, and holds no lost data (R378). -/
def Plain (s : State) (l : List (Nat × Nat × Place)) : Prop :=
  ∀ e ∈ l, ∀ loc t, e.2.2 = .mem loc t → Calm s (leaseKey (s.fwd loc)) ∧ s.fwd loc / 128 ∉ s.poisoned
/-- The bytes a lane's store reaches: its place in memory, forwarded (R342), for as many bytes as it stores. -/
def storedAt (s : State) (data : Nat → List Byte) (e : Nat × Nat × Place) (a : Nat) : Prop :=
  ∃ loc t, e.2.2 = .mem loc t ∧ s.fwd loc ≤ a ∧ a < s.fwd loc + (data e.1).length

/-! ## Queues, barriers, engines, cells and coves -/

/-- The word completes and changes nothing but its group's place in its program. -/
def DoesNothing (i : Instr) (s : State) (c : Ctx) : Prop :=
  ∃ t, exec i s = .next t ∧ Became s t c.gid c.g (c.g.pc + 8) none
/-- The word raises Illegal Operand for its active lanes, or the live ones where it has none. -/
def RefusesOperand (i : Instr) (s : State) (c : Ctx) (act : Word) : Prop :=
  Traps i s c { cause := .illegalOperand, lanes := some (trapLanes c.g act) }

/-- A barrier instruction: whether it acts, its count checks, a repeated arrival, its wait for earlier accesses, and its
arrival, of which `p` is the effect (R231, R232). -/
def Arrives (i : Instr) (h : Hd) (cluster waits : Bool) (id : Nat) (n : Ctx → Nat) (p : Ctx → State × Bool → Word → Perf) :
    Prop :=
  ∀ s c ws, Begins i s c ws →
    let b := s.barrier c.t cluster id
    let acts := h.g = .always ∨ c.g.active h.g ≠ 0
    (¬acts → DoesNothing i s c) ∧
    (acts → (c.pk.groups < n c ∨ ∃ m, b.need = some m ∧ m ≠ n c) → RefusesOperand i s c (c.g.active h.g)) ∧
    (acts → n c ≤ c.pk.groups → (∀ m, b.need = some m → m = n c) →
      (b.arrived.testBit (barBit c.t c.g.idx cluster) = true → Waits i s c (.barrierRepeat id b.ph cluster)) ∧
      (b.arrived.testBit (barBit c.t c.g.idx cluster) = false →
        (c.g.memBusy = true → Waits i s c (.memorder 12)) ∧
        (c.g.memBusy = false → Performs i s c (p c (s.arrive c cluster waits id (n c)) b.ph))))
/-- The groups a barrier spans: a team's, or those of its cluster's teams. -/
def Spans (s : State) (t : Team) (cluster : Bool) (k : Nat) : Prop :=
  if cluster then ∃ h u, s.team? h = some u ∧ u.lead = t.lead ∧ k ∈ u.gids else k ∈ t.gids

/-- Masked tags of a launch's count (R224). -/
def masked (c : Ctx) (m : DWord) (n : Nat) : Prop := m.getLsbD n = true ∧ n < c.pk.tags
/-- No masked tag that is SET holds a Dense Fallback for the group (R282). -/
def NoDense (c : Ctx) (m : DWord) : Prop :=
  ∀ n, masked c m n → (c.t.tag n).st = .set → (c.t.tag n).denseFor c.g.idx = false
/-- What the issue of an operation does about its tag: a Dense Fallback pending for the group is delivered, an operation under
way is waited for, else `P` (R224, R282); `x` is the state so far. -/
def TagThen (i : Instr) (s x : State) (c : Ctx) (act : Word) (n : Nat) (P : Prop) : Prop :=
  ((c.t.tag n).denseFor c.g.idx = true → exec i s = .next
    ((x.setTag c.g.team n ((c.t.tag n).took c.g.idx)).takeTrap c.gid
      { cause := .denseFallback, imm := BitVec.ofNat 20 n, lanes := some act })) ∧
  ((c.t.tag n).denseFor c.g.idx = false → (c.t.tag n).st = .pending → exec i s = .next (x.stallAt c.gid (.tagIssue n))) ∧
  ((c.t.tag n).denseFor c.g.idx = false → (c.t.tag n).st ≠ .pending → P)
/-- What a check of lanes or ranges stops, or `P` of what it finds (R206). -/
def CheckThen (i : Instr) (s x : State) (c : Ctx) (f : TrapInfo → TrapInfo) (r : Checked)
    (P : List (Nat × Nat × Place) → Prop) (w : Stall := .translate) : Prop :=
  match r with
  | .ok l => P l
  | .trap t => exec i s = .next (x.takeTrap c.gid (f t))
  | .miss vas => exec i s = .next ((x.startWalks c vas).stallAt c.gid w)
def RangesThen (i : Instr) (s x : State) (c : Ctx) (act : Word) (r : RangeRes) (P : Prop) (w : Stall := .translate) : Prop :=
  match r with
  | .ok => P
  | .trap t => exec i s = .next (x.takeTrap c.gid (onceFor t act))
  | .miss vas => exec i s = .next ((x.startWalks c vas).stallAt c.gid w)

/-- A matrix word with an active lane completes by entering its core's engine as the newest operation, once it has room (R248,
R250): `x` is its state before, `locs`, `frags` and `scale` what it took with it, `unread` the registers it reads when it
starts. `Performed` says what the engine then makes of it. -/
def Enters (i : Instr) (s : State) (c : Ctx) (act : Word) (x : State) (locs : List Nat) (frags : List (Nat × Word)) (scale : Word)
    (unread : List Nat) (long accum waits : Bool) : Prop :=
  (8 ≤ (x.coreAt c.t.core).engine.length → exec i s = .next (x.stallAt c.gid .engine)) ∧
  ((x.coreAt c.t.core).engine.length < 8 → ∃ t p op, exec i s = .next t ∧ Performs i s c p ∧ p.w = {} ∧ p.engine = accum ∧
    (t.coreAt c.t.core).engine = (x.coreAt c.t.core).engine ++ [op] ∧ t.mem = x.mem ∧
    p.outstanding = (if long then 1 else 0) ∧ p.pend = x.nextId ∧
    (p.s.coreAt c.t.core).engine = (x.coreAt c.t.core).engine ++ [op] ∧
    op.word = i ∧ op.group = c.gid ∧ op.active = act ∧ op.locs = locs ∧ op.frags = frags ∧ op.x = scale ∧
    op.started = false ∧ op.pend = (if long then some x.nextId else none) ∧
    p.s.mem = x.mem ∧ p.s.teams = x.teams ∧ (∀ k, k ≠ c.gid → p.s.group? k = x.group? k) ∧
    (∀ g, x.group? c.gid = some g → p.s.group? c.gid = some { g with
      unread := g.unread ++ unread.map fun r => (x.nextId, .v r), xfers := g.xfers + if waits then 1 else 0 }))

/-- The engine's first operation, once started, is performed and leaves it: `f` says what becomes of its team, memory or
registers (R246 to R254). -/
def Performed (i : Instr) (f : MatOp → Ctx → State → State → Prop) : Prop :=
  ∀ (y : State) core op rest c, (y.coreAt core).engine = op :: rest → op.word = i → op.started = true →
    y.ctx? op.group = some c → ∃ u, exec (.matrixOpFinish core) y = .next u ∧ (u.coreAt core).engine = rest ∧ f op c y u
/-- Its team becomes `f`, and memory stays. -/
def MakesTeam (f : MatOp → Team → Team) (op : MatOp) (c : Ctx) (y u : State) : Prop :=
  u.team? c.g.team = some (f op c.t) ∧ (∀ h, h ≠ c.g.team → u.team? h = y.team? h) ∧ u.mem = y.mem

/-- A cove word that names slot n: it is refused where the slot is not loaded or `ok` fails of it; a stale slot is translated
again, with `w` the stall of its misses; then `P` of the state and the slot (R276, R277). -/
def SlotThen (i : Instr) (s : State) (c : Ctx) (act : Word) (n : Nat) (ok : CoveSlot → Prop) (w : Stall)
    (P : State → CoveSlot → Prop) : Prop :=
  let y := c.t.cove n
  ((y.loaded = false ∨ ¬ok y) → RefusesOperand i s c act) ∧
  (y.loaded = true → ok y → (y.stale = false → P s y) ∧
    (y.stale = true → RangesThen i s s c act (s.checkRanges c y.ranges)
      (let x := y.withPages (s.pagesOf c y.ranges)
       P ((s.setCove c.g.team n x).dropMatrices c.t.core x) x) w))
/-- A key's registers lie in the allocation from an aligned base (R276). -/
def KeyFits (c : Ctx) (a : Src) (x : CoveSlot) : Prop := keyBase a % 4 = 0 ∧ keyBase a + x.keyRegs ≤ c.pk.regs
/-- The first entry of a list of numbered words. -/
def valueAt (l : List (Nat × Word)) (n : Nat) : Option Word := (l.find? fun e => e.1 == n).map Prod.snd

/-! ## The distributor and the host -/

/-- A hart's mechanism block is free to take a command (R300). -/
def mayCommand (s : State) (hart : Nat) : Prop := hart < 8 ∧ s.hartsOn = true ∧ (s.mech hart).busy = false
/-- The state once a hart's block holds a command, with the cores that it names (R303). -/
def commanded (s : State) (hart op : Nat) (args : List DWord) : State :=
  let y := s.newId.2.modMech hart fun m => { m with
    arg := args ++ m.arg.drop args.length, cmd := args ++ m.arg.drop args.length, busy := true, op := op, order := s.newId.1 }
  y.modMech hart fun m => { m with cores := y.cmdCores m }
/-- A command of a free block that waits for no other one (R303). -/
def commands (s : State) (hart op : Nat) (args : List DWord) (P : State → Prop) : Prop :=
  mayCommand s hart → (commanded s hart op args).mustWait hart = false → P (commanded s hart op args)
/-- A command has ended, with its RESULT and VALUE (R300). -/
def CommandEnds (t : State) (hart result value : Nat) : Prop :=
  (t.mech hart).busy = false ∧ (t.mech hart).result = result ∧ (t.mech hart).value = BitVec.ofNat 32 value
/-- A command that arrived at a core before an order number is yet to be performed (R303). An ABORT that waits until its team is
SAVED holds nothing back (notes/assumptions/144). -/
def HoldsBack (s : State) (core order : Nat) : Prop :=
  ∃ h, h < 8 ∧ let m := s.mech h
    m.busy = true ∧ m.held = true ∧ m.order < order ∧ core ∈ m.cores ∧ ¬(m.op = 4 ∧ ∃ pid i, m.who = some (pid, i) ∧
      ∃ e ∈ s.teams, e.2.pid = pid ∧ e.2.index = i ∧ ∃ a b, e.2.life = .saving a b)
/-- No command waits to be performed. -/
def NoneHeld (s : State) : Prop := ∀ h, h < 8 → (s.mech h).held = false
/-- Hart h's command, which is no ANSWER, is the only one that waits to be performed. -/
def OnlyHeld (s : State) (h : Nat) : Prop :=
  h < 8 ∧ (s.mech h).held = true ∧ (s.mech h).op ≠ 6 ∧ ∀ k, k < 8 → k ≠ h → (s.mech k).held = false
/-- An entry stands in the FIFO, or is held for it while it is full (R293). -/
def Pushed (t : State) (e : DWord) : Prop := ∃ x ∈ t.dist.fifo ++ t.dist.held, x.e = e
/-- Where the distributor says a packet's team is, if it knows the packet. -/
def TeamIs (t : State) (pid index : Nat) (P : TeamAt → Prop) : Prop :=
  ∀ r, sfind t.dist.packets pid = some r → ∃ x, sfind r.teams index = some x ∧ P x
/-- Every line is calm, and no line has moved (R342). -/
def Settled (s : State) : Prop := (∀ k, Calm s k) ∧ s.host.migration = []

end Sys2Proof.Machine
end

