-- ==== Sys2Proof/Certificates/Slice0/Obligations.lean ====
section
/-!
DEFINITION. The statements about the machine. `Begins i s c ws` says that word i is the first of a run under way, of the
context `c`, and that nothing stops it before its own checks and effect (steps 2 to 4 of R102 and the hazards of R88 to R91);
`ws` are the words of its constant window. The shapes are in Sys2Proof/Safety.lean.
-/
section
open Sys2Proof Sys2Proof.Machine

/-! ## The machine as a whole: encodings, reset, steps, frames, memory -/

/-- R74 to R101: every well-formed instruction word, with every operand at every value its encoding admits, is encoded, and the
encoder's word decodes to it. -/
def Obligations.DecodeEncode : Prop :=
  ∀ i, isWord i = true → i.wf = true → ∃ w, encode i = some w ∧ decode w = .ok i

/-- R74 to R101: a word that decodes is the one word of its instruction: no bit of it is ignored, and what it decodes to is well
formed. -/
def Obligations.EncodeDecode : Prop :=
  ∀ w i, decode w = .ok i → i.wf = true ∧ encode i = some w

/-- Words that the spec writes out (R80, R94, R139, R155, R209, R225, R242, R260, R276, R330 to R336), each the instruction it
stands for. -/
def Obligations.SpecWordsDecode : Prop :=
  let hd : Hd := ⟨false, .always⟩
  decode 0x0D00C00100A01824#64 = .ok (.ld ⟨hd, 3, .none, .v 4, .v 10, .v 6, .w, 2⟩) ∧
  decode 0x0D04000000A013F4#64 = .ok (.st ⟨hd, .none, .v 10, .v 4, .w, -1⟩) ∧
  decode 0x06000030804C1C02#64 = .ok (.icmp ⟨hd, .none, 2, .v 4, .s 7, .lt⟩) ∧
  decode 0x0A00003040401802#64 = .ok (.fcmp hd 1 (.v 4) (.v 6) .lt .s) ∧
  decode 0x0F000000308C5003#64 = .ok (.xcopy ⟨hd, .s 8, .s 20, 3⟩) ∧
  decode 0x11000000C4018001#64 = .ok (.mma ⟨hd, 0, 3, .v 64, .v 96, 0, .b512, .f32⟩) ∧
  decode 0x110000028000815A#64 = .ok (.mma ⟨hd, 0, 10, .v 0, .v 32, 5, .b256, .bfp 2⟩) ∧
  decode 0x1114001000300001#64 = .ok (.zget hd 0 64 3 .d) ∧
  decode 0x120000304040200A#64 = .ok (.seal ⟨hd, 0, .none, 1, .v 4, .v 8, .v 10⟩) ∧
  decode 0x12080030F080030A#64 = .ok (.reopen hd 0 .none 3 (.s 8) (.s 10)) ∧
  decode 0x13040000010C5001#64 = .ok (.kstore hd .none 1 (.v 16) (.s 20)) ∧
  decode 0x130C0030818C2045#64 = .ok (.kgather hd 2 (.v 24) (.s 8) 1 5) ∧
  decode 0x1504000100000004#64 = .ok (.mfsr hd (.v 4) .taddr) ∧
  decode 0x1504002E00000003#64 = .ok (.mfsr hd (.s 56) .tcause) ∧
  decode 0x150C000033800000#64 = .ok (.tlbf hd (.s 56)) ∧
  decode 0x1500000000000000#64 = .ok (.tret false) ∧
  decode 0x1518000000000000#64 = .ok (.halt hd 0)

/-- R191, R203, R289: what reset leaves, as the spec states it, at once and after COLD_RESET. That no line, team, group or run is
left is the model's choice (notes/assumptions/13 and 89). -/
def Obligations.ResetValues : Prop :=
  let Reset (t : State) : Prop :=
    t.dist.run = false ∧ t.dist.quiesce = true ∧ t.dist.quiesced = true ∧ t.dist.fallback = true ∧
    t.dist.ucode = 0 ∧ t.dist.qcbBase = 0 ∧ t.dist.nq = 0 ∧ t.dist.logBase = 0 ∧ t.dist.logCap = 0 ∧ t.dist.logWr = 0 ∧
    t.dist.logRd = 0 ∧ t.dist.cntBase = 0 ∧ t.dist.imageOk = false ∧
    (∀ k, (t.slice k).mts = 0 ∧ (t.slice k).base = 0 ∧ (t.slice k).gen = 0) ∧
    t.host.tide = 0 ∧ (∀ h, sget 0 t.host.hartTide h = 0) ∧ t.lines = [] ∧ t.teams = [] ∧ t.groups = [] ∧ t.runs = []
  Reset State.reset ∧ ∀ s, ∃ t, exec .coldReset s = .next t ∧ Reset t

/-- The model's own choice (notes/assumptions/1): memory at reset lists nothing, in canonical form, and every byte reads 0. -/
def Obligations.ResetMemory : Prop :=
  Memory.wf State.reset.mem = true ∧ ∀ loc, State.reset.byteAt loc = 0

/-- Every step, of a word or of an event, from any state, keeps the canonical form of memory. -/
def Obligations.MemoryStaysCanonical : Prop :=
  ∀ s t : State, Memory.wf s.mem = true → step s = .next t → Memory.wf t.mem = true

/-- R13, R36, R74, R75: with nothing on the agenda, a step issues the first fetched word of the run that is first: the decoded
instruction's exec, with that word taken; a pair word that would be the 25th instruction ends the run instead. The same is
true of the word that `withFetchWord` places. That an agenda comes before the runs, and what `withFetchWord` sets, are the
model's choices (notes/assumptions/9 and 10). -/
def Obligations.StepRunsWord : Prop :=
  (∀ (s : State) gid g w rest i, s.agenda = [] → s.runs.head? = some gid → s.group? gid = some g →
    g.ibuf = some (.word w :: rest) → decode w = .ok i →
    let late := (∃ b hi lo, i = .pairWord b hi lo) ∧ g.pos = 23
    (¬late → step s = exec i (s.setGroup gid { g with ibuf := some rest })) ∧ (late → step s = .next (s.endRun gid))) ∧
  (∀ (s : State) n w i, decode (BitVec.ofNat 64 (w % 2 ^ min n 64)) = .ok i → ∃ x gid c,
    x.runs.head? = some gid ∧ x.group? gid = some c ∧ c.ibuf = some [] ∧ step (s.withFetchWord n w) = exec i x)

/-- R75, R102, R321: a step whose word does not decode takes Illegal Instruction; one whose fetch failed takes the fault with the
fetch's access code; with no word left the run ends. The model's choices: an input or event on the agenda comes first, runs
come before the machine's own events, and with nothing to do the machine stays as it is (notes/assumptions/10 and 96); the
lanes of a fetch fault (notes/assumptions/19). -/
def Obligations.StepOtherwise : Prop :=
  (∀ (s : State) gid g, s.agenda = [] → s.runs.head? = some gid → s.group? gid = some g → g.ended = false →
    (∀ w rest e, g.ibuf = some (.word w :: rest) → decode w = .error e →
      step s = .next ((s.setGroup gid { g with ibuf := some rest }).takeTrap gid { cause := .illegalInstruction })) ∧
    (∀ k d pte rest, g.ibuf = some (.bad k d pte :: rest) → ∃ t, step s = .next (s.takeTrap gid t) ∧ t.cause = k ∧
      t.detail = d ∧ t.access = 3 ∧ t.lanes = some (trapLanes g (g.mask &&& g.live))) ∧
    ((g.ibuf = none ∨ g.ibuf = some []) → step s = .next (s.endRun gid))) ∧
  (∀ (s : State) e rest, s.agenda = e :: rest →
    (isWord e = false → step s = exec e { s with agenda := rest }) ∧
    (isWord e = true → step s = .next { s with agenda := rest })) ∧
  (∀ (s : State) x, s.agenda = [] → s.runs = [] → s.nextEvent = some x → step s = .next x) ∧
  (∀ (s : State), s.agenda = [] → s.runs = [] → s.nextEvent = none → step s = .next s)

/-- The frame of every word that performs: whatever its effect `p` left of the state, the word changes nothing beside it but
its own group: the registers it writes, the pc, the wait and its run's bookkeeping.
R36: the run ends with a B flag, a control transfer, an effect that ends it, a wait, the 24th position, the end of the group
and the last fetched word; else it goes on, its position past the word's one or two.
R37, R94, R95: a HOLD deposits the value its source read in all 32 lanes into the entry the pointer names, and the pointer goes
on L0, L1, L2, L0; an entry may be read at the two positions after its deposit and at no other, and none after the run. -/
def Obligations.PerformFrame : Prop :=
  (∀ i (s : State) c p t g gate, declares s c i = some gate → Performs i s c p → exec i s = .next t →
    p.s.group? c.gid = some g → g.inbound = [] → (∀ u, p.s.team? g.team = some u → u.tileIn = []) →
    Elsewhere p.s t c.gid ∧ t.mem = p.s.mem ∧ ∃ g', t.group? c.gid = some g' ∧ g'.rest = g.rest ∧
      g'.pc = p.jump.getD (g.pc + 8) ∧ g'.stall = p.wait ∧
      (gate.long = none → (∀ n, n ∉ p.w.v.map Prod.fst → sget 0 g'.v n = sget 0 g.v n) ∧
        (∀ n bank, n ∉ p.w.s.map Prod.fst → g'.sCell bank n = g.sCell bank n) ∧
        (∀ n bank l, l < 32 → 32 * n + l ∉ p.w.p.map Prod.fst → g'.pCell bank n l = g.pCell bank n l)) ∧
      (gate.long.isSome = true → g'.regs = g.regs) ∧
      let ends := gate.hd.b = true ∨ p.endRun = true ∨ p.jump.isSome = true ∨ p.wait.isSome = true ∨
        24 ≤ g.pos + gate.size ∨ g.ended = true ∨ g.ibuf = some []
      (ends → c.gid ∉ t.runs ∧ g'.latches = [] ∧ g'.lptr = 0 ∧ g'.pos = 0) ∧
      (¬ends → (c.gid ∈ p.s.runs → c.gid ∈ t.runs) ∧ g'.pos = g.pos + gate.size ∧ g'.ibuf = g.ibuf ∧
        match gate.hold with
        | none => g'.latches = g.latches ∧ g'.lptr = g.lptr
        | some a => g'.lptr = (g.lptr + 1) % 3 ∧ ∃ e, sfind g'.latches g.lptr = some e ∧ e.pos = c.g.pos + 1 ∧
            (∀ l < 32, e.vals.getD l 0 = c.g.src32 a l) ∧ ∀ k, k ≠ g.lptr → sfind g'.latches k = sfind g.latches k)) ∧
  (∀ (g : Group) (k : Fin 3), g.latchOk k.val = true ↔ ∃ e, sfind g.latches k.val = some e ∧
    (g.pos + 1 = e.pos + 1 ∨ g.pos + 1 = e.pos + 2)) ∧
  (∀ (g : Group) (k : Fin 3) l e, sfind g.latches k.val = some e → g.src32 (.latch k) l = e.vals.getD l 0)

/-! ## Integers, predicates, moves and lanes -/

/-- R115, R128: the integer words write the wrapped result of exact integer arithmetic, in the active lanes. -/
def Obligations.IntegerArithmeticWraps : Prop :=
  TwoSources .iadd (fun a b => BitVec.ofNat 32 (a.toNat + b.toNat)) ∧
  TwoSources .isub (fun a b => BitVec.ofInt 32 (a.toInt - b.toInt)) ∧
  ThreeSources .iaddc (fun a b c => BitVec.ofNat 32 ((a.toNat + b.toNat + c.toNat % 2) / 2 ^ 32)) ∧
  ThreeSources .isubb (fun a b c => if (a.toNat : Int) - b.toNat - (c.toNat % 2 : Nat) < 0 then 1 else 0) ∧
  OneSource .ineg (fun a => BitVec.ofInt 32 (-a.toInt)) ∧
  OneSource .iabs (fun a => BitVec.ofInt 32 |a.toInt|) ∧
  TwoSources .imul (fun a b => BitVec.ofInt 32 (a.toInt * b.toInt)) ∧
  TwoSources .imulhi (fun a b => BitVec.ofInt 32 (a.toInt * b.toInt / 2 ^ 32)) ∧
  TwoSources .imulhiu (fun a b => BitVec.ofNat 32 (a.toNat * b.toNat / 2 ^ 32)) ∧
  ThreeSources .imad (fun a b c => BitVec.ofInt 32 (a.toInt * b.toInt + c.toInt)) ∧
  (∀ o, WritesDst (.imulw o) o.h o.d 2 fun _ c ws l k =>
    wordAtBit ((c.g.src32 o.a l).toInt * (c.g.srcB o.b ws l 0).toInt) k) ∧
  (∀ o, WritesDst (.lea o) o.h o.d 2 fun _ c _ l k =>
    wordAtBit (joined (c.g.src o.a l 0) (c.g.src o.a l 1) + (c.g.src32 o.b l).toInt * 2 ^ o.sh.toNat) k) ∧
  (∀ o, WritesDst (.iadd64 o) o.h o.d 2 fun _ c ws l k =>
    wordAtBit (joined (c.g.src o.a l 0) (c.g.src o.a l 1) + joined (c.g.srcB o.b ws l 0) (c.g.srcB o.b ws l 1)) k) ∧
  (∀ o, WritesDst (.isub64 o) o.h o.d 2 fun _ c ws l k =>
    wordAtBit (joined (c.g.src o.a l 0) (c.g.src o.a l 1) - joined (c.g.srcB o.b ws l 0) (c.g.srcB o.b ws l 1)) k)

/-- R128: the minima, maxima, bitwise words and SEL.
R130: the immediate words. -/
def Obligations.IntegerLogic : Prop :=
  (TwoSources .imin (fun a b => BitVec.ofInt 32 (min a.toInt b.toInt)) ∧
  TwoSources .imax (fun a b => BitVec.ofInt 32 (max a.toInt b.toInt)) ∧
  TwoSources .iminu (fun a b => BitVec.ofNat 32 (min a.toNat b.toNat)) ∧
  TwoSources .imaxu (fun a b => BitVec.ofNat 32 (max a.toNat b.toNat)) ∧
  TwoSources .and (fun a b => maskOf fun i => a.getLsbD i && b.getLsbD i) ∧
  TwoSources .or (fun a b => maskOf fun i => a.getLsbD i || b.getLsbD i) ∧
  TwoSources .xor (fun a b => maskOf fun i => a.getLsbD i != b.getLsbD i) ∧
  TwoSources .andn (fun a b => maskOf fun i => a.getLsbD i && !b.getLsbD i) ∧
  OneSource .not (fun a => maskOf fun i => !a.getLsbD i) ∧
  ThreeSources .sel (fun a b c => if c = 0 then b else a)) ∧
  (Immediate .iaddi (fun a i => BitVec.ofInt 32 (a.toInt + i.toInt)) ∧
  Immediate .andi (fun a i => a &&& BitVec.ofInt 32 i.toInt) ∧
  Immediate .ori (fun a i => a ||| BitVec.ofNat 32 i.toNat) ∧
  Immediate .xori (fun a i => a ^^^ BitVec.ofNat 32 i.toNat) ∧
  (∀ h d i, WritesDst (.movi h d i) h d 1 fun _ _ _ _ _ => BitVec.ofInt 32 i.toInt) ∧
  Immediate .movhi (fun a i => BitVec.ofNat 32 (i.toNat * 2 ^ 12 + a.toNat % 2 ^ 12)) ∧
  Immediate .imini (fun a i => BitVec.ofInt 32 (min a.toInt i.toInt)) ∧
  Immediate .imaxi (fun a i => BitVec.ofInt 32 (max a.toInt i.toInt)))

/-- R131, R132: shifts, rotation, fields, counts and bit reversal. -/
def Obligations.BitWords : Prop :=
  TwoSources .shl (fun a n => BitVec.ofNat 32 (if 32 ≤ n.toNat then 0 else a.toNat * 2 ^ n.toNat)) ∧
  TwoSources .shr (fun a n => BitVec.ofNat 32 (if 32 ≤ n.toNat then 0 else a.toNat / 2 ^ n.toNat)) ∧
  TwoSources .sar (fun a n => BitVec.ofInt 32 (a.toInt / 2 ^ min n.toNat 31)) ∧
  TwoSources .rot (fun a n => maskOf fun i => a.getLsbD ((i + 32 - n.toNat % 32) % 32)) ∧
  ThreeSources .shf (fun a b c => BitVec.ofNat 32 ((b.toNat * 2 ^ 32 + a.toNat) / 2 ^ (c.toNat % 64))) ∧
  ThreeSources .bfxu (fun a b c =>
    BitVec.ofNat 32 (a.toNat / 2 ^ (b.toNat % 32) % 2 ^ min (c.toNat % 64) (32 - b.toNat % 32))) ∧
  ThreeSources .bfx (fun a b c =>
    BitVec.ofInt 32 (Int.bmod (a.toNat / 2 ^ (b.toNat % 32) : Nat) (2 ^ min (c.toNat % 64) (32 - b.toNat % 32)))) ∧
  (∀ o, WritesDst (.bfi o) o.h o.d 1 fun _ c _ l _ =>
    let pos := (c.g.src32 o.b l).toNat % 32
    let wid := min ((c.g.src32 o.c l).toNat % 64) (32 - pos)
    maskOf fun i => if pos ≤ i ∧ i < pos + wid then (c.g.src32 o.a l).getLsbD (i - pos)
      else (c.g.dstOld o.d l).getLsbD i) ∧
  OneSource .popc (fun a => BitVec.ofNat 32 ((List.range 32).countP fun i => a.getLsbD i)) ∧
  OneSource .clz (fun a => BitVec.ofNat 32 ((List.range 32).takeWhile fun i => !a.getLsbD (31 - i)).length) ∧
  OneSource .brev (fun a => maskOf fun i => a.getLsbD (31 - i))

/-- R139: the integer compares write T or F by the comparison of the integers.
R126: the lane-wise predicate logic is Kleene's, from the table's rows.
R127: the other predicate words; PANY, PALL, PCOUNT and PMASK look at the active lanes only. -/
def Obligations.ComparesAndPredicates : Prop :=
  ((∀ o, WritesPred (.icmp o) o.h o.d fun c l =>
    if intCond o.cc (c.g.src32 o.a l).toInt (c.g.src32 o.b l).toInt then .t else .f) ∧
  (∀ o, WritesPred (.icmpu o) o.h o.d fun c l =>
    if intCond o.cc (c.g.src32 o.a l).toNat (c.g.src32 o.b l).toNat then .t else .f) ∧
  (∀ o, WritesPred (.icmp64 o true) o.h o.d fun c l =>
    if intCond o.cc (joined (c.g.src o.a l 0) (c.g.src o.a l 1)) (joined (c.g.src o.b l 0) (c.g.src o.b l 1)) then .t
    else .f) ∧
  (∀ o, WritesPred (.icmp64 o false) o.h o.d fun c l =>
    if intCond o.cc (Int.bmod (joined (c.g.src o.a l 0) (c.g.src o.a l 1)) (2 ^ 64))
      (Int.bmod (joined (c.g.src o.b l 0) (c.g.src o.b l 1)) (2 ^ 64)) then .t else .f)) ∧
  ((∀ o, WritesPred (.pand o) o.h o.d fun c l =>
    if c.g.tri o.a l = .f ∨ c.g.tri o.b l = .f then .f
    else if c.g.tri o.a l = .t ∧ c.g.tri o.b l = .t then .t else .u) ∧
  (∀ o, WritesPred (.por o) o.h o.d fun c l =>
    if c.g.tri o.a l = .t ∨ c.g.tri o.b l = .t then .t
    else if c.g.tri o.a l = .f ∧ c.g.tri o.b l = .f then .f else .u) ∧
  (∀ o, WritesPred (.pxor o) o.h o.d fun c l =>
    if c.g.tri o.a l = .u ∨ c.g.tri o.b l = .u then .u
    else if c.g.tri o.a l ≠ c.g.tri o.b l then .t else .f) ∧
  (∀ o, WritesPred (.pnot o) o.h o.d fun c l =>
    if c.g.tri o.a l = .t then .f else if c.g.tri o.a l = .f then .t else .u)) ∧
  ((∀ o, WritesPred (.pknown o) o.h o.d fun c l => if c.g.tri o.a l = .u then .f else .t) ∧
  (∀ o t, WritesPred (.presolve o t) o.h o.d fun c l =>
    if c.g.tri o.a l ≠ .u then c.g.tri o.a l else if t then .t else .f) ∧
  (∀ h d v, WritesPred (.pset h d v) h d fun _ _ => v) ∧
  (∀ h hold d a, WritesPred (.pmovp h hold d a) h d fun c l =>
    match (c.g.src32 a l).toNat % 4 with
    | 0 => .f
    | 1 => .t
    | _ => .u) ∧
  (∀ o, WritesPred (.pany o) o.h o.d fun c _ =>
    if ∃ l ∈ lanesOf (c.g.active o.h.g), c.g.tri o.a l = .t then .t
    else if ∃ l ∈ lanesOf (c.g.active o.h.g), c.g.tri o.a l = .u then .u else .f) ∧
  (∀ o, WritesPred (.pall o) o.h o.d fun c _ =>
    if ∃ l ∈ lanesOf (c.g.active o.h.g), c.g.tri o.a l = .f then .f
    else if ∃ l ∈ lanesOf (c.g.active o.h.g), c.g.tri o.a l = .u then .u else .t) ∧
  (∀ h d a, WritesDst (.pmovv h d a) h (.v d) 1 fun _ c _ l _ =>
    match c.g.tri a l with
    | .f => 0
    | .t => 1
    | .u => 2) ∧
  (∀ o, WritesDst (.pcount o) o.h o.d 1 fun _ c _ _ _ =>
    BitVec.ofNat 32 ((lanesOf (c.g.active o.h.g)).countP fun l => c.g.tri o.a l == o.v)) ∧
  (∀ o, WritesDst (.pmask o) o.h o.d 1 fun _ c _ _ _ =>
    maskOf fun l => (c.g.active o.h.g).getLsbD l && c.g.tri o.a l == o.v))

/-- R133 to R135: the moves. Source lanes are read whatever their state.
R14, R138: RDSP's values; what its cycle counts is the model's choice (notes/assumptions/11).
R18, R137: MOVM sets M to its source restricted to the live lanes, unguarded always, guarded with an active lane. -/
def Obligations.MovesAndMasks : Prop :=
  (OneSource .mov (fun a => a) ∧
  (∀ o, WritesDst (.mov64 o) o.h o.d 2 fun _ c _ l k => c.g.src o.a l k) ∧
  (∀ h hold d a, WritesDst (.movs h hold d a) h (.s d) 1 fun _ c _ l _ => c.g.src32 a l) ∧
  (∀ o, WritesDst (.bcast o) o.h (.v o.d) 1 fun _ c ws _ _ =>
    c.g.src32 o.a ((c.g.srcB o.b ws 0 0).toNat % 32)) ∧
  (∀ o s c ws, Begins (.wrlane o) s c ws →
    ∃ t, exec (.wrlane o) s = .next t ∧
      Wrote s t c (c.g.active o.h.g &&& (1#32 <<< ((c.g.srcB o.b ws 0 0).toNat % 32))) (.v o.d) 1 fun _ _ => c.g.src32 o.a 0) ∧
  (∀ h la hold d a b, LeavesPending (.rdlane h la hold d a b) h la (.s d) 1 fun c ws _ _ =>
    c.g.src32 a ((c.g.srcB b ws 0 0).toNat % 32)) ∧
  (∀ h la hold d a b m, LeavesPending (.shfl h la hold d a b m) h la (.v d) 1 fun c _ l _ =>
    let x := c.g.src32 b l
    let t : Int := match m with
      | .idx => x.toNat % 32
      | .up => l - x.toInt
      | .down => l + x.toInt
      | .xor => ((BitVec.ofNat 5 l) ^^^ (x.setWidth 5)).toNat
    c.g.src32 a (if 0 ≤ t ∧ t ≤ 31 then t.toNat else l)) ∧
  (∀ o, WritesDst (.nmov o) o.h (.v o.d) 1 fun _ c ws l _ =>
    let t : Int := l + (c.g.srcB o.b ws 0 0).toInt
    if 0 ≤ t ∧ t ≤ 31 then c.g.src32 o.a t.toNat
    else if c.g.nbmode = 0 then 0
    else if c.g.nbmode = 1 then c.g.src32 o.a (t % 32).toNat
    else c.g.src32 o.a (if t < 0 then 0 else 31))) ∧
  (∀ h d x, WritesDst (.rdsp h d x) h d (if x = .cycle then 2 else 1) fun s c _ l k =>
    match x with
    | .laneid => BitVec.ofNat 32 l
    | .group => BitVec.ofNat 32 c.g.idx
    | .teamx => BitVec.ofNat 32 c.coords.1
    | .teamy => BitVec.ofNat 32 c.coords.2.1
    | .teamz => BitVec.ofNat 32 c.coords.2.2
    | .crank => BitVec.ofNat 32 c.t.rank
    | .cwidth => BitVec.ofNat 32 c.pk.clw
    | .cheight => BitVec.ofNat 32 c.pk.clh
    | .gridx => BitVec.ofNat 32 c.pk.grid.1
    | .gridy => BitVec.ofNat 32 c.pk.grid.2.1
    | .gridz => BitVec.ofNat 32 c.pk.grid.2.2
    | .core => BitVec.ofNat 32 (c.t.core % 128)
    | .die => BitVec.ofNat 32 (c.t.core / 128)
    | .package => s.host.number.setWidth 32
    | .cycle => wordAtBit ((s.cycle : Int) - s.since) k) ∧
  (∀ h hold a, Makes (.movm h hold a) h fun c act =>
    if h.g = .always ∨ act ≠ 0 then { c.g with mask := c.g.src32 a 0 &&& c.g.live } else c.g)

/-- R140 to R145: the lane words, in the active lanes in ascending order. -/
def Obligations.LaneWords : Prop :=
  (∀ h hold d a op excl, WritesDst (.scan h hold d a op excl) h (.v d) 1 fun _ c _ l _ =>
    ((lanesOf (c.g.active h.g)).filter fun j => j < l || (j == l && !excl)).foldl
      (fun x j => laneFn op x (c.g.src32 a j)) (laneId op)) ∧
  (∀ h hold d a op, WritesDst (.gred h hold d a (.int op)) h d 1 fun _ c _ _ _ =>
    (lanesOf (c.g.active h.g)).foldl (fun x j => laneFn op x (c.g.src32 a j)) (laneId op)) ∧
  (∀ h hold d a w, WritesDst (.gred h hold d a (.fadd w)) h d (wordsIn w) fun _ c _ _ k =>
    ivWord w ((blockSum (Ival.add (fmtOf w)) ((List.range 32).map fun l =>
      if (c.g.active h.g).getLsbD l then some (c.g.ival w a l) else none)).getD .empty) k) ∧
  (∀ h hold d a w, WritesDst (.gred h hold d a (.fmin w)) h d (wordsIn w) fun _ c _ _ k =>
    ivWord w ((foldOne Ival.min ((lanesOf (c.g.active h.g)).map fun l => c.g.ival w a l)).getD .empty) k) ∧
  (∀ h hold d a w, WritesDst (.gred h hold d a (.fmax w)) h d (wordsIn w) fun _ c _ _ k =>
    ivWord w ((foldOne Ival.max ((lanesOf (c.g.active h.g)).map fun l => c.g.ival w a l)).getD .empty) k) ∧
  (∀ h hold d a p, WritesDst (.compact h hold d a p) h (.v d) 1 fun _ c _ l _ =>
    let act := lanesOf (c.g.active h.g)
    ((act.filter fun j => c.g.tri p j == .t).map fun j => c.g.src32 a j).getD ((act.filter (· < l)).length) 0) ∧
  (∀ h hold d a b, WritesDst (.isect h hold d a b) h (.v d) 1 fun _ c _ l _ =>
    let act := lanesOf (c.g.active h.g)
    let top := act.getLast?.getD 0
    let lim := min (c.g.src32 a top).toNat (c.g.src32 b top).toNat
    BitVec.ofNat 32 ((act.countP fun j => (c.g.src32 b j).toNat ≤ lim) * 2 ^ 16 +
      (act.countP fun j => (c.g.src32 a j).toNat ≤ lim) * 2 ^ 8 +
      (if ∃ j ∈ act, c.g.src32 a l = c.g.src32 b j then 1 else 0))) ∧
  (∀ h hold d a b k, WritesDst (.mpath h hold d a b k) h (.v d) 1 fun _ c _ l _ =>
    let act := lanesOf (c.g.active h.g)
    BitVec.ofNat 32 ((c.g.src32 k 0).toNat + act.zipIdx.countP fun e =>
      (c.g.src32 b e.1).toNat + (c.g.src32 k 0).toNat + e.2 + 1 ≤ (c.g.src32 a l).toNat))

/-! ## Intervals -/

/-- R149 to R153: the interval arithmetic words write, or leave pending, the interval of their operation. What those intervals
hold is said by `IntervalsEnclose`, by `IntervalsAreTight` and by the examples below.
R52: its table of examples. -/
def Obligations.IntervalArithmetic : Prop :=
  (Interval2 .fadd (fun w => Ival.add (fmtOf w)) ∧ Interval2 .fsub (fun w => Ival.sub (fmtOf w)) ∧
  Interval2 .fmul (fun w => Ival.mul (fmtOf w)) ∧
  (∀ la o s c ws, Begins (.fdiv la o) s c ws → ∃ g t, declares s c (.fdiv la o) = some g ∧
    exec (.fdiv la o) s = .next t ∧ Pends s t c g (c.g.active o.h.g) la
      (dstWrites (c.g.active o.h.g) o.d (wordsIn o.w) fun l k =>
        ivWord o.w (Ival.div (fmtOf o.w) (c.g.ival o.w o.a l) (c.g.ivalB o.w o.b ws l)) k) 0) ∧
  (∀ la o s c ws, Begins (.fdivx la o) s c ws → ∃ g t, declares s c (.fdivx la o) = some g ∧
    exec (.fdivx la o) s = .next t ∧ Pends s t c g (c.g.active o.h.g) la (fdivxWrites o c (c.g.active o.h.g)) 0) ∧
  (∀ o, WritesDst (.ffma o) o.h o.d (wordsIn o.w) fun _ c _ l k =>
    ivWord o.w (Ival.fma (fmtOf o.w) (c.g.ival o.w o.a l) (c.g.ival o.w o.b l) (c.g.ival o.w o.c l)) k) ∧
  Interval1 .fsqr (fun w => Ival.sqr (fmtOf w)) ∧ LongInterval1 .fsqrt (fun w => Ival.sqrt (fmtOf w)) ∧
  Interval2 .fmin (fun _ => Ival.min) ∧ Interval2 .fmax (fun _ => Ival.max) ∧
  Interval1 .fabs (fun _ => Ival.abs) ∧ Interval1 .fneg (fun _ => Ival.neg) ∧
  (∀ n, Interval1 (.fpown · n) fun w => Ival.pown (fmtOf w) n.toInt) ∧
  LongInterval1 .fexp2 Ival.exp2 ∧ LongInterval1 .flog2 Ival.log2) ∧
  (let iv (a b : Int) : Ival := .mk (.fin a) (.fin b)
  Ival.add b32 (.mk (.fin 1) .pinf) (.mk .ninf (.fin (-1))) = .entire ∧
  Ival.add b32 (.mk (.fin b32.max) (.fin b32.max)) (.mk (.fin b32.max) (.fin b32.max)) = .mk (.fin b32.max) .pinf ∧
  Ival.mul b32 (iv 0 0) .entire = iv 0 0 ∧
  Ival.mul b32 (iv 0 2) (.mk (.fin 1) .pinf) = .mk (.fin 0) .pinf ∧
  Ival.div b32 (iv 1 2) (iv 0 0) = .empty ∧
  Ival.div b32 (iv 0 0) (iv 1 2) = iv 0 0 ∧
  Ival.div b32 (iv 1 2) (iv 0 4) = .mk (.fin (1 / 4)) .pinf ∧
  Ival.div b32 (iv 1 2) (iv (-1) 4) = .entire ∧
  Ival.divx b32 (iv 1 2) (iv (-1) 4) = (.mk .ninf (.fin (-1)), .mk (.fin (1 / 4)) .pinf, 1) ∧
  Ival.sqrt b32 (iv (-4) (-1)) = .empty ∧
  Ival.sqrt b32 (iv (-1) 4) = iv 0 2 ∧
  Ival.sqr b32 (iv (-2) 1) = iv 0 4 ∧
  Ival.log2 .s (iv (-1) 0) = .empty ∧
  Ival.log2 .s (iv 0 8) = .mk .ninf (.fin 3) ∧
  Ival.pown b32 (-1) (iv (-1) 1) = .entire ∧
  (∀ a b, Ival.pown b32 0 (.mk a b) = iv 1 1) ∧ Ival.pown b32 0 .empty = .empty)

/-- R51, R52, R150: whatever reals two or three intervals hold, the interval of an operation holds the operation's value at
them; an Empty operand gives Empty.
R53, R150, R151: the quotient intervals hold every quotient by a nonzero member, and the hull of FDIVX's two pieces is
FDIV's interval. -/
def Obligations.IntervalsEnclose : Prop :=
  ((∀ f, f = b32 ∨ f = b64 → ∀ x y z q r p, Ival.has x q → Ival.has y r → Ival.has z p →
    (Ival.add f x y).has (q + r) ∧ (Ival.sub f x y).has (q - r) ∧ (Ival.mul f x y).has (q * r) ∧
    (Ival.fma f x y z).has (q * r + p) ∧ (Ival.sqr f x).has (q * q) ∧ (x.min y).has (min q r) ∧
    (x.max y).has (max q r) ∧ x.abs.has |q| ∧ x.neg.has (-q) ∧ (x.conv f).has q) ∧
  (∀ f x, Ival.add f x .empty = .empty ∧ Ival.add f .empty x = .empty ∧ Ival.mul f x .empty = .empty ∧
    Ival.mul f .empty x = .empty ∧ Ival.div f x .empty = .empty ∧ Ival.div f .empty x = .empty)) ∧
  (∀ f, f = b32 ∨ f = b64 → ∀ x y : Ival,
    (∀ q r, x.has q → y.has r → r ≠ 0 →
      (x.div f y).has (q / r) ∧ ((x.divx f y).1.has (q / r) ∨ (x.divx f y).2.1.has (q / r))) ∧
    (x.divx f y).1.hull (x.divx f y).2.1 = x.div f y)

/-- R51, R150 to R153: the interval of an operation on intervals of its format is the smallest interval of the format that holds
the operation's values, and Empty where there are none; FEXP2 and FLOG2 hold their values, and give exact powers of two
exactly. How far the other bounds of FEXP2 and FLOG2 lie outward is a free value (notes/assumptions/3); the statement holds
whatever it is. -/
def Obligations.IntervalsAreTight : Prop :=
  (∀ f, f = b32 ∨ f = b64 → ∀ x y z : Ival, x.inFmt f → y.inFmt f → z.inFmt f →
    Smallest f (Ival.add f x y) (fun v => ∃ q r, x.holds q ∧ y.holds r ∧ v = q + r) ∧
    Smallest f (Ival.sub f x y) (fun v => ∃ q r, x.holds q ∧ y.holds r ∧ v = q - r) ∧
    Smallest f (Ival.mul f x y) (fun v => ∃ q r, x.holds q ∧ y.holds r ∧ v = q * r) ∧
    Smallest f (Ival.fma f x y z) (fun v => ∃ q r p, x.holds q ∧ y.holds r ∧ z.holds p ∧ v = q * r + p) ∧
    Smallest f (Ival.div f x y) (fun v => ∃ q r, x.holds q ∧ y.holds r ∧ r ≠ 0 ∧ v = q / r) ∧
    Smallest f (Ival.sqr f x) (fun v => ∃ q, x.holds q ∧ v = q ^ 2) ∧
    Smallest f (Ival.sqrt f x) (fun v => ∃ q, x.holds q ∧ 0 ≤ q ∧ v = Real.sqrt q) ∧
    (∀ n : Int, Smallest f (Ival.pown f n x) (fun v => ∃ q, x.holds q ∧ (q ≠ 0 ∨ 0 ≤ n) ∧ v = q ^ n)) ∧
    (∀ g, g = b32 ∨ g = b64 → Smallest g (x.conv g) fun v => x.holds v)) ∧
  (∀ (w : FW) (x : Ival) (q : ℝ), x.inFmt (fmtOf w) → x.holds q →
    (x.exp2 w).holds ((2 : ℝ) ^ q) ∧ (0 < q → (x.log2 w).holds (Real.logb 2 q))) ∧
  (∀ (w : FW) (n : Int), let f := fmtOf w
    1 - (f.bias : Int) - f.frac ≤ n → n ≤ f.bias →
    Ival.exp2 w (.mk (.fin n) (.fin n)) = .mk (.fin (2 ^ n)) (.fin (2 ^ n)) ∧
    Ival.log2 w (.mk (.fin (2 ^ n)) (.fin (2 ^ n))) = .mk (.fin n) (.fin n))

/-- R154: FHULL, FISECT, the measures and the constructors; what FHULL and FISECT hold.
R56, R154: the measures of an interval with finite bounds: what the midpoint, radius, width, magnitude and mignitude
bound. -/
def Obligations.SetsAndMeasures : Prop :=
  (Interval2 .fhull (fun _ => Ival.hull) ∧ Interval2 .fisect (fun _ => Ival.isect) ∧
  (∀ x y q, Ival.has (x.isect y) q ↔ Ival.has x q ∧ Ival.has y q) ∧
  (∀ x y q, Ival.has x q ∨ Ival.has y q → Ival.has (x.hull y) q) ∧
  ToPoint .fmid (fun w => Ival.mid (fmtOf w)) ∧ ToPoint .frad (fun w => Ival.rad (fmtOf w)) ∧
  ToPoint .fwid (fun w => Ival.wid (fmtOf w)) ∧ ToPoint .fmag (fun _ => Ival.mag) ∧ ToPoint .fmig (fun _ => Ival.mig) ∧
  ToPoint .finf (fun _ => Ival.inf) ∧ ToPoint .fsup (fun _ => Ival.sup) ∧
  (∀ o, WritesDst (.fmake o) o.h o.d (wordsIn o.w) fun _ c ws l k =>
    ivWord o.w (Ival.ofPts (c.g.pt o.w o.a l) (ptOfWords o.w (c.g.srcB o.b ws l))) k) ∧
  (∀ o, WritesDst (.fpoint o) o.h o.d (wordsIn o.w) fun _ c _ l k =>
    ivWord o.w (match c.g.pt o.w o.a l with
      | .num (.fin q) => .mk (.fin q) (.fin q)
      | .num .pinf => .mk (.fin (fmtOf o.w).max) .pinf
      | .num .ninf => .mk .ninf (.fin (-(fmtOf o.w).max))
      | .nan => .mk .ninf .pinf) k)) ∧
  (∀ f, f = b32 ∨ f = b64 → ∀ a b q : Rat, a ≤ q → q ≤ b →
    (∀ m r, Ival.mid f (.mk (.fin a) (.fin b)) = .num (.fin m) → Ival.rad f (.mk (.fin a) (.fin b)) = .num (.fin r) →
      |q - m| ≤ r) ∧
    (∀ d, Ival.wid f (.mk (.fin a) (.fin b)) = .num (.fin d) → b - a ≤ d) ∧
    (∀ d, Ival.mag (.mk (.fin a) (.fin b)) = .num (.fin d) → |q| ≤ d) ∧
    (∀ d, Ival.mig (.mk (.fin a) (.fin b)) = .num (.fin d) → d ≤ |q|))

/-- R58, R155: FCMP writes T where its relation holds for every pair of members, F where it holds for none, and U otherwise and
for an Empty operand.
R59, R155: the set relations decide inclusion, interiority, disjointness and membership, and write only T or F.
R156: FCLASS's code, from the raw bits of its source. -/
def Obligations.IntervalRelations : Prop :=
  (∀ h d a b cc w s c ws, Begins (.fcmp h d a b cc w) s c ws →
    ∃ (t : State) (f : Nat → Tri), exec (.fcmp h d a b cc w) s = .next t ∧ WroteP s t c (c.g.active h.g) d (fun l => triCode (f l)) ∧
      ∀ l, (f l = .t ↔ (∃ q, (c.g.ival w a l).has q) ∧ (∃ q, (c.g.ival w b l).has q) ∧
          ∀ q r, (c.g.ival w a l).has q → (c.g.ival w b l).has r → ratCond cc q r) ∧
        (f l = .f ↔ (∃ q, (c.g.ival w a l).has q) ∧ (∃ q, (c.g.ival w b l).has q) ∧
          ∀ q r, (c.g.ival w a l).has q → (c.g.ival w b l).has r → ¬ ratCond cc q r)) ∧
  (Relation .fsubset (fun A B => ∀ q, A.has q → B.has q) ∧
  Relation .finterior (fun A B => ∀ q, A.has q → ∃ e > 0, ∀ r, |r - q| < e → B.has r) ∧
  Relation .fdisj (fun A B => ¬ ∃ q, A.has q ∧ B.has q) ∧
  (∀ o s c ws, Begins (.fcontains o) s c ws →
    ∃ (t : State) (f : Nat → Tri), exec (.fcontains o) s = .next t ∧ WroteP s t c (c.g.active o.h.g) o.d (fun l => triCode (f l)) ∧
      ∀ l, (f l = .t ↔ ∃ q, c.g.pt o.w o.b l = .num (.fin q) ∧ (c.g.ival o.w o.a l).has q) ∧ (f l = .t ∨ f l = .f))) ∧
  (∀ h d a w, WritesDst (.fclass h d a w) h d 1 fun _ c _ l _ =>
    let f := fmtOf w
    let lo := rawLo w (c.g.src a l)
    let hi := rawHi w (c.g.src a l)
    match c.g.ival w a l with
    | .empty => if lo = f.infImage ∧ hi = f.signImage + f.infImage then 0 else 1
    | .mk x y =>
      (if x = .ninf ∧ y = .pinf then 2 else if y = .pinf then 3 else if x = .ninf then 4 else if x = y then 5 else 6) +
      (if x.le (.fin 0) ∧ (Ext.fin 0).le y then 8 else 0) + (if f.isSub lo ∨ f.isSub hi then 16 else 0))

/-- R54, R65, R66, R157 to R162: the conversion words. -/
def Obligations.ConversionWords : Prop :=
  (∀ h d a, WritesDst (.fwiden h d a) h d 4 fun _ c _ l k => ivWord .d ((c.g.ival .s a l).conv b64) k) ∧
  (∀ h d a, WritesDst (.fnarrow h d a) h d 2 fun _ c _ l k => ivWord .s ((c.g.ival .d a l).conv b32) k) ∧
  (∀ h d a m w, WritesDst (.fcvti h d a m w) h d 1 fun _ c _ l _ =>
    let sat (x : Ext) (g : Rat → Int) : Word := match x with
      | .ninf => 0x80000000
      | .pinf => 0x7FFFFFFF
      | .fin q => BitVec.ofInt 32 (max (-(2 ^ 31)) (min (2 ^ 31 - 1) (g q)))
    match c.g.ival w a l with
    | .empty => 0x80000000
    | .mk x y => match m with
      | .floor => sat x fun q => ⌊q⌋
      | .ceil => sat y fun q => ⌈q⌉
      | .rn => match (Ival.mk x y).mid (fmtOf w) with
        | .num z => sat z roundEven
        | .nan => 0x80000000) ∧
  (∀ h hold d a u w, WritesDst (.icvtf h hold d a u w) h d (wordsIn w) fun _ c _ l k =>
    let q : Rat := if u then ((c.g.src32 a l).toNat : Rat) else ((c.g.src32 a l).toInt : Rat)
    ivWord w (Ival.mk ((fmtOf w).round .rd q) ((fmtOf w).round .ru q)) k) ∧
  (∀ h d a b m, WritesDst (.fcvtbf h d a b m) h d 1 fun _ c _ l _ =>
    BitVec.ofNat 32 (bf16.encPt ((c.g.ival .s a l).take .s bf16 m)) |||
      (BitVec.ofNat 32 (bf16.encPt ((c.g.ival .s b l).take .s bf16 m)) <<< 16)) ∧
  (∀ h hold d a k, WritesDst (.fpack h hold d a k) h (.v d) 1 fun _ c _ l _ =>
    let x := bfpPack (k.val + 2) ((List.range 32).map fun j =>
      if (c.g.active h.g).getLsbD j then some (b32.dec (c.g.src32 a j).toNat) else none)
    if l < k.val + 2 then BitVec.ofNat 32 (x.2 / 2 ^ (32 * l)) else if l = 31 then BitVec.ofNat 32 x.1 else 0) ∧
  (∀ h hold d a b k, WritesDst (.funpack h hold d a b k) h (.v d) 2 fun _ c _ l j =>
    let str := ((List.range (k.val + 2)).map fun i => (c.g.src32 a i).toNat * 2 ^ (32 * i)).sum
    ivWord .s (Ival.ofPt b32 (bfpPt (k.val + 2) ((c.g.src32 b l).toNat % 2 ^ 8) (mant (k.val + 2) str l))) j) ∧
  (∀ h d a w, WritesDst (.ftomrad h d a w) h d (wordsIn w / 2) fun _ c _ l k =>
    wordAtBit (mradEnc w (c.g.ival w a l)) k) ∧
  (∀ h hold d a w, WritesDst (.ffrommrad h hold d a w) h d (wordsIn w) fun _ c _ l k =>
    ivWord w (mradDec w (match w with
      | .s => (c.g.src a l 0).toNat
      | .d => joined (c.g.src a l 0) (c.g.src a l 1))) k) ∧
  (∀ h hold d a bfh, WritesDst (.ftrunc h hold d a bfh) h d 1 fun _ c _ l _ =>
    let x := c.g.src32 a l
    let nan := x.toNat / 2 ^ 23 % 2 ^ 8 = 255 ∧ x.toNat % 2 ^ 23 ≠ 0
    if nan then (if bfh then 0x7FC00000 else 0x7FC0)
    else BitVec.ofNat 32 (if bfh then x.toNat / 2 ^ 16 * 2 ^ 16 else x.toNat / 2 ^ 16))

/-- R66: the decoded interval always contains the original interval. -/
def Obligations.MidpointRadiusEncloses : Prop :=
  ∀ w x q, Ival.has x q → (mradDec w (mradEnc w x)).has q

/-! ## Control flow and traps -/

/-- R86, R120, R121: BRA, CALL, RET and BRX transfer whatever M, and end the run.
R86, R102: a BRX or RET target that is not aligned traps, before any read in a lookahead window is looked at, and no transfer
takes place.
R88: at position n + 1 of a pending result the word waits first. That a target is judged by what its registers hold, and only once
that wait is over, is the model's reading (notes/assumptions/32).
R124: YIELD changes nothing, and ends the run with an active lane. -/
def Obligations.ControlTransfers : Prop :=
  (∀ b off s c ws, Begins (.bra b off) s c ws → ∃ t, exec (.bra b off) s = .next t ∧
    Became s t c.gid c.g (c.g.pc + BitVec.ofInt 64 (8 * off.toInt)) none ∧ c.gid ∉ t.runs) ∧
  (∀ b off s c ws, Begins (.call b off) s c ws → ∃ t, exec (.call b off) s = .next t ∧
    Became s t c.gid ((c.g.setS 62 (c.g.pc + 8).lo).setS 63 (c.g.pc + 8).hi) (c.g.pc + BitVec.ofInt 64 (8 * off.toInt)) none ∧
    c.gid ∉ t.runs) ∧
  (∀ b s c ws, Begins (.ret b) s c ws → ∃ t, exec (.ret b) s = .next t ∧ c.gid ∉ t.runs ∧
    Became s t c.gid c.g (DWord.ofWords (c.g.getS 63) (c.g.getS 62)) none) ∧
  (∀ b n s c ws, Begins (.brx b (.s n)) s c ws → ∃ t, exec (.brx b (.s n)) s = .next t ∧ c.gid ∉ t.runs ∧
    Became s t c.gid c.g (DWord.ofWords (c.g.getS (n.toNat + 1)) (c.g.getS n.toNat)) none) ∧
  (∀ s c, s.runs.head? = some c.gid → s.ctx? c.gid = some c →
    ((∀ p ∈ c.g.pends, p.done = true ∨ 1 ≤ p.left ∨ p.past = true) →
      (∀ b, (c.g.getS 62).toNat % 8 ≠ 0 → RefusesOperand (.ret b) s c (c.g.mask &&& c.g.live)) ∧
      (∀ b n, (c.g.getS n.toNat).toNat % 8 ≠ 0 → RefusesOperand (.brx b (.s n)) s c (c.g.mask &&& c.g.live))) ∧
    ((∃ p ∈ c.g.pends, p.done = false ∧ p.left = 0 ∧ p.past = false) →
      (∀ b, Waits (.ret b) s c .lookahead) ∧ (∀ b n, n.toNat % 2 = 0 → Waits (.brx b (.s n)) s c .lookahead))) ∧
  (∀ h s c ws, Begins (.yield h) s c ws → ∃ t, exec (.yield h) s = .next t ∧ Became s t c.gid c.g (c.g.pc + 8) none ∧
    (c.g.active h.g ≠ 0 → c.gid ∉ t.runs))

/-- R122: LOOP decrements its counter modulo 2^32 and branches while it is not zero. -/
def Obligations.LoopCounts : Prop :=
  ∀ b n off s c ws, Begins (.loop b (.s n) off) s c ws →
    let x : Word := BitVec.ofInt 32 ((c.g.getS n.toNat).toNat - 1)
    ∃ t, exec (.loop b (.s n) off) s = .next t ∧
      Became s t c.gid (c.g.setS n.toNat x)
        (if x ≠ 0 then c.g.pc + BitVec.ofInt 64 (8 * off.toInt) else c.g.pc + 8) none ∧
      (x ≠ 0 → c.gid ∉ t.runs)

/-- R23, R26: DIV pushes an armed RECONV entry with its target and M, on chip where the entry fits; beyond 1,024 entries it
traps, and a 17th on-chip entry waits for a spill.
R21 to R23: BRP goes to the one target its active lanes choose and leaves M and the stack; where they disagree it runs T,
then F, then U, leaving the later paths on the stack under an armed RECONV entry, and traps without one.
R24: JOIN discards PATH entries of no live lane, then takes the top entry: a PATH's lanes and address, or a RECONV's lanes
where the JOIN stands at its address; else it traps. `entBad` is R26's reserved KIND or misaligned PC.
R36: a taken BRP and a JOIN that takes a PATH end the run.
R19, R25: clearing exited lanes from an entry touches its mask only.
That a pop which must go on in the spilled entries waits for a refill first, and leaves the stack as it is until it performs
(notes/assumptions/30), and when a push's spill is checked (notes/assumptions/31), are the model's choices. -/
def Obligations.DivergenceWords : Prop :=
  (∀ b off s c ws, Begins (.div b off) s c ws →
    (c.g.depth < 1024 → c.g.stack.length < 16 → ∃ t e, exec (.div b off) s = .next t ∧
      Became s t c.gid { c.g with stack := c.g.stack ++ [e] } (c.g.pc + 8) none ∧
      entPc e = c.g.pc + BitVec.ofInt 64 (8 * off.toInt) ∧ entMask e = c.g.mask ∧ entKind e = 0 ∧ entArmed e = true) ∧
    (1024 ≤ c.g.depth →
      Traps (.div b off) s c { cause := .illegalInstruction, lanes := some (trapLanes c.g (c.g.mask &&& c.g.live)) }) ∧
    (c.g.depth < 1024 → 16 ≤ c.g.stack.length → ∀ l, s.stackCheck c .st c.g.spilled = .ok l →
      Waits (.div b off) s c (if c.g.memBusy then .memorder 5 else .divSpill))) ∧
  (∀ b p ot of s c ws, Begins (.brp b p ot of) s c ws →
    let set (v : Tri) : Word := maskOf fun l => (c.g.mask &&& c.g.live).getLsbD l && c.g.tri p l == v
    let tt := c.g.pc + BitVec.ofInt 64 (8 * ot.toInt)
    let tf := c.g.pc + BitVec.ofInt 64 (8 * of.toInt)
    let one (v : Tri) : Nat := if set v = 0 then 0 else 1
    let diverges := 2 ≤ one .t + one .f + one .u
    let n := one .u + if set .t ≠ 0 ∧ set .f ≠ 0 then 1 else 0
    (set .t ≠ 0 → set .f = 0 → set .u = 0 → ∃ t, exec (.brp b p ot of) s = .next t ∧ Became s t c.gid c.g tt none ∧
      c.gid ∉ t.runs) ∧
    (set .t = 0 → set .f ≠ 0 → set .u = 0 → ∃ t, exec (.brp b p ot of) s = .next t ∧ Became s t c.gid c.g tf none ∧
      c.gid ∉ t.runs) ∧
    (set .t = 0 → set .f = 0 → ∃ t, exec (.brp b p ot of) s = .next t ∧ Became s t c.gid c.g (c.g.pc + 8) none) ∧
    (∀ below e, c.g.stack = below ++ [e] → entKind e = 0 → c.g.depth + n ≤ 1024 → c.g.stack.length + n ≤ 16 →
      (entArmed e = true → set .t ≠ 0 → set .f ≠ 0 ∨ set .u ≠ 0 → ∃ t e' new, exec (.brp b p ot of) s = .next t ∧
        Became s t c.gid { c.g with stack := below ++ e' :: new, mask := set .t } tt none ∧ c.gid ∉ t.runs ∧
        entPc e' = entPc e ∧ entMask e' = entMask e ∧ entKind e' = 0 ∧ entArmed e' = false ∧
        (new.map fun x => (entPc x, entMask x, entKind x)) =
          (if set .u ≠ 0 then [(c.g.pc + 8, set .u, 1)] else []) ++ (if set .f ≠ 0 then [(tf, set .f, 1)] else [])) ∧
      (entArmed e = true → set .t = 0 → set .f ≠ 0 → set .u ≠ 0 → ∃ t e' x, exec (.brp b p ot of) s = .next t ∧
        Became s t c.gid { c.g with stack := below ++ [e', x], mask := set .f } tf none ∧ c.gid ∉ t.runs ∧
        entPc e' = entPc e ∧ entMask e' = entMask e ∧ entKind e' = 0 ∧ entArmed e' = false ∧
        entPc x = c.g.pc + 8 ∧ entMask x = set .u ∧ entKind x = 1)) ∧
    (topArmed c.g.stack = true → diverges →
      (1024 < c.g.depth + n →
        Traps (.brp b p ot of) s c { cause := .illegalInstruction, lanes := some (c.g.mask &&& c.g.live) }) ∧
      (c.g.depth + n ≤ 1024 → 16 < c.g.stack.length + n → ∀ l, s.stackCheck c .st c.g.spilled = .ok l →
        Waits (.brp b p ot of) s c (if c.g.memBusy then .memorder 5 else .divSpill))) ∧
    (diverges → c.g.stack = [] → c.g.spilled ≠ 0 →
      Waits (.brp b p ot of) s c (if c.g.memBusy then .memorder 5 else .divRefill)) ∧
    (topArmed c.g.stack = false → (c.g.stack = [] → c.g.spilled = 0) → diverges →
      Traps (.brp b p ot of) s c { cause := .illegalInstruction, lanes := some (c.g.mask &&& c.g.live) })) ∧
  (∀ b s c ws, Begins (.join b) s c ws → ∀ dead,
    (∀ x ∈ dead, entBad x = false ∧ entKind x = 1 ∧ entMask x &&& c.g.live = 0) →
    (∀ rest e, c.g.stack = rest ++ e :: dead → entBad e = false →
      (entKind e = 1 → entMask e &&& c.g.live ≠ 0 → ∃ t, exec (.join b) s = .next t ∧
        Became s t c.gid { c.g with mask := entMask e &&& c.g.live, stack := rest } (entPc e)
          (if rest = [] ∧ c.g.spilled ≠ 0 then some .divRefill else none) ∧ c.gid ∉ t.runs) ∧
      (entKind e = 0 → entPc e = c.g.pc → ∃ t, exec (.join b) s = .next t ∧
        Became s t c.gid { c.g with mask := entMask e &&& c.g.live, stack := rest } (c.g.pc + 8)
          (if rest = [] ∧ c.g.spilled ≠ 0 then some .divRefill else none)) ∧
      (entKind e = 0 → entPc e ≠ c.g.pc →
        Traps (.join b) s c { cause := .illegalInstruction, lanes := some (trapLanes c.g (c.g.mask &&& c.g.live)) })) ∧
    (∀ rest e, c.g.stack = rest ++ e :: dead → entBad e = true →
      Traps (.join b) s c { cause := .illegalInstruction, lanes := some (trapLanes c.g (c.g.mask &&& c.g.live)) }) ∧
    (c.g.stack = dead → c.g.spilled = 0 →
      Traps (.join b) s c { cause := .illegalInstruction, lanes := some (trapLanes c.g (c.g.mask &&& c.g.live)) }) ∧
    (c.g.stack = dead → c.g.spilled ≠ 0 → Waits (.join b) s c (if c.g.memBusy then .memorder 5 else .divRefill))) ∧
  ((∀ pc m k a, entPc (mkEntry pc m k a) = pc ∧ entMask (mkEntry pc m k a) = m ∧ entKind (mkEntry pc m k a) = k ∧
    entArmed (mkEntry pc m k a) = a) ∧
  (∀ gone e, entMask (clearLanes gone e) = entMask e &&& ~~~gone ∧ entPc (clearLanes gone e) = entPc e ∧
    entKind (clearLanes gone e) = entKind e ∧ entArmed (clearLanes gone e) = entArmed e))

/-- R19: EXIT of lanes that hold no task ends them: the group ends with its last live lane; else, with no live lane left in M,
the implied JOIN takes the newest entry that holds one. The lanes are cleared from every entry's mask, on chip and spilled.
R123, R368: TRAP and BRK raise Breakpoint with their code, SRC and active lanes; with none they do nothing; an armed BRK
stops its team. That an implied pop which must go on in the spilled entries waits for a refill (notes/assumptions/30), and
where an armed BRK leaves the PC (notes/assumptions/33), are the model's choices. -/
def Obligations.ExitAndBreakpoint : Prop :=
  (∀ h s c ws, Begins (.exit h) s c ws →
    let act := c.g.active h.g
    let g := c.g.dropLanes act
    let x := (if act = 0 then s else (List.range c.g.spilled).foldl (fun y k => y.clearSpilled c act k) s).modGroup c.gid
      fun y => y.dropLanes act
    exitDense c act = none → (act &&& c.g.h = 0 ∨ c.pk.poolEnt = 0) →
    g.mask = c.g.mask &&& ~~~act ∧ g.live = c.g.live &&& ~~~act ∧ g.stack = c.g.stack.map (clearLanes act) ∧
    (g.live = 0 → Performs (.exit h) s c { s := x.endGroup c.gid, endRun := true }) ∧
    (g.mask &&& g.live ≠ 0 → Performs (.exit h) s c { s := x, endRun := true } ∧
      (c.g.spilled = 0 → ∃ t, exec (.exit h) s = .next t ∧ Became s t c.gid g (c.g.pc + 8) none ∧ c.gid ∉ t.runs)) ∧
    (g.mask &&& g.live = 0 → g.live ≠ 0 → ∀ dead,
      (∀ y ∈ dead, entBad y = false ∧ entMask y &&& g.live = 0) →
      (∀ rest e, c.g.stack = rest ++ e :: dead →
        (entBad e = true →
          Traps (.exit h) s c { cause := .illegalInstruction, lanes := some (trapLanes c.g act) }) ∧
        (entBad e = false → entMask e &&& g.live ≠ 0 →
          let pc := if entKind e = 1 then entPc e else entPc e + 8
          let m := entMask e &&& g.live
          let st := rest.map (clearLanes act)
          Performs (.exit h) s c
            { s := x.modGroup c.gid fun y => { y with mask := m, stack := st }
              jump := some pc, endRun := true, wait := if rest = [] ∧ c.g.spilled ≠ 0 then some .divRefill else none } ∧
          (c.g.spilled = 0 → ∃ t, exec (.exit h) s = .next t ∧ c.gid ∉ t.runs ∧
            Became s t c.gid { g with mask := m, stack := st } pc none))) ∧
      (c.g.stack = dead → c.g.spilled ≠ 0 → Waits (.exit h) s c .divRefill) ∧
      (c.g.stack = dead → c.g.spilled = 0 → ∃ t, exec (.exit h) s = .next t ∧ c.gid ∉ t.runs ∧
        Became s t c.gid { g with mask := g.live, stack := [] } (c.g.pc + 8) none))) ∧
  (∀ (s x : State) c gone k bs n time, let va := (c.pk.psBase.toNat +
      (c.t.index * (32 * c.pk.groups) + 32 * c.g.idx) * c.pk.psSize + 128 * k) % 2 ^ 64
    s.hwLoad va 128 (((s.group? c.gid).map Group.tide).getD 0) = .ok (x, n, bs) →
    let old (j : Nat) := leNat ((bs.drop (16 * j)).take 16)
    let new := (List.range 8).flatMap fun j => leBytes 16 (clearLanes gone (BitVec.ofNat 128 (old j))).toNat
    (new = bs → s.clearSpilled c gone k = s) ∧
    (∀ y, new ≠ bs → x.hwStore va new n = .ok (y, time) → s.clearSpilled c gone k = y.raiseTide c.gid time)) ∧
  (∀ h imm s c ws,
    (Begins (.trap h imm) s c ws →
      (c.g.active h.g ≠ 0 → Traps (.trap h imm) s c
        { cause := .breakpoint, src := false, imm := imm, lanes := some (c.g.active h.g) }) ∧
      (c.g.active h.g = 0 → ∃ t, exec (.trap h imm) s = .next t ∧ Became s t c.gid c.g (c.g.pc + 8) none)) ∧
    (Begins (.brk h imm) s c ws →
      (c.g.active h.g ≠ 0 → s.armed c.pk 0 = false → Traps (.brk h imm) s c
        { cause := .breakpoint, src := true, imm := imm, lanes := some (c.g.active h.g) }) ∧
      (c.g.active h.g ≠ 0 → s.armed c.pk 0 = true → Performs (.brk h imm) s c
        { s := (s.traceRec c 1 0 c.g.pc).askStop c.g.team .brk, endRun := true }) ∧
      (c.g.active h.g = 0 → ∃ t, exec (.brk h imm) s = .next t ∧ Became s t c.gid c.g (c.g.pc + 8) none)))

/-- R320, R321: the fields of SYS.TCAUSE and the codes of the causes.
R324, R325: a trap taken outside handler mode with no register pending saves the state it names, enters the handler and
changes nothing else of the group, and no other group; the divergence stack is as it was before a pop that has not performed.
R93, R324: a trap that finds a register pending waits: nothing is saved yet. -/
def Obligations.TrapEntry : Prop :=
  (∀ t : TrapInfo, (trapWord t).toNat / 2 ^ 32 = 0 ∧ (trapWord t).extractLsb' 12 20 = t.imm ∧
    (trapWord t).extractLsb' 8 4 = t.detail ∧ (trapWord t).extractLsb' 6 2 = t.access ∧
    (trapWord t).getLsbD 5 = t.src ∧ ((trapWord t).toNat % 32 = causeCode t.cause)) ∧
  [Cause.illegalInstruction, .illegalOperand, .lookaheadViolation, .rangeConflict, .pageFault, .accessViolation, .cellType,
    .denseFallback, .poolExhausted, .queueMisuse, .breakpoint, .machineCheck].map causeCode =
      [1, 2, 3, 4, 5, 6, 7, 8, 9, 10, 11, 12] ∧
  (∀ (s : State) gid g tr, s.group? gid = some g → g.hmode = false → g.inbound = [] → (∀ p ∈ g.pends, p.done = true) →
    let t := s.takeTrap gid tr
    let m := tr.lanes.getD (trapLanes g (g.mask &&& g.live))
    ∃ g', t.group? gid = some g' ∧ gid ∉ t.runs ∧
      ((∀ c, s.ctx? gid = some c → s.armed c.pk 3 = false) ∨ s.bumps = [] → ∀ k, k ≠ gid → t.group? k = s.group? k) ∧
      g'.tpc = g.pc ∧ g'.tcause = trapWord tr ∧ g'.tmask = m ∧
      (∀ l, sget 0 g'.taddr l = ((tr.addr.reverse.find? fun e => e.1 == l).map Prod.snd).getD 0) ∧
      (∀ l, sget 0 g'.tpte l = ((tr.pte.reverse.find? fun e => e.1 == l).map Prod.snd).getD 0) ∧
      g'.tsave.toNat % 2 ^ 32 = g.mask.toNat ∧ g'.tsave.toNat / 2 ^ 32 = g'.depth % 2 ^ 32 ∧
      (g.unpopped = none → g'.stack = g.stack ∧ g'.spilled = g.spilled) ∧
      (∀ o k, g.unpopped = some (o, k) → g'.stack = o ∧ g'.spilled = g.spilled + k) ∧
      g'.mask = m ∧ g'.hmode = true ∧ g'.pc = g.tvec ∧ g'.latches = [] ∧ g'.lptr = 0 ∧
      g'.regs = g.regs ∧ g'.live = g.live ∧ g'.h = g.h ∧ g'.tide = g.tide ∧
      g'.nbmode = g.nbmode ∧ g'.lease = g.lease ∧ g'.tvec = g.tvec ∧
      ((∀ c, s.ctx? gid = some c → s.armed c.pk 3 = false) → t.mem = s.mem ∧ t.lines = s.lines)) ∧
  (∀ (s : State) gid g tr, s.group? gid = some g → g.inbound = [] → (∃ p ∈ g.pends, p.done = false) →
    ∃ g', (s.takeTrap gid tr).group? gid = some g' ∧ gid ∉ (s.takeTrap gid tr).runs ∧ g'.regs = g.regs ∧ g'.pc = g.pc ∧
      g'.hmode = g.hmode ∧ g'.tpc = g.tpc ∧ g'.tcause = g.tcause ∧ g'.pends = g.pends ∧
      g'.trapped = some { tr with lanes := some (tr.lanes.getD (trapLanes g (g.mask &&& g.live))) })

/-- R326: a trap condition met in handler mode does not vector: the team ends as by ABORT, and its report holds the second
trap's registers and the first's.
R307 to R310, R313: its ABORT record has reason STATE, actor bit 6 and the team's core and handle, and takes the log's next place
first. That a cluster of teams ends whole with one record a rank, and that the trap waits while the log has no room
(notes/assumptions/66), and that without a log nothing is recorded (notes/assumptions/68), are the model's choices. -/
def Obligations.DoubleTrap : Prop :=
  ∀ (s : State) gid g team tr, s.group? gid = some g → g.hmode = true → g.inbound = [] → (∀ p ∈ g.pends, p.done = true) →
    s.team? g.team = some team → team.life = .run →
    let t := s.takeTrap gid tr
    (s.abortRoom g.team = true →
      (∃ g' team', t.group? gid = some g' ∧ g'.pc = g.pc ∧ g'.hmode = true ∧ g'.tpc = g.tpc ∧ gid ∉ t.runs ∧
        t.team? g.team = some team' ∧ team'.life = .aborting none 10 ∧
        team'.report = some (1, leDwords [g.pc, trapWord tr] ++
          leWords [tr.lanes.getD (trapLanes g (g.mask &&& g.live))] ++ leDwords [g.tpc, g.tcause] ++ leWords [g.tmask])) ∧
      (∀ pk, s.clusterOf team.lead = [(g.team, team)] → s.packet? team.pid = some pk →
        t.dist.logWr = s.dist.logWr + (if s.dist.logCap = 0 then 0 else 1) ∧
        ∃ x : State, x.mem = s.mem ∧ x.lines = s.lines ∧ x.dist = s.dist ∧ x.host = s.host ∧
          t.mem = (x.decide'
            { kind := 4, reason := 10, queue := pk.queue, seq := pk.seq, team := team.index, core := team.core,
              actor := 0x40, sched := 0xFF, detail := g.team }).mem)) ∧
    (s.abortRoom g.team = false → ∃ g', t.group? gid = some g' ∧ g'.pc = g.pc ∧ g'.hmode = true ∧ g'.tpc = g.tpc ∧
      gid ∉ t.runs ∧ t.dist = s.dist ∧ t.mem = s.mem ∧
      g'.doom = some (1, leDwords [g.pc, trapWord tr] ++ leWords [tr.lanes.getD (trapLanes g (g.mask &&& g.live))] ++
        leDwords [g.tpc, g.tcause] ++ leWords [g.tmask]))

/-- R331: TRET restores M from SYS.TSAVE with the live lanes, leaves handler mode and goes to SYS.TPC, if the stack depth is the
one saved; else, and outside handler mode, it raises Illegal Instruction.
R93: nothing is pending after it. -/
def Obligations.TrapReturn : Prop :=
  (∀ b s c ws, Begins (.tret b) s c ws →
    (c.g.depth = c.g.tsave.toNat / 2 ^ 32 % 2 ^ 16 → ∃ t, exec (.tret b) s = .next t ∧ c.gid ∉ t.runs ∧
      Became s t c.gid { c.g with mask := c.g.tsave.lo &&& c.g.live, hmode := false } c.g.tpc none ∧
      ∀ g, t.group? c.gid = some g → g.pends = []) ∧
    (c.g.depth ≠ c.g.tsave.toNat / 2 ^ 32 % 2 ^ 16 → Traps (.tret b) s c { cause := .illegalInstruction })) ∧
  (∀ b s c, s.runs.head? = some c.gid → s.ctx? c.gid = some c → c.g.hmode = false →
    Traps (.tret b) s c { cause := .illegalInstruction, lanes := some (trapLanes c.g (c.g.mask &&& c.g.live)) })

/-- R102, steps 2 to 4, and the waits before issue (R88, R90, R93, R180): every word is stopped by the first check that it fails,
in this order, whatever its active lanes.
R47, R77, R78, R83, R86, R116: when step 3 finds a word's operands right: each source by its kind, allocation, alignment and
latch; each destination; the window's last word; a computed target.
R89, R91: when a read lies in a lookahead window. R88: when position n + 1 waits. R90, R249: when a write waits. R180, R195: when
the next memory access waits.
R366: a wait with two causes takes the lower code.
The model's choices: that the lanes of a word whose guard is pending are those of its old value (notes/assumptions/63); that a
word with no active lane does not wait to write (notes/assumptions/16); that a computed target is judged by what its registers
hold, once no result is waited for (notes/assumptions/32). -/
def Obligations.ChecksInOrder : Prop :=
  (∀ i g s c, declares s c i = some g → s.runs.head? = some c.gid → s.ctx? c.gid = some c →
    let act := c.g.active g.hd.g
    let lanes := some (trapLanes c.g act)
    (g.privOk c.g = false → Traps i s c { cause := .illegalInstruction, lanes := lanes }) ∧
    (g.privOk c.g = true → g.operandsOk c = false → (g.fieldsOk c = false ∨ g.lookaheadWait c.g = false) →
      Traps i s c { cause := .illegalOperand, lanes := lanes }) ∧
    (g.privOk c.g = true → g.fieldsOk c = true → g.target ≠ none → g.lookaheadWait c.g = true → Waits i s c .lookahead) ∧
    (g.privOk c.g = true → g.operandsOk c = true → g.violates c.g = true → (g.target = none ∨ g.lookaheadWait c.g = false) →
      Traps i s c { cause := .lookaheadViolation, lanes := lanes }) ∧
    (g.privOk c.g = true → g.operandsOk c = true → g.violates c.g = false →
      (g.lookaheadWait c.g = true → Waits i s c .lookahead) ∧
      (g.lookaheadWait c.g = false →
        (g.drains = true → c.g.pending = true → Waits i s c .drain) ∧
        ((g.drains = true → c.g.pending = false) →
          ((act ≠ 0 ∨ g.whole = true) → g.writeWait c.g = true → Waits i s c .writewait) ∧
          (act ≠ 0 → g.writeWait c.g = false → g.memory = true → c.g.memBusy = true →
            ∃ k ≤ g.memCode, Waits i s c (.memorder k)))))) ∧
  (∀ (g : Gate) (x : Group), (g.privOk x = true ↔ (g.priv = true → x.hmode = true) ∧ (g.noHandler = true → x.hmode = false)) ∧
    (g.violates x = true ↔ ∃ p ∈ x.pends, ∃ r ∈ g.reads, g.size ≤ p.left ∧ r ∈ p.regs ∧ r ∉ p.wrote ∧
      ¬((∃ z, g.mma = some z ∧ r = .z z) ∧ p.engine = true ∧ ∀ y ∈ g.rds, r ∉ y.regs)) ∧
    (g.lookaheadWait x = true ↔ ∃ p ∈ x.pends, p.done = false ∧ p.left < g.size ∧ p.past = false ∧
      ¬∃ z, g.mma = some z ∧ p.engine = true ∧ .z z ∈ p.regs) ∧
    (g.writeWait x = true ↔ ∃ r ∈ g.writes, (∃ p ∈ x.pends, p.done = false ∧ r ∈ p.regs ∧
      ¬∃ z, g.mma = some z ∧ p.engine = true ∧ r = .z z) ∨ ∃ u ∈ x.unread, u.2 = r) ∧
    (x.memBusy = false ↔ x.reds = 0 ∧ x.rems = 0 ∧ x.xfers = 0) ∧
    (x.pending = true ↔ ∃ p ∈ x.pends, p.done = false)) ∧
  (∀ (g : Gate) c, (g.operandsOk c = true ↔
    g.fieldsOk c = true ∧ ∀ a, g.target = some a → (c.g.src a 0 0).toNat % 8 = 0) ∧ (g.fieldsOk c = true ↔
    (∀ r ∈ g.rds, r.ok c.pk.regs c.g = true) ∧ (∀ w ∈ g.wrs, w.ok c.pk.regs c.pk.acc = true) ∧ g.badOperand = false ∧
    (∀ z ∈ g.zs, z < c.pk.acc) ∧ (∀ n, g.slot = some n → 8 * n < c.pk.acc) ∧
    ∀ k off n, g.win = some (k, off, n) → off + n ≤ 0x20000)) ∧
  (∀ regs (g : Group) (a : Src),
    ((Rd.w32 a).ok regs g = true ↔ SourceIs regs g a 1 true true true true) ∧
    ((Rd.w64 a).ok regs g = true ↔ SourceIs regs g a 2 true true false true) ∧
    ((Rd.a64 a).ok regs g = true ↔ SourceIs regs g a 2 true true false false) ∧
    ((Rd.quad a).ok regs g = true ↔ SourceIs regs g a 4 true true false true) ∧
    ((Rd.iv .s a).ok regs g = true ↔ SourceIs regs g a 2 true true false false) ∧
    ((Rd.iv .d a).ok regs g = true ↔ SourceIs regs g a 4 true true false false) ∧
    ((Rd.u64 a).ok regs g = true ↔ SourceIs regs g a 2 false true false false) ∧
    ((Rd.u32 a).ok regs g = true ↔ SourceIs regs g a 1 false true false false ∨ a = .mask) ∧
    (∀ k, (Rd.sgroup a k k).ok regs g = true ↔ SourceIs regs g a k false true false false ∧ a ≠ .zero) ∧
    (∀ k n, (Rd.vgroup a k n).ok regs g = true ↔ ∃ v, a = .v v ∧ v.toNat % n = 0 ∧ v.toNat + k ≤ regs)) ∧
  (∀ regs tiles n k, ((Wr.dst (.v n) k k).ok regs tiles = true ↔ n.toNat % k = 0 ∧ n.toNat + k ≤ regs) ∧
    (∀ m : BitVec 6, (Wr.dst (.s m) k k).ok regs tiles = true ↔ m.toNat % k = 0 ∧ m.toNat + k ≤ 64) ∧
    (∀ z, (Wr.z z).ok regs tiles = true ↔ z < tiles) ∧ (∀ z, (Wr.s z).ok regs tiles = true ∧ (Wr.p z).ok regs tiles = true))

/-- R101, R325: a privileged form outside handler mode, and a form that R325 lists in handler mode, raise Illegal
Instruction.
R325: the S registers and predicates in and outside handler mode: S56 to S63, P6 and P7 are two banks, and writing
one leaves the other, the V registers and what is not banked. -/
def Obligations.PrivilegeAndBanks : Prop :=
  (∀ i s c, s.runs.head? = some c.gid → s.ctx? c.gid = some c →
    (privileged i = true → c.g.hmode = false → ∃ l, Traps i s c { cause := .illegalInstruction, lanes := some l }) ∧
    (handlerForbidden i = true → c.g.hmode = true → ∃ l, Traps i s c { cause := .illegalInstruction, lanes := some l })) ∧
  (∀ (g : Group) n x, n < 64 →
    (g.setS n x).getS n = x ∧ (∀ m, m ≠ n → (g.setS n x).getS m = g.getS m) ∧
    (56 ≤ n → g.hmode = true → (g.setS n x).s = g.s ∧ (g.setS n x).hs = sput 0 g.hs n x) ∧
    (g.hmode = false → (g.setS n x).hs = g.hs ∧ (g.setS n x).hp = g.hp) ∧ (g.setS n x).p = g.p ∧ (g.setS n x).v = g.v) ∧
  (∀ (g : Group) k l v, k < 8 → l < 32 →
    let t := g.setPs [(32 * k + l, v)]
    t.getP k l = v ∧ (∀ j m, m < 32 → (j ≠ k ∨ m ≠ l) → t.getP j m = g.getP j m) ∧ t.s = g.s ∧ t.hs = g.hs ∧ t.v = g.v ∧
    (∀ j m, m < 32 → (t.pCell (!g.pBank k) j m = g.pCell (!g.pBank k) j m)) ∧
    (g.pBank k = true ↔ g.hmode = true ∧ 6 ≤ k))

/-! ## Memory -/

/-- R204 to R209, R213, R215: the loads: each active lane's address, its width and what it writes; a scalar destination
makes the access once, for the lowest lane.
R84, R214: LDK reads through the constant cache: the lines it names are cached, and no tidemark or lease moves. A byte read is
that of the cached line, or memory's where a store has changed it since; a line is cached as memory stands, its reductions merged
(R196). Which of the two a byte is, is a free value (notes/assumptions/8); the order of an instruction's lines is the model's
reading (notes/assumptions/18). -/
def Obligations.LoadWords : Prop :=
  ((∀ o, LoadsFrom (.ld o) o.h o.d (ldBytes o.w) (ldWords o.w)
    (fun g l => address (g.num64 o.a l + (g.src32 o.b l).toInt + o.disp.toInt * ldBytes o.w)) (ldWord o.w)) ∧
  (∀ o, LoadsFrom (.lds o) o.h o.d (ldBytes o.w) (ldWords o.w)
    (fun g l => padAddress ((g.src32 o.a l).toInt + (g.src32 o.b l).toInt + o.disp.toInt * ldBytes o.w)) (ldWord o.w)) ∧
  (∀ o, LoadsFrom (.ldmrad o) o.h o.d (if o.w = .s then 4 else 8) (wordsIn o.w)
    (fun g l => address (g.num64 o.a l + (g.src32 o.b l).toInt + o.disp.toInt * if o.w = .s then 4 else 8))
    fun bs k => ivWord o.w (mradDec o.w (leNat bs)) k)) ∧
  (∀ o s c ws, Begins (.ldk o) s c ws → c.g.active o.h.g ≠ 0 →
    match s.checkAll c .ldk (ldBytes o.w) (ldBytes o.w) ((loadLanes (c.g.active o.h.g) o.d).map fun l =>
        (l, address (c.g.num64 o.a l + (c.g.src32 o.b l).toInt + o.disp.toInt * ldBytes o.w))) with
    | .ok l =>
      let t := s.fillConsts c (l.map fun e => e.2.2.loc)
      Performs (.ldk o) s c
        { s := t, w := dstWrites (c.g.active o.h.g) o.d (ldWords o.w) fun i k => ldWord o.w (bytesOfLane (l.map fun e =>
            (e.1, (t.constBytes c.t.core ((List.range (ldBytes o.w)).map fun i => e.2.2.loc + i)).getD [])) i) k } ∧
      ((∀ e ∈ l, Calm s (leaseKey (s.fwd e.2.2.loc)) ∧ s.fwd e.2.2.loc / 128 ∉ s.poisoned) →
        t.mem = s.mem ∧ t.lines = s.lines ∧ t.groups = s.groups)
    | .trap tr => Traps (.ldk o) s c (onceIf o.d tr (c.g.active o.h.g))
    | .miss vas => exec (.ldk o) s = .next ((s.startWalks c vas).stallAt c.gid .translate)) ∧
  (∀ (s : State) core locs bs, s.constBytes core locs = some bs → bs.length = locs.length ∧
    ∀ i < locs.length, ∃ line, s.constLine core (locs.getD i 0) = some line ∧
      (bs.getD i 0 = line.getD (locs.getD i 0 % 128) 0 ∨ bs.getD i 0 = s.byteAt (s.fwd (locs.getD i 0)))) ∧
  (∀ (s : State) core loc keep, let t := s.fillConst core loc keep
    t.constLine core loc = some (t.bytesAt (s.fwd (loc / 128 * 128)) 128) ∧ (t.lineAt (leaseKey (s.fwd loc))).comm = none ∧
    (Calm s (leaseKey (s.fwd loc)) → t.mem = s.mem ∧ t.lines = s.lines ∧ t.groups = s.groups))

/-- R205: what a load's width makes of the bytes, and what a store's width takes from its source.
R176, R206: a scratchpad access of rank 0xFF reaches its own team's bytes, untranslated; nonzero bits [47:32], an access
beyond the allocation, and a misaligned address raise Access Violation.
R177: a private-stack address is translated as its thread's; R178: the fields of an on-chip-map address.
R179, R180, R206, R334: what a page's attributes and privilege forbid, and what each class of access may reach.
R206: the steps of a lane's checks in their order; lanes that fail an aperture check are reported together, and before any other
failure; nothing is accessed unless every lane passes every step. Where the scratchpads' bytes and leases stand among the model's
places is its own choice (notes/assumptions/99), and so are the place of SUP before REMOTE and CELL, and DETAIL 0 for a seal access
in the private stack or the scratchpad, before the checks of alignment and attributes (notes/assumptions/136). -/
def Obligations.WidthsAndPlaces : Prop :=
  ((∀ bs : List Byte, bs.length = 1 → ldWord .u8 bs 0 = BitVec.ofNat 32 (leNat bs) ∧
    ldWord .s8 bs 0 = BitVec.ofInt 32 (Int.bmod (leNat bs) (2 ^ 8))) ∧
  (∀ bs : List Byte, bs.length = 2 → ldWord .u16 bs 0 = BitVec.ofNat 32 (leNat bs) ∧
    ldWord .s16 bs 0 = BitVec.ofInt 32 (Int.bmod (leNat bs) (2 ^ 16))) ∧
  (∀ (bs : List Byte) k, bs.length = 16 → k < 4 → ldWord .q bs k = BitVec.ofNat 32 (leNat bs / 2 ^ (32 * k)) ∧
    ldWord .x (bs.take 8) (k % 2) = ldWord .q bs (k % 2) ∧ ldWord .w (bs.take 4) 0 = ldWord .q bs 0) ∧
  (∀ fm g b l, (stData fm g b l).length = stSize fm ∧
    leNat (stData fm g b l) = (joined (g.src b l 0) (g.src b l 1) + 2 ^ 64 * joined (g.src b l 2) (g.src b l 3)) %
      2 ^ (8 * stSize fm))) ∧
  (∀ (s : State) c rule lane ea size al, rule.scratch = true → ea / 2 ^ 48 = 0xFFFE →
    (ea / 2 ^ 32 % 2 ^ 16 ≠ 0 → s.aperture c rule lane ea size al = .bad .accessViolation 0 0) ∧
    (ea / 2 ^ 24 % 2 ^ 24 = 0xFF →
      (c.pk.granules * 2048 < ea % 2 ^ 24 + size → s.aperture c rule lane ea size al = .bad .accessViolation 0 0) ∧
      (ea % 2 ^ 24 + size ≤ c.pk.granules * 2048 → ea % al ≠ 0 →
        s.aperture c rule lane ea size al = .bad .accessViolation 1 0) ∧
      (ea % 2 ^ 24 + size ≤ c.pk.granules * 2048 → ea % al = 0 →
        s.aperture c rule lane ea size al =
          .good (.place (.mem (2 ^ 52 + 2 ^ 20 * c.t.core + (c.t.granule * 2048 + ea % 2 ^ 24)) none)))) ∧
    (c.pk.cluster ≤ ea / 2 ^ 24 % 2 ^ 8 → ea / 2 ^ 24 % 2 ^ 8 ≠ 0xFF → ea / 2 ^ 24 % 2 ^ 8 ≠ c.t.rank →
      s.aperture c rule lane ea size al = .bad .accessViolation 0 0)) ∧
  (∀ (s : State) c rule lane ea size al,
    let x := s.aperture c rule lane ea size al
    let off := ea % 2 ^ 48
    let thread := c.t.index * (32 * c.pk.groups) + 32 * c.g.idx + lane
    (rule.scratch = false → ea / 2 ^ 48 = 0xFFFE → x = .bad .accessViolation 0 0) ∧
    (ea / 2 ^ 48 = 0xFFFD →
      (rule.priv = false ∨ c.pk.psSize ≤ off → x = .bad .accessViolation 0 0) ∧
      (rule.priv = true → off < c.pk.psSize → x = if ea % al = 0
        then .good (.virt ((c.pk.psBase.toNat + thread * c.pk.psSize + off) % 2 ^ 64)) else .bad .accessViolation 1 0)) ∧
    (ea / 2 ^ 48 = 0xFFFC →
      let core := 128 * (off / 2 ^ 32 % 4) + off / 2 ^ 25 % 128
      let win := off / 2 ^ 22 % 8
      let bad := rule.chip = false ∨ off / 2 ^ 34 ≠ 0 ∨ 96 ≤ off / 2 ^ 25 % 128 ∨ 4 ≤ win ∨ (rule.engine = true ∧ 2 ≤ win) ∨
        [2 ^ 19, 2 ^ 20, 2 ^ 18, 48 * 4096].getD win 0 < ea % 2 ^ 22 + size
      (bad → x = .bad .accessViolation 0 0) ∧
      (¬bad → x = if ea % al = 0 then .good (.place (if win = 1 then .mem (2 ^ 52 + 2 ^ 20 * core + ea % 2 ^ 22) none
        else .chip core win (ea % 2 ^ 22))) else .bad .accessViolation 1 0)) ∧
    (ea / 2 ^ 48 < 0xFFFC ∨ 0xFFFF ≤ ea / 2 ^ 48 → x = if ea % al = 0 then .good (.virt ea) else .bad .accessViolation 1 0)) ∧
  (∀ (s : State) c rule ea size loc t,
    let x := s.attrStep c rule ea size (.mem loc (some t))
    (t.sup = true → c.g.hmode = false → x = .bad .accessViolation 3 0) ∧
    (t.sup = false ∨ c.g.hmode = true →
      (rule.cell = none → x = if t.cell then .good (.mem loc (some t)) else .bad .cellType 0 0) ∧
      (∀ raw, rule.cell = some raw →
        (t.remote = true → rule.remote = false → x = .bad .accessViolation 2 0) ∧
        (t.remote = false ∨ rule.remote = true → t.cell = true → raw = false → x = .bad .cellType 0 0) ∧
        (t.remote = false ∨ rule.remote = true → t.cell = false ∨ raw = true → x = .good (.mem loc (some t)))))) ∧
  (∀ (s : State) c rule ea size p, (p = .chip (ea / 2 ^ 32 % 4 * 128 + ea / 2 ^ 25 % 128) (ea / 2 ^ 22 % 8) (ea % 2 ^ 22) ∨
      (ea / 2 ^ 48 = 0xFFFC ∧ ∃ loc, p = .mem loc none)) →
    s.attrStep c rule ea size p =
      if c.g.hmode = true ∨ s.chipOpen c rule ea size = true then .good p else .bad .accessViolation 3 0) ∧
  [Rule.ld, .st, .atom, .zread, .zwrite, .xsrc, .xdst, .xfill, .seal, .key true].map
    (fun r => (r.access.toNat, r.scratch, r.priv, r.chip, r.remote, r.cell)) =
    [(0, true, true, true, false, some true), (1, true, true, true, false, some false),
      (2, true, true, true, true, some false), (0, true, false, false, false, some false),
      (1, true, false, false, false, some false), (0, true, false, true, true, some false),
      (1, true, false, true, true, some false), (1, true, false, true, true, some false),
      (2, false, false, false, true, none), (2, false, false, false, false, some false)] ∧
  (∀ (s : State) c rule size al lane ea, lane < 32 →
    let r := s.checkAll c rule size al [(lane, ea)]
    match s.aperture c rule lane ea size al with
    | .bad k d p => r = .trap (laneTrap rule lane ea k d p)
    | .miss => False
    | .good x => match s.transStep c x with
      | .bad k d p => r = .trap (laneTrap rule lane ea k d p)
      | .miss => ∃ va, x = .virt va ∧ r = .miss [va]
      | .good p => match s.attrStep c rule ea size p with
        | .bad k d q => r = .trap (laneTrap rule lane ea k d q)
        | .miss => False
        | .good q => r = if s.locked (decide (rule.access ≠ 0)) q.loc size
            then .trap (laneTrap rule lane ea .rangeConflict 0 0) else .ok [(lane, ea, q)]) ∧
  (∀ (s : State) c rule size al eas,
    let bad := eas.filter fun e => !(s.aperture c rule e.1 e.2 size al).passed
    let r := s.checkAll c rule size al eas
    (bad ≠ [] → ∃ t, r = .trap t ∧ t.cause = .accessViolation ∧ t.access = rule.access ∧
      t.lanes = some (maskOf fun i => bad.any fun e => e.1 == i) ∧
      t.addr = bad.map fun e => (e.1, BitVec.ofNat 64 e.2)) ∧
    (∀ l, r = .ok l ↔ l.map (fun e => (e.1, e.2.1)) = eas ∧ ∀ e ∈ l, s.checkAll c rule size al [(e.1, e.2.1)] = .ok [e]) ∧
    (∀ vas, r = .miss vas → bad = [] ∧ vas ≠ [] ∧ ∀ va ∈ vas, s.translate c.g c.t.core va = .miss))

/-- R204 to R210, R213, R215, R216: the stores: each active lane's address and the bytes it stores.
R210: what a store changes of memory: exactly the bytes its lanes store, where lanes meet the highest lane's; every other
byte reads as before. That a store writes the home at once, and the order of its lines, are the model's readings
(notes/assumptions/18, 98). -/
def Obligations.StoreWords : Prop :=
  ((∀ o, StoresTo (.st o) o.h (stSize o.w) (fun g l => address (g.num64 o.a l + o.disp.toInt * stSize o.w))
    fun g l => stData o.w g o.b l) ∧
  (∀ o, StoresTo (.sts o) o.h (stSize o.w) (fun g l => padAddress ((g.src32 o.a l).toInt + o.disp.toInt * stSize o.w))
    fun g l => stData o.w g o.b l) ∧
  (∀ o, StoresTo (.stmrad o) o.h (if o.w = .s then 4 else 8)
    (fun g l => address (g.num64 o.a l + o.disp.toInt * if o.w = .s then 4 else 8))
    fun g l => leBytes (if o.w = .s then 4 else 8) (mradEnc o.w (g.ival o.w o.b l))) ∧
  (∀ o, StoresTo (.stp o) o.h (stpSize o.fmt) (fun g l => address (g.num64 o.a l + o.disp.toInt * stpSize o.fmt))
    fun g l => leBytes (stpSize o.fmt)
      ((stpTarget o.fmt).encPt ((g.ival (stpWidth o.fmt) o.b l).take (stpWidth o.fmt) (stpTarget o.fmt) o.mode)))) ∧
  (∀ (s : State) c l data, s.group? c.gid = some c.g → Plain s l →
    (∀ a, (∀ e ∈ l, ¬ storedAt s data e a) → (s.storePlaces c l data).byteAt a = s.byteAt a) ∧
    (∀ pre e post loc tr, l = pre ++ e :: post → e.2.2 = .mem loc tr → ∀ i < (data e.1).length,
      s.inCarve (s.fwd loc + i) = true → (∀ x ∈ post, ¬ storedAt s data x (s.fwd loc + i)) →
      (s.storePlaces c l data).byteAt (s.fwd loc + i) = (data e.1).getD i 0) ∧
    ((∀ e ∈ l, ∃ loc tr, e.2.2 = .mem loc tr) → (∀ k, k ≠ c.gid → (s.storePlaces c l data).group? k = s.group? k) ∧
      ∃ t, c.g.tide ≤ t ∧ (s.storePlaces c l data).group? c.gid = some { c.g with tide := t }))

/-- R189, R206 to R208: what a load whose lines are not commutative changes and returns: no byte of memory, no group but its own
and of that the tidemark alone, which never falls; bytes at the home below the carve-out are those of memory, those above it
zero; bytes that a leased copy answers are the copy's.
R217: PREF never faults, and changes no byte of memory, register or tidemark, whatever lines it names. -/
def Obligations.LoadsLeaveMemory : Prop :=
  (∀ (s : State) c size l, s.group? c.gid = some c.g → Plain s l →
    (s.loadPlaces c size l).1.mem = s.mem ∧
    (∀ k, k ≠ c.gid → (s.loadPlaces c size l).1.group? k = s.group? k) ∧
    (∃ t, c.g.tide ≤ t ∧ (s.loadPlaces c size l).1.group? c.gid = some { c.g with tide := t }) ∧
    ((∀ e ∈ l, e.2.2.atHome = true) → (s.loadPlaces c size l).2.2.2.1 = l.map fun e => (e.1, match e.2.2 with
      | .mem loc _ => (List.range size).map fun i => if s.inCarve (loc + i) then s.byteAt (s.fwd (loc + i)) else 0
      | .chip core win off => s.chipRead core win off size))) ∧
  (∀ (s : State) src loc t n k d, (src.find? fun e => decide (e.1 = loc / 128)) = some (k, .copy d) → loc + n ≤ 2 ^ 52 →
    s.get src (.mem loc t) n = (List.range n).map fun i => d.getD (loc % 128 + i) 0) ∧
  (∀ o s c ws, Begins (.pref o) s c ws → ∃ t, exec (.pref o) s = .next t ∧
    (∃ g, t.group? c.gid = some g ∧ g.regs = c.g.regs ∧ g.pc = c.g.pc + 8 ∧ g.tide = c.g.tide ∧ g.mask = c.g.mask ∧
      g.live = c.g.live ∧ g.stack = c.g.stack ∧ g.hmode = c.g.hmode ∧ g.mcs = c.g.mcs ∧ g.trapped = c.g.trapped ∧
      ((∀ e ∈ prefPlaces s c (c.g.active o.h.g) o, ∀ p t', e.2.2 = .mem p t' → Calm s (leaseKey (s.fwd p))) →
        g.rest = c.g.rest)) ∧
    ((∀ e ∈ prefPlaces s c (c.g.active o.h.g) o, ∀ p t', e.2.2 = .mem p t' → Calm s (leaseKey (s.fwd p))) →
      (∀ k, k ≠ c.gid → t.group? k = s.group? k) ∧ t.mem = s.mem) ∧
    (o.sc = true → Became s t c.gid c.g (c.g.pc + 8) none))

/-- R206, R219 to R221, R223: the value-returning atomics.
R219 to R221: what an atomic does to one element: the table of new values, of integers and of intervals; a failed compare writes
nothing; an interval is read and its new value written as images, and its old value is returned as the canonical image of the set
that was read: Empty for an ill-formed pair, +0 for a bound of -0.
R186, R219: the lanes' elements are operated on in ascending lane order, each on what the lanes below it have left. -/
def Obligations.AtomicWords : Prop :=
  ((∀ o, Atomically (.atom o) o.h (.int o.op o.x) o.d (if o.x then 2 else 1) o.a (fun g l => g.image o.b o.x 0 l)
    fun _ _ => 0) ∧
  (∀ o, Atomically (.atomcas o) o.h (.cas o.x) o.d (if o.x then 2 else 1) o.a (fun g l => g.image o.b o.x 0 l)
    fun g l => g.image o.b o.x (if o.x then 2 else 1) l) ∧
  (∀ o, Atomically (.fatom o) o.h (.flt o.op o.w) o.d (wordsIn o.w) o.a (fun g l => g.ivImage o.b o.w l) fun _ _ => 0)) ∧
  ((∀ (o : AtomOp) (x : Bool) (old b m : Nat), let n := if x then 64 else 32
    old < 2 ^ n → b < 2 ^ n → ElemOp.new (.int o x) old b m = some (match o with
      | .int .add => (old + b) % 2 ^ n
      | .int .min => if Int.bmod old (2 ^ n) ≤ Int.bmod b (2 ^ n) then old else b
      | .int .max => if Int.bmod old (2 ^ n) ≤ Int.bmod b (2 ^ n) then b else old
      | .int .minu => min old b
      | .int .maxu => max old b
      | .int .and => old &&& b
      | .int .or => old ||| b
      | .int .xor => old ^^^ b
      | .xchg => b
      | .incw => if old ≥ b then 0 else old + 1
      | .decw => if old = 0 ∨ old > b then b else old - 1) ∧ ElemOp.old (.int o x) old = old) ∧
  (∀ x old b m, ElemOp.new (.cas x) old b m = (if old = b then some m else none) ∧ ElemOp.old (.cas x) old = old) ∧
  (∀ (o : FAtomOp) (w : FW) old b m,
    let n := if w = .s then 32 else 64
    let read (x : Nat) : Ival := Ival.ofImages (fmtOf w) (x % 2 ^ n) (x / 2 ^ n % 2 ^ n)
    let image (z : Ival) : Nat := (z.images (fmtOf w)).1 + 2 ^ n * (z.images (fmtOf w)).2
    ElemOp.new (.flt o w) old b m = some (image (match o with
      | .add => Ival.add (fmtOf w) (read old) (read b)
      | .min => Ival.min (read old) (read b)
      | .max => Ival.max (read old) (read b)
      | .hull => Ival.hull (read old) (read b)
      | .isect => Ival.isect (read old) (read b))) ∧
    ElemOp.old (.flt o w) old = image (read old) ∧
    (read old = .empty → ElemOp.old (.flt o w) old = (fmtOf w).enc .pinf + 2 ^ n * (fmtOf w).enc .ninf)) ∧
  (∀ o, ElemOp.old (.flt o .s) 0x8000000080000000 = 0 ∧
    ElemOp.old (.flt o .s) 0x3F80000040000000 = 0xFF8000007F800000 ∧
    ElemOp.old (.flt o .s) 0x400000003F800000 = 0x400000003F800000) ∧
  (∀ (s : State) op a, a.loc < devTop * 4 → a.loc % op.size = 0 →
    (∀ i < op.size, s.inCarve (a.loc + i) = true ∧ s.inCarve (s.fwd a.loc + i) = true) →
    (s.doElem op a).2.1 = op.old (s.natAt (s.fwd a.loc) op.size) ∧
    (∀ p, (p < s.fwd a.loc ∨ s.fwd a.loc + op.size ≤ p) → (s.doElem op a).1.byteAt p = s.byteAt p) ∧
    (op.new (s.natAt (s.fwd a.loc) op.size) a.b a.n = none → (s.doElem op a).1 = s ∧ (s.doElem op a).2.2 = false) ∧
    (∀ v, op.new (s.natAt (s.fwd a.loc) op.size) a.b a.n = some v → (s.doElem op a).2.2 = true ∧
      (s.doElem op a).1.natAt (s.fwd a.loc) op.size = v % 2 ^ (8 * op.size)))) ∧
  (∀ (s : State) op acts tide core owner, (∀ a ∈ acts, a.loc < devTop * 4 ∧ Calm s (leaseKey (s.fwd a.loc))) →
    (s.runElems op acts tide core owner).2.2 = (s.doElems op acts).2.1 ∧
    (s.runElems op acts tide core owner).1.mem = (s.doElems op acts).1.mem) ∧
  (∀ (s : State) op acts a, (s.doElems op []).1 = s ∧ (s.doElems op []).2.1 = [] ∧
    (s.doElems op (acts ++ [a])).1 = ((s.doElems op acts).1.doElem op a).1 ∧
    (s.doElems op (acts ++ [a])).2.1 = (s.doElems op acts).2.1 ++ [(a.lane, ((s.doElems op acts).1.doElem op a).2.1)])

/-- R195, R206, R222: RED and FRED return nothing; from a remote page they are sent to the other package (R180). A reduction
combines two elements as the atomic of its operation does (R219, R221).
R196: a merge applies a line's partials in ascending die order to the element they name, at one tide time above the line's
lease, and the line leaves the commutative state; the line's other bytes stay. That the time is no earlier than the access that
triggers it or a reducer's tidemark, that an accepted reduction drops the line's copies, and that a remote one is performed when its
acknowledgement arrives, are the model's readings (notes/assumptions/130, 15, 42). -/
def Obligations.ReductionWords : Prop :=
  ((∀ o, Reduces (.red o) o.h (.int o.op o.x) o.a fun g l => g.image o.b o.x 0 l) ∧
  (∀ o, Reduces (.fred o) o.h (.flt o.op o.w) o.a fun g l => g.ivImage o.b o.w l)) ∧
  (∀ op old b m, redFn op old b ∈ ElemOp.new (match op with
    | .int o x => .int (.int o) x
    | .flt o w => .flt o w) old b m) ∧
  (∀ (s : State) key tide op parts time addr, (s.lineAt key).comm = some ⟨op, parts, time⟩ → (∀ p ∈ parts, p.2.1 = addr) →
    (parts.Pairwise fun p q => p.1 < q.1) →
    let t := s.merge key tide
    let at' := max ((s.lineAt key).rts + 1) (max tide time)
    t.natAt addr op.size = parts.foldl (fun x p => redFn op x p.2.2 % 2 ^ (8 * op.size)) (s.natAt addr op.size) ∧
    (∀ p, (p < addr ∨ addr + op.size ≤ p) → t.byteAt p = s.byteAt p) ∧
    (t.lineAt key).comm = none ∧ (t.lineAt key).wts = at' ∧ (t.lineAt key).rts = at')

/-- R189: a load at the home extends the lease and raises the tidemark to the line's write time; a write at the home takes a time
above the lease and the tidemark. A cached copy answers while the tidemark is within its lease, and then moves the tidemark
alone; so does a line whose write lease the core's own L1 holds. Else the load goes to the home, and so does every load of an N
page (R179).
R192: a copy of another generation than the core holds for its slice is expired; a reply may grant a copy of the line's bytes
with its lease. -/
def Obligations.TideOrder : Prop :=
  (∀ (s : State) loc len tide bs, Calm s (leaseKey (s.fwd loc)) →
    let l := s.lineAt (leaseKey (s.fwd loc))
    ((s.readHome loc len tide).2 = max tide l.wts ∧ (s.readHome loc len tide).1.mem = s.mem ∧
      ((s.readHome loc len tide).1.lineAt (leaseKey (s.fwd loc))).rts = max l.rts (max (l.wts + len) (tide + len)) ∧
      ((s.readHome loc len tide).1.lineAt (leaseKey (s.fwd loc))).wts = l.wts) ∧
    ((s.writeHome loc bs tide).2 = max tide (l.rts + 1) ∧
      ((s.writeHome loc bs tide).1.lineAt (leaseKey (s.fwd loc))).wts = max tide (l.rts + 1) ∧
      ((s.writeHome loc bs tide).1.lineAt (leaseKey (s.fwd loc))).rts = max tide (l.rts + 1) ∧
      (s.writeHome loc bs tide).1.bytesAt (s.fwd loc) bs.length = bs ∧
      ∀ p, (p < s.fwd loc ∨ s.fwd loc + bs.length ≤ p) → (s.writeHome loc bs tide).1.byteAt p = s.byteAt p)) ∧
  (∀ (s : State) core line tide k, s.copyHit core line tide = some k ↔
    sfind (s.coreAt core).l1 line = some k ∧ tide ≤ k.rts ∧
    k.gen = (sget {} (s.coreAt core).heard (shelfOf (line * 128))).gen) ∧
  (∀ (s : State) c loc t tide pend, (Place.mem loc t).atHome = false → loc < 2 ^ 52 →
    let line := s.fwd loc / 128
    let x := s.loadLine c (.mem loc t) tide pend
    ((s.lineAt line).owner = some c.t.core → (s.lineAt line).comm = none → tide ≤ (s.lineAt line).rts →
      x = (s, max tide (s.lineAt line).wts, .home, 0)) ∧
    ((s.lineAt line).owner ≠ some c.t.core →
      (∀ k, s.copyHit c.t.core line tide = some k → x = (s, max tide k.wts, .copy k.data, 0)) ∧
      (s.copyHit c.t.core line tide = none → Calm s (leaseKey (s.fwd loc)) →
        x.2 = (max tide (s.lineAt (leaseKey (s.fwd loc))).wts, .home, 1) ∧ x.1.mem = s.mem ∧
        ∃ cp, x.1.replies = s.replies ++ [⟨c.gid, c.t.core, line, shelfOf (line * 128), cp, pend, false⟩] ∧
          ∀ k, cp = some k → k.wts = (x.1.lineAt line).wts ∧ k.rts = (x.1.lineAt line).rts ∧
            k.data = s.bytesAt (line * 128) 128))) ∧
  (∀ (s : State) c loc t tide pend, (Place.mem loc t).atHome = true →
    s.loadLine c (.mem loc t) tide pend =
      ((s.readHome loc c.g.lease.toNat tide).1, (s.readHome loc c.g.lease.toNat tide).2, .home, 0)) ∧
  ∀ loc t, t.n = true → (Place.mem loc (some t)).atHome = true

/-! ## Barriers, queues, monitors and pairs -/

/-- R231 to R234: the barrier words.
R232, R234: an arrival is counted once; the phase completes with the arrival that makes it `n`, or under `n` = 0 the last
live group's; then the phase counter goes up by one, the arrivals are reset and the groups that wait for it are released with
the largest tidemark recorded; a group that arrives without waiting (BARA) keeps its own. That a repeated arrival is held to the
open phase's count, the place of each arrival in a cluster barrier's mask, and the tide time BARW takes, are the model's choices
(notes/assumptions/109, 28, 29). -/
def Obligations.Barriers : Prop :=
  ((∀ h hold a id, Arrives (.bar h hold a id) h false true id.toNat (fun c => (c.g.src32 a 0).toNat) fun _ r _ =>
    { s := r.1, wait := if r.2 then none else some (.barrier id.toNat) }) ∧
  (∀ h id, Arrives (.barc h id) h true true id.toNat (fun _ => 0) fun _ r _ =>
    { s := r.1, wait := if r.2 then none else some (.clusterBarrier id.toNat) }) ∧
  (∀ h hold d a id, Arrives (.bara h hold d a id) h false false id.toNat (fun c => (c.g.src32 a 0).toNat) fun c r ph =>
    { s := r.1, w := dstWrites (c.g.active h.g) d 1 fun _ _ => ph }) ∧
  (∀ h hold a id s c ws, Begins (.barw h hold a id) s c ws →
    let b := s.barrier c.t false id.toNat
    let past := BitVec.ofInt 32 (b.ph.toNat - (c.g.src32 a 0).toNat)
    let acts := h.g = .always ∨ c.g.active h.g ≠ 0
    (¬acts → DoesNothing (.barw h hold a id) s c) ∧
    (acts → (past = 0 ∨ 2 ^ 31 ≤ past.toNat) → Waits (.barw h hold a id) s c (.barrierValue id.toNat (c.g.src32 a 0))) ∧
    (acts → 0 < past.toNat → past.toNat < 2 ^ 31 → ∃ t, exec (.barw h hold a id) s = .next t ∧
      Became s t c.gid { c.g with tide := max c.g.tide (if past = 1 then b.rel else b.relMax) } (c.g.pc + 8) none))) ∧
  (∀ (s : State) gid c cluster waits id n, s.ctx? gid = some c → s.armed c.pk 1 = false →
    (cluster = true → (s.team? c.t.lead).isSome = true) →
    let b := s.barrier c.t cluster id
    let bit := barBit c.t c.g.idx cluster
    let tide := max b.tide c.g.tide
    let full : Prop := if n = 0 then ∀ i ∈ s.barLive c.t cluster, i = bit ∨ b.arrived.testBit i = true else n ≤ b.count + 1
    let r := s.arrive c cluster waits id n
    b.arrived.testBit bit = false → s.barLive c.t cluster ≠ [] →
    (r.2 = true ↔ full) ∧ r.1.mem = s.mem ∧ ∃ t, r.1.team? c.g.team = some t ∧
      (∀ j, j ≠ id → r.1.barrier t cluster j = s.barrier c.t cluster j) ∧
      (¬full → r.1.barrier t cluster id =
          { b with count := b.count + 1, need := some n, arrived := b.arrived + 2 ^ bit, tide := tide } ∧
        ∀ k, k ≠ gid → r.1.group? k = s.group? k) ∧
      (full → r.1.barrier t cluster id = { ph := b.ph + 1, rel := tide, relMax := max b.relMax tide } ∧
        (waits = true ∨ c.g.stall = none → ∃ g, r.1.group? gid = some g ∧ g.tide = if waits then tide else c.g.tide) ∧
        ∀ k x, k ≠ gid → Spans s c.t cluster k → s.group? k = some x →
          x.stall = some (if cluster then .clusterBarrier id else .barrier id) →
          r.1.group? k = some { x with stall := none, tide := max x.tide tide }))

/-- R31 to R35, R136, R235, R236: pushes, pops, QMAP and QTRY. That range locks stop pushes and pops, and the range of the two
indices, are the model's readings (notes/assumptions/25, 26). -/
def Obligations.QueueWords : Prop :=
  (∀ h q a s c ws, Begins (.movQueuePush h q a) s c ws →
    let i : Instr := .movQueuePush h q a
    let x := c.t.queue q.toNat
    let act := c.g.active h.g
    let kind := if a.uniform then 1 else 2
    let misuse (d : BitVec 4) : TrapInfo :=
      { cause := .queueMisuse, detail := d, imm := BitVec.ofNat 20 q.toNat, lanes := some (trapLanes c.g act) }
    let loc := c.t.scratch (x.base + x.width * (x.wr % x.depth))
    let bs := leWords (if kind = 2 then (List.range 32).map fun l => if act.getLsbD l then c.g.src32 a l else 0
      else [c.g.src32 a (lowLane act)])
    let r := s.writeHome loc bs c.g.tide
    (x.kind = 0 → Traps i s c (misuse 0)) ∧ (x.kind ≠ 0 → x.kind ≠ kind → Traps i s c (misuse 1)) ∧
    (x.kind = kind → act = 0 → DoesNothing i s c) ∧
    (x.kind = kind → act ≠ 0 → x.depth ≤ x.wr - x.rd → Waits i s c (.queue q.toNat false)) ∧
    (x.kind = kind → act ≠ 0 → x.wr - x.rd < x.depth →
      (s.locked true loc x.width = true → ∃ t, t.cause = .rangeConflict ∧ t.access = 1 ∧ Traps i s c t) ∧
      (s.locked true loc x.width = false → Performs i s c
        { s := (r.1.raiseTide c.gid r.2).setQueue c.g.team q.toNat
            { x with wr := x.wr + 1, times := x.times ++ [r.2] } }))) ∧
  (∀ h d q s c ws, Begins (.movQueuePop h d q) s c ws →
    let i : Instr := .movQueuePop h d q
    let x := c.t.queue q.toNat
    let act := c.g.active h.g
    let kind := match d with
      | .v _ => 2
      | .s _ => 1
    let misuse (e : BitVec 4) : TrapInfo :=
      { cause := .queueMisuse, detail := e, imm := BitVec.ofNat 20 q.toNat, lanes := some (trapLanes c.g act) }
    let loc := c.t.scratch (x.base + x.width * (x.rd % x.depth))
    let r := s.readHome loc c.g.lease.toNat c.g.tide
    (x.kind = 0 → Traps i s c (misuse 0)) ∧ (x.kind ≠ 0 → x.kind ≠ kind → Traps i s c (misuse 1)) ∧
    (x.kind = kind → act = 0 → DoesNothing i s c) ∧
    (x.kind = kind → act ≠ 0 → x.wr ≤ x.rd → Waits i s c (.queue q.toNat true)) ∧
    (x.kind = kind → act ≠ 0 → x.rd < x.wr →
      (s.locked false loc x.width = true → ∃ t, t.cause = .rangeConflict ∧ t.access = 0 ∧ Traps i s c t) ∧
      (s.locked false loc x.width = false → Performs i s c
        { s := (r.1.raiseTide c.gid (max r.2 (x.times.headD 0))).setQueue c.g.team q.toNat x.pop
          w := dstWrites act d 1 fun l _ => wordOf (r.1.bytesAt loc x.width) (if kind = 2 then 4 * l else 0) }))) ∧
  (∀ x : Queue, x.rd < x.depth → x.rd < x.wr → x.pop.wr - x.pop.rd = x.wr - (x.rd + 1) ∧
    (∀ k, (x.pop.rd + k) % x.depth = (x.rd + 1 + k) % x.depth) ∧ x.pop.times = x.times.tail ∧
    x.pop.base = x.base ∧ x.pop.depth = x.depth ∧ x.pop.kind = x.kind) ∧
  (∀ h kind q a b s c ws, Begins (.qmap h kind q a b) s c ws →
    let i : Instr := .qmap h kind q a b
    let base := (c.g.src32 a 0).toNat
    let n := (c.g.src32 b 0).toNat
    let wid := if kind = .s then 4 else 128
    let fits := base % wid = 0 ∧ 1 ≤ n ∧ n ≤ 4096 ∧ base + wid * n ≤ c.pk.granules * 2048
    (c.g.active h.g = 0 → DoesNothing i s c) ∧
    (c.g.active h.g ≠ 0 → kind ≠ .off → fits → Performs i s c
      { s := (s.setQueue c.g.team q.toNat { kind := if kind = .s then 1 else 2, base := base, depth := n }).wakeQueue c.t
          q.toNat }) ∧
    (c.g.active h.g ≠ 0 → kind ≠ .off → ¬fits → RefusesOperand i s c (c.g.active h.g)) ∧
    (c.g.active h.g ≠ 0 → kind = .off → Performs i s c
      { s := (s.setQueue c.g.team q.toNat {}).wakeQueue c.t q.toNat })) ∧
  (∀ h q a b s c, s.runs.head? = some c.gid → s.ctx? c.gid = some c → c.g.hmode = false → (a ≠ .zero ∨ b ≠ .zero) →
    RefusesOperand (.qmap h .off q a b) s c (c.g.active h.g)) ∧
  (∀ h d q pop, WritesPred (.qtry h d q pop) h d fun c _ =>
    let x := c.t.queue q.toNat
    if x.kind = 0 then .u
    else if pop then (if x.rd < x.wr then .t else .f) else if x.wr - x.rd < x.depth then .t else .f)

/-- R201, R237, R319: WAITV and DWAIT read the bytes at their address in tide order, as any load does (R189), complete with what
they find, complete with U where no monitor entry is free, and else wait; a place whose translation was lost (R328) answers F. That
a wait on bytes that differ from a copy's is noticed at once, and that a private-stack address is that of the lowest active lane,
are the model's readings (notes/assumptions/41, 110). -/
def Obligations.MonitorWaits : Prop :=
  (∀ h hold d a b s c ws, Begins (.waitv h hold d a b) s c ws →
    let i : Instr := .waitv h hold d a b
    let act := c.g.active h.g
    (act = 0 → DoesNothing i s c) ∧
    (act ≠ 0 → CheckThen i s s c (onceFor · act) (s.checkAll c .wait 4 4 [(lowLane act, address (c.g.num64 a 0))]) fun l =>
      ∀ e, l = [e] →
      let r := s.loadLines c [(0, 0, e.2.2)] none
      let x := r.1.raiseTide c.gid r.2.1
      let v := leNat (r.1.get r.2.2.2 e.2.2 4)
      (isLost e.2.2.loc = true → Performs i s c { s := x.dropMonitor c.gid, w := triWrites act d fun _ => .f }) ∧
      (isLost e.2.2.loc = false → (v ≠ (c.g.srcB b ws 0 0).toNat →
        Performs i s c { s := x.dropMonitor c.gid, w := triWrites act d fun _ => .t }) ∧
      (v = (c.g.srcB b ws 0 0).toNat → c.g.waitMon = false → x.monitorFree (coreDie c.t.core) = false →
        Performs i s c { s := x, w := triWrites act d fun _ => .u }) ∧
      (v = (c.g.srcB b ws 0 0).toNat → (c.g.waitMon = true ∨ x.monitorFree (coreDie c.t.core) = true) →
        exec i s = .next (((x.arm c (e.2.2.line x) v (some (d.toNat, act))).noticeStale c.gid e.2.2.loc 4 v).stallAt
          c.gid .monitor))))) ∧
  (∀ h hold d a b s c ws, Begins (.dwait h hold d a b) s c ws →
    let i : Instr := .dwait h hold d a b
    let act := c.g.active h.g
    (act = 0 → DoesNothing i s c) ∧
    (act ≠ 0 → CheckThen i s s c (onceFor · act) (s.checkAll c .dwait 16 16 [(0, address (c.g.num64 a 0))]) fun l =>
      ∀ e, l = [e] →
      let r := s.loadLines c [(0, 0, e.2.2)] none
      let x := r.1.raiseTide c.gid r.2.1
      let v := leNat (r.1.get r.2.2.2 e.2.2 16)
      let seq := v / 2 ^ 32 % 2 ^ 32 = (c.g.srcB b ws 0 0).toNat
      let flag (n : Nat) := (v / 2 ^ 96).testBit n
      (isLost e.2.2.loc = true → Performs i s c { s := x.dropMonitor c.gid, w := triWrites act d fun _ => .f }) ∧
      (isLost e.2.2.loc = false → (seq → flag 2 = true →
        Performs i s c { s := x.dropMonitor c.gid, w := triWrites act d fun _ => .f }) ∧
      (seq → flag 2 = false → (flag 0 = true ∨ flag 1 = true) →
        Performs i s c { s := x.dropMonitor c.gid, w := triWrites act d fun _ => .t }) ∧
      (¬(seq ∧ (flag 0 = true ∨ flag 1 = true ∨ flag 2 = true)) →
        (c.g.waitMon = false → x.monitorFree (coreDie c.t.core) = false →
          Performs i s c { s := x, w := triWrites act d fun _ => .u }) ∧
        (c.g.waitMon = true ∨ x.monitorFree (coreDie c.t.core) = true →
          exec i s = .next (((x.arm c (e.2.2.line x) v none).noticeStale c.gid e.2.2.loc 16 v).stallAt c.gid .monitor)))))) ∧
  (∀ (s : State) c line v p, s.group? c.gid = some c.g → c.g.waitMon = false →
    (s.arm c line v p).monitors = s.monitors ++ [⟨coreDie c.t.core, line, c.gid, v⟩] ∧
    (s.arm c line v p).group? c.gid = some { c.g with waitMon := true, waitPred := p }) ∧
  (∀ (s : State) gid loc n v, (s.natAt (s.fwd loc) n = v → s.noticeStale gid loc n v = s) ∧
    (s.natAt (s.fwd loc) n ≠ v → (s.noticeStale gid loc n v).notices = s.notices ++ [⟨gid, (s.lineAt (s.fwd loc / 128)).wts⟩] ∧
      (s.noticeStale gid loc n v).mem = s.mem ∧ (s.noticeStale gid loc n v).groups = s.groups))

/-- R97, R98: a pair word reads the operands of both halves before either writes; each half writes its destination in the lanes
that pass its guard, with the result of the full-word operation of its name. -/
def Obligations.PairWords : Prop :=
  (∀ b hi lo s c ws, Begins (.pairWord b hi lo) s c ws → ∃ t, exec (.pairWord b hi lo) s = .next t ∧
    Elsewhere s t c.gid ∧ ∃ g, t.group? c.gid = some g ∧ g.rest = c.g.rest ∧ g.pc = c.g.pc + 8 ∧
      g.s = c.g.s ∧ g.hs = c.g.hs ∧ g.p = c.g.p ∧ g.hp = c.g.hp ∧
      ∀ r l, l < 32 → g.getV r l =
        if (c.g.active lo.g).getLsbD l = true ∧ lo.d.toNat ≤ r ∧ r < lo.d.toNat + halfCnt lo then
          halfWord c.g lo l (r - lo.d.toNat)
        else vAfter c.g (c.g.active hi.g) (.v hi.d) (halfCnt hi) (halfWord c.g hi) r l) ∧
  (∀ (g : Group) (x : Half) l k, halfCnt x = (if x.op.interval then 2 else 1) ∧
    (x.op.interval = false → halfWord g x l k =
      let d := g.getV x.d.toNat l
      let a := g.src32 (pairSrc x.src) l
      match x.op with
      | .iadd => BitVec.ofNat 32 (d.toNat + a.toNat)
      | .isub => BitVec.ofInt 32 (d.toInt - a.toInt)
      | .and => maskOf fun i => d.getLsbD i && a.getLsbD i
      | .or => maskOf fun i => d.getLsbD i || a.getLsbD i
      | .xor => maskOf fun i => d.getLsbD i != a.getLsbD i
      | .shl => BitVec.ofNat 32 (if 32 ≤ a.toNat then 0 else d.toNat * 2 ^ a.toNat)
      | .shr => BitVec.ofNat 32 (if 32 ≤ a.toNat then 0 else d.toNat / 2 ^ a.toNat)
      | .sar => BitVec.ofInt 32 (d.toInt / 2 ^ min a.toNat 31)
      | .imin => BitVec.ofInt 32 (min d.toInt a.toInt)
      | .imax => BitVec.ofInt 32 (max d.toInt a.toInt)
      | .imul => BitVec.ofInt 32 (d.toInt * a.toInt)
      | _ => a) ∧
    (x.op.interval = true → halfWord g x l k =
      let d := g.ival .s (.v x.d) l
      let a := g.ival .s (pairSrc x.src) l
      ivWord .s (match x.op with
        | .fadd => d.add b32 a
        | .fsub => d.sub b32 a
        | .fmul => d.mul b32 a
        | .fmin => d.min a
        | .fmax => d.max a
        | .fhull => d.hull a
        | .fneg => a.neg
        | _ => a.abs) k))

/-! ## Engines, tiles, tasks, cells, coves, the distributor and the system -/

/-- R224 to R227: XCOPY and XFILL: the tag count and the descriptor's limits, the valid rows' addresses, an overlap of source and
destination, the tag, the range locks, then the operation with its transfers; a piece whose translation was lost is at no place
(R328). That the wait for a PENDING tag comes after the
checks of addresses is the model's choice (notes/assumptions/111), and which runs an operation of too many entries joins where
gaps are equal (notes/assumptions/44).
R197: the entries an operation registers: its ranges' runs of lines, at most 64; when they may be registered. R198: which access
a lock stops.
R199, R224, R226, R228: a row is moved in slots of 128 bytes; an operation that starts has its tag PENDING and holds its
locks; one that ends has its tag SET at its time, and its locks are released. -/
def Obligations.Engines : Prop :=
  (∀ (copy : Bool) o n, o.a = .s n → ∀ s c ws, let i : Instr := if copy then .xcopy o else .xfill o
    Begins i s c ws →
    let act := c.g.active o.h.g
    let D (k : Nat) : Nat := (c.g.getS (n.toNat + k)).toNat
    let fits := o.tag.toNat < c.pk.tags ∧ (D 0 + 2 ^ 32 * D 1) % 4 = 0 ∧ (copy = true → (D 2 + 2 ^ 32 * D 3) % 4 = 0) ∧
      D 4 % 4 = 0 ∧ 4 ≤ D 4 ∧ D 4 ≤ 1048576 ∧ 1 ≤ D 5 ∧ D 5 ≤ 65535 ∧ D 6 % 4 = 0 ∧ (copy = true → D 7 % 4 = 0)
    let rows := List.range (min (D 5) (c.g.src32 o.b 0).toNat)
    let at' (k m r : Nat) : Nat := address ((D k + 2 ^ 32 * D (k + 1) : Nat) + (c.g.getS (n.toNat + m)).toInt * r)
    let dr := rows.map fun r => Range.mk (if copy then .xdst else .xfill) (at' 0 6 r) (D 4)
    let sr := if copy then rows.map fun r => Range.mk .xsrc (at' 2 7 r) (D 4) else []
    let dp := dr.map (s.placesOf c)
    let sp := sr.map (s.placesOf c)
    let meet := ∃ x ∈ heldPlaces dp, ∃ y ∈ heldPlaces sp, x.1 < y.1 + y.2 ∧ y.1 < x.1 + x.2
    let need := lockNeed (heldPlaces dp) (heldPlaces sp)
    let todo := if copy then (dp.zip sp).flatMap fun e => rowMoves (D 4) 0 e.1 e.2
      else dp.flatMap fun d => rowFills (D 4) 0 (c.g.getS (n.toNat + 2)) d
    (act = 0 → DoesNothing i s c) ∧
    (act ≠ 0 → ¬fits → RefusesOperand i s c act) ∧
    (act ≠ 0 → fits → RangesThen i s s c act (s.checkRanges c (dr ++ sr)) (
      (meet → RefusesOperand i s c act) ∧
      (¬meet → TagThen i s s c act o.tag.toNat (
        (s.mayLock need = false → Waits i s c (.rangelock need [])) ∧
        (s.mayLock need = true → Performs i s c
          { s := s.startOp c o.tag.toNat (if copy then .copy else .fill) todo ((dr ++ sr).flatMap (s.ownsTlb c)) need }))))
      (if (c.t.tag o.tag.toNat).st = .pending then .tagIssue o.tag.toNat else .translate))) ∧
  (∀ (s : State) write loc size, s.locked write loc size = true ↔ ∃ k ∈ s.locks, (k.dst = true ∨ write = true) ∧
    k.first ≤ (loc + size - 1) / 128 ∧ loc / 128 ≤ k.last) ∧
  (∀ (s : State) need reads, s.mayLock need reads = true ↔ s.locks.length + need.length ≤ 512 ∧
    ∀ n ∈ need ++ reads, ∀ k ∈ s.locks, (n.1 = true ∨ k.dst = true) → n.2.2 < k.first ∨ k.last < n.2.1) ∧
  (∀ dst src, (∀ e ∈ dst ++ src, 0 < e.2) → (lockNeed dst src).length ≤ 64 ∧
    (∀ x ∈ lockNeed dst src, x.2.1 ≤ x.2.2) ∧
    (∀ isDst : Bool, ∀ e ∈ (if isDst then dst else src), ∃ x ∈ lockNeed dst src, x.1 = isDst ∧ x.2.1 ≤ e.1 / 128 ∧
      (e.1 + e.2 - 1) / 128 ≤ x.2.2) ∧
    ((runsOf dst).length + (runsOf src).length ≤ 64 → ∀ x ∈ lockNeed dst src, ∀ line, x.2.1 ≤ line → line ≤ x.2.2 →
      ∃ e ∈ (if x.1 then dst else src), e.1 / 128 ≤ line ∧ line ≤ (e.1 + e.2 - 1) / 128)) ∧
  ((∀ d a n w, rowMoves n 0 [(d, n)] [(a, n)] =
      ((List.range ((n + 127) / 128)).map fun k => ⟨some (a + 128 * k), d + 128 * k, min 128 (n - 128 * k), 0⟩) ∧
    rowFills n 0 w [(d, n)] =
      (List.range ((n + 127) / 128)).map fun k => ⟨none, d + 128 * k, min 128 (n - 128 * k), w⟩) ∧
  (∀ (s : State) c tag kind todo pages need, s.team? c.g.team = some c.t → ∃ t,
    (s.startOp c tag kind todo pages need).team? c.g.team = some t ∧ (t.tag tag).st = .pending ∧
    (∀ n, n ≠ tag → t.tag n = c.t.tag n) ∧ (s.startOp c tag kind todo pages need).mem = s.mem ∧
    (s.startOp c tag kind todo pages need).locks = s.locks ++ need.map fun n => ⟨s.nextId, n.1, n.2.1, n.2.2⟩) ∧
  (∀ (s : State) i o dense t, s.team? o.team = some t → ∃ t',
    (s.endOp i o dense).team? o.team = some t' ∧ (t'.tag o.tag).st = .set ∧ (t'.tag o.tag).time = o.time ∧
    (t'.tag o.tag).denses = (t.tag o.tag).denses ++ (if dense then [(s.group? o.group).map Group.idx] else []) ∧
    (∀ n, n ≠ o.tag → t'.tag n = t.tag n) ∧
    (∀ k, k ∈ (s.endOp i o dense).locks ↔ k ∈ s.locks ∧ k.op ≠ o.id) ∧ (s.endOp i o dense).mem = s.mem))

/-- R229, R230: XWAIT, XTEST and XCLEAR. -/
def Obligations.TagWords : Prop :=
  (∀ h d a all s c ws, Begins (.xwait h d a all) s c ws →
    let i : Instr := .xwait h d a all
    let act := c.g.active h.g
    let m := c.g.src64 a 0
    let some' (st : TagState) : Prop := ∃ n < 64, masked c m n ∧ (c.t.tag n).st = st
    let every : Prop := m ≠ 0 ∧ ∀ n < 64, m.getLsbD n = true → masked c m n ∧ (c.t.tag n).st = .set
    let ends (v : Tri) : Prop := NoDense c m → ∃ p, Performs i s c p ∧ p.w = (triWrites act d fun _ => v) ∧
      (∃ T, p.s = s.raiseTide c.gid T ∧ (∀ n, masked c m n → (c.t.tag n).st = .set → (c.t.tag n).time ≤ T) ∧
        (T = 0 ∨ ∃ n, masked c m n ∧ (c.t.tag n).st = .set ∧ (c.t.tag n).time = T))
    (act = 0 → DoesNothing i s c) ∧
    (act ≠ 0 → all = false → some' .set → ends .t) ∧
    (act ≠ 0 → all = false → ¬some' .set → ¬some' .pending → ends .f) ∧
    (act ≠ 0 → all = true → every → ends .t) ∧
    (act ≠ 0 → all = true → ¬some' .pending → ¬every → ends .f) ∧
    (act ≠ 0 → some' .pending → (all = true ∨ ¬some' .set) → Waits i s c (.tagWait m all))) ∧
  (∀ h d a s c ws, Begins (.xtest h d a) s c ws →
    let i : Instr := .xtest h d a
    let act := c.g.active h.g
    let m := c.g.src64 a 0
    (act = 0 → DoesNothing i s c) ∧
    (act ≠ 0 → (∀ n < 64, masked c m n → (c.t.tag n).st ≠ .set) →
      Performs i s c { s := s, w := dstWrites act d 1 fun _ _ => 64 }) ∧
    (∀ n < 64, act ≠ 0 → masked c m n → (c.t.tag n).st = .set → (c.t.tag n).denseFor c.g.idx = false →
      (∀ k < n, masked c m k → (c.t.tag k).st ≠ .set) →
      Performs i s c { s := s.raiseTide c.gid (c.t.tag n).time, w := dstWrites act d 1 fun _ _ => BitVec.ofNat 32 n })) ∧
  (∀ h a s c ws, Begins (.xclear h a) s c ws →
    (c.g.active h.g = 0 → DoesNothing (.xclear h a) s c) ∧
    (c.g.active h.g ≠ 0 → ∃ x t, Performs (.xclear h a) s c { s := x } ∧ { x with teams := s.teams } = s ∧
      x.team? c.g.team = some t ∧ { t with tags := c.t.tags } = c.t ∧
      ∀ n < 64, t.tag n = if (c.g.src64 a 0).getLsbD n = true ∧ n < c.pk.tags ∧ (c.t.tag n).st = .set then
        { c.t.tag n with st := .clear } else c.t.tag n))

/-- R241 to R254: each matrix word completes by entering its core's engine, where each operation is performed in order: MMA, MMAX,
ZCLR, ZPUT and ZLD write their tile, ZGET its registers, ZST memory and SCLD its slot.
R249: an operation that starts reads its fragments.
R239, R245, R246, R251 to R254: what the engine makes of tiles and slots: ZCLR clears every element; ZPUT converts every element
and writes the active lanes' from their registers; ZLD reads each element, ZST and ZGET convert it; other tiles stay. How the
reads and writes of ZLD, ZST and SCLD are placed in time is the model's reading (notes/assumptions/47). -/
def Obligations.MatrixWords : Prop :=
  ((∀ (x : Bool) o, let i : Instr := if x then .mmax o else .mma o
    (∀ s c ws, Begins i s c ws → (c.g.active o.h.g = 0 → DoesNothing i s c) ∧
    (c.g.active o.h.g ≠ 0 →
      let n := depBytes o.dep / 16 + if x then mmaK o.fmt (depBytes o.dep) / 4 else 0
      Enters i s c (c.g.active o.h.g) s [] [] 0 ((List.range n).map (vBase o.a + ·) ++ (List.range n).map (vBase o.b + ·))
        true true false)) ∧ Performed i (MakesTeam fun op t => t.mmaTile x o op.frags)) ∧
  (∀ h z w, let i : Instr := .zclr h z w
    (∀ s c ws, Begins i s c ws → (c.g.active h.g = 0 → DoesNothing i s c) ∧
    (c.g.active h.g ≠ 0 → Enters i s c (c.g.active h.g) s [] [] 0 [] false false false)) ∧
    Performed i (MakesTeam fun _ t => t.setTile z.toNat w fun _ => .point 0)) ∧
  (∀ h la d z w, let i : Instr := .zget h la d z w
    (∀ s c ws, Begins i s c ws → (c.g.active h.g = 0 → DoesNothing i s c) ∧
    (c.g.active h.g ≠ 0 → Enters i s c (c.g.active h.g) s [] [] 0 [] true false false)) ∧
    Performed i fun op c y u => u.mem = y.mem ∧ u.teams = y.teams ∧ ∀ g n p, y.group? op.group = some g → op.pend = some n →
      (g.pends.find? fun p => p.id == n && !p.done) = some p → ∃ g', u.group? op.group = some g' ∧
        ∀ r l, l < 32 → g'.getV r l = vAfter g op.active (.v d) (2 * ivWords w) (fun l k =>
          ivWord w ((c.t.tileElem z.toNat (2 * l + k / ivWords w)).conv (fmtOf w)) (k % ivWords w)) r l) ∧
  (∀ h z n w, let i : Instr := .zput h z (.v n) w
    (∀ s c ws, Begins i s c ws → (c.g.active h.g = 0 → DoesNothing i s c) ∧
    (c.g.active h.g ≠ 0 → Enters i s c (c.g.active h.g) s [] [] 0 ((List.range (2 * ivWords w)).map (n.toNat + ·))
      false false false)) ∧
    Performed i (MakesTeam fun op t => t.zputTile op.active z.toNat n.toNat w op.frags)) ∧
  (∀ h slot hold b, let i : Instr := .scld h slot (.scale hold b)
    (∀ s c ws, Begins i s c ws → (c.g.active h.g = 0 → DoesNothing i s c) ∧
    (c.g.active h.g ≠ 0 → Enters i s c (c.g.active h.g) s [] [] (c.g.src32 b 0) [] false false false))) ∧
  (∀ i h a bytes x long, (∃ la z w, i = .zld h la z a w ∧ bytes = 256 * ivWords w ∧ long = true ∧ x = fun _ => 0) ∨
      (∃ slot hold b, i = .scld h slot (.all hold a b) ∧ bytes = 1024 ∧ long = false ∧ x = fun c : Ctx => c.g.src32 b 0) ∨
      (∃ slot, i = .scld h slot (.aexp a) ∧ bytes = 512 ∧ long = false ∧ x = fun _ => 0) ∨
      (∃ slot, i = .scld h slot (.bexp a) ∧ bytes = 512 ∧ long = false ∧ x = fun _ => 0) →
    ∀ s c ws, Begins i s c ws → (c.g.active h.g = 0 → DoesNothing i s c) ∧
    (c.g.active h.g ≠ 0 → let full := 8 ≤ (s.coreAt c.t.core).engine.length
      CheckThen i s s c (onceFor · (c.g.active h.g)) (s.checkAll c .zread 128 128
        ((List.range (bytes / 128)).map fun k => (k, address (c.g.num64 a 0 + 128 * k)))) (fun l =>
        let r := s.lineWords c l
        (full → Waits i s c .engine) ∧
        (¬full → (r.1.coreAt c.t.core).engine.length < 8 → Enters i s c (c.g.active h.g)
          (if long then r.1 else r.1.holdReplies c.gid s.replies.length) [] r.2 (x c) [] long false false))
        (if full then .engine else .translate))) ∧
  (∀ h la z a w, Performed (.zld h la z a w) (MakesTeam fun op t => t.zldTile z.toNat w op.frags)) ∧
  (∀ h slot part, Performed (.scld h slot part) (MakesTeam fun op t => t.scldSlot slot.toNat part op.frags op.x)) ∧
  (∀ h z a w, let i : Instr := .zst h z a w
    (∀ s c ws, Begins i s c ws → (c.g.active h.g = 0 → DoesNothing i s c) ∧
    (c.g.active h.g ≠ 0 → let full := 8 ≤ (s.coreAt c.t.core).engine.length
      CheckThen i s s c (onceFor · (c.g.active h.g)) (s.checkAll c .zwrite 128 128
        ((List.range (2 * ivWords w)).map fun k => (k, address (c.g.num64 a 0 + 128 * k)))) (fun l =>
        Enters i s c (c.g.active h.g) s (l.map fun e => e.2.2.loc) [] 0 [] false false true)
        (if full then .engine else .translate))) ∧
    Performed i fun op c y u => u.teams = y.teams ∧ (Settled y → (∀ loc ∈ op.locs, loc < 2 ^ 52 ∧ loc % 128 = 0) →
      op.locs.Nodup → op.locs.length = 2 * ivWords w →
      (∀ e < 64, ∀ k < ivWords w, ∀ loc, op.locs[(ivWords w * e + k) / 32]? = some loc →
        u.natAt (loc + 4 * ((ivWords w * e + k) % 32)) 4 = (ivWord w ((c.t.tileElem z.toNat e).conv (fmtOf w)) k).toNat) ∧
      ∀ p, (∀ loc ∈ op.locs, p < loc ∨ loc + 128 ≤ p) → u.byteAt p = y.byteAt p)) ∧
  (∀ (y : State) core op rest g, (y.coreAt core).engine = op :: rest → op.started = false → y.group? op.group = some g →
    ∃ u op', exec (.matrixOpStart core) y = .next u ∧ (u.coreAt core).engine = op' :: rest ∧ op'.started = true ∧
      op'.word = op.word ∧ op'.group = op.group ∧ u.mem = y.mem ∧ (startRegs op.word = [] → op'.frags = op.frags) ∧
      (∀ n ∈ startRegs op.word, ∀ l < 32, sget 0 op'.frags (32 * n + l) = g.getV n l)) ∧
  (∀ (s : State) c l, Plain s l → (∀ e ∈ l, e.2.2.atHome = true ∧ ∃ loc t, e.2.2 = .mem loc t ∧
      ∀ i < 128, s.inCarve (loc + i) = true) →
    let bs := l.flatMap fun e => (List.range 128).map fun i => s.byteAt (s.fwd (e.2.2.loc + i))
    (s.lineWords c l).2 = (List.range (bs.length / 4)).map fun k => (k, BitVec.ofNat 32 (leNat ((bs.drop (4 * k)).take 4)))) ∧
  (∀ (t : Team) (z : Nat) (w : FW), z < 64 →
    let clear := t.setTile z w fun _ => Ival.point 0
    (clear.tileFw z = w ∧ ∀ e < 64, clear.tileElem z e = .mk (.fin 0) (.fin 0)) ∧
    (∀ act base fr e, e < 64 → let put := t.zputTile act z base w fr
      put.tileFw z = w ∧ (act.getLsbD (e / 2) = true → put.tileElem z e =
        ivOfWords w fun k => sget 0 fr (32 * (base + ivWords w * (e % 2) + k) + e / 2)) ∧
      (act.getLsbD (e / 2) = false → put.tileElem z e = (t.tileElem z e).conv (fmtOf w))) ∧
    (∀ fr e, e < 64 → (t.zldTile z w fr).tileFw z = w ∧
      (t.zldTile z w fr).tileElem z e = ivOfWords w fun k => sget 0 fr (ivWords w * e + k)) ∧
    (∀ f y, y < 64 → y ≠ z → (t.setTile z w f).tileFw y = t.tileFw y ∧
      ∀ e < 64, (t.setTile z w f).tileElem y e = t.tileElem y e)) ∧
  (∀ (t : Team) n fr x, n < 8 → let byte (k : Nat) := (sget 0 fr (k / 4)).toNat / 2 ^ (8 * (k % 4)) % 2 ^ 8
    (∀ hold a b, let u := t.scldSlot n (.all hold a b) fr x
      u.scaleWord n = x ∧ ∀ k < 1024, u.expByte n k = byte k) ∧
    (∀ a, let u := t.scldSlot n (.aexp a) fr x
      u.scaleWord n = t.scaleWord n ∧ ∀ k < 1024, u.expByte n k = if k < 512 then byte k else t.expByte n k) ∧
    (∀ a, let u := t.scldSlot n (.bexp a) fr x
      u.scaleWord n = t.scaleWord n ∧ ∀ k < 1024, u.expByte n k = if k < 512 then t.expByte n k else byte (k - 512)) ∧
    (∀ hold b, let u := t.scldSlot n (.scale hold b) fr x
      u.scaleWord n = x ∧ ∀ k < 1024, u.expByte n k = t.expByte n k) ∧
    (∀ part m, m ≠ n → let u := t.scldSlot n part fr x
      u.scaleWord m = t.scaleWord m ∧ ∀ k < 1024, u.expByte m k = t.expByte m k)))

/-- R51, R246, R247: whatever reals the old element, the operands' elements and the scale hold, the new element holds their
multiply-accumulate. -/
def Obligations.MatrixEncloses : Prop :=
  ∀ (t : Team) (x : Bool) (o : OpMma) (fr : Store Word) e, e < 64 →
    let tf := fmtOf (t.tileFw o.z.toNat)
    let slot := o.slot.toNat
    let A := operandRow x tf o fr (fun b => t.expByte slot (64 * (e / 8) + b)) (vBase o.a) (e / 8)
    let B := operandRow x tf o fr (fun b => t.expByte slot (512 + 64 * (e % 8) + b)) (vBase o.b) (e % 8)
    let K := mmaK o.fmt (depBytes o.dep)
    ∀ (z σ : Rat) (a b : Nat → Rat), (t.tileElem o.z.toNat e).has z →
      (Ival.ofPt tf (b32.dec (t.scaleWord slot).toNat)).has σ →
      (∀ p < K, (A.getD p .empty).has (a p) ∧ (B.getD p .empty).has (b p)) →
      ((t.mmaTile x o fr).tileElem o.z.toNat e).has (z + ((List.range K).map fun p => a p * b p * σ).sum)

/-- R163 to R172: the fork words of a grid with a pool; without one they raise Illegal Instruction.
R164, R171, R173: an end of tasks clears H and subtracts from the live count once; a push adds to it.
R168: SPLIT bisects the frame: the lane keeps the lower half, the task pushed is the upper one with the rest of the frame.
R40, R170: each active lane of TAKE, ascending, receives the newest task of the site; lanes left without one read the live
count. Which entry a push takes is the model's choice (notes/assumptions/36, 107). -/
def Obligations.ForkWords : Prop :=
  (∀ i h, ((∃ d site, i = .split h d site) ∨ (∃ d a site, i = .spawn h d a site) ∨ (∃ d site, i = .take h d site) ∨
      i = .tend h ∨ ∃ d sel, i = .poolq h d sel) → ∀ s c ws, Begins i s c ws →
    (c.g.active h.g = 0 → DoesNothing i s c) ∧
    (c.g.active h.g ≠ 0 → c.pk.poolEnt = 0 →
      Traps i s c { cause := .illegalInstruction, lanes := some (c.g.active h.g) })) ∧
  (∀ i h, ∀ s c ws, Begins i s c ws → c.g.active h.g ≠ 0 → c.pk.poolEnt ≠ 0 → ∀ (l : List Push) (w : List Nat → Writes),
    ((∃ d site, i = .split h d site ∧ l = splitPushes c (c.g.active h.g) site.toNat ∧ w = splitWrites c (c.g.active h.g) d) ∨
      (∃ d a site, i = .spawn h d a site ∧ l = ((lanesOf (c.g.active h.g)).map fun l =>
          (l, taskBytes site.toNat (c.g.frame (spawnReg a) c.pk.poolN l))) ∧
        w = fun made => triWrites (c.g.active h.g) d fun l => if l ∈ made then .t else .f)) →
    let n := pushCount (c.pk.poolEnt - c.t.resvPool) l.length c.t.pool.length (c.t.spillFree c.pk)
    (c.pk.pxen = true → n < l.length →
      Traps i s c { cause := .poolExhausted, lanes := some (c.g.active h.g) }) ∧
    (c.pk.pxen = false ∨ l.length ≤ n →
      (0 < n → c.t.poolFree c.pk = 0 → c.g.poolTry = false → Waits i s c .pool) ∧
      (n = 0 ∨ c.t.poolFree c.pk ≠ 0 ∨ c.g.poolTry = true →
        (∀ t, s.doPushes c (l.take n) = .error t → Traps i s c (onceFor t (c.g.active h.g))) ∧
        (∀ s', s.doPushes c (l.take n) = .ok s' → ∃ p, Performs i s c p ∧ p.s = s' ∧
          p.w = w ((l.take n).map Prod.fst)))) ∧
    (l.length ≤ c.t.poolFree c.pk → Settled s →
      (l = [] → ∃ p, Performs i s c p ∧ p.s = s ∧ p.w = w []) ∧
      ∀ x m loc, l ≠ [] → s.hwTr 2 c.pk.arena.toNat c.g.tide = .ok (x, m, loc) → loc + 8 ≤ 2 ^ 52 →
        ∃ t p u, exec i s = .next t ∧ Performs i s c p ∧ p.w = w (l.map Prod.fst) ∧ t.team? c.g.team = some u ∧
          t.natAt loc 8 = (s.natAt loc 8 + l.length) % 2 ^ 64 ∧
          u.pool.take c.t.pool.length = c.t.pool ∧ u.pool.length = c.t.pool.length + l.length ∧
          ((c.t.pool.map PoolEnt.ent).Nodup → (u.pool.map PoolEnt.ent).Nodup) ∧
          ((∀ q ∈ l, q.2.length ≤ c.pk.entryBytes) → ∀ k (e : PoolEnt) (q : Push), u.pool[c.t.pool.length + k]? = some e → l[k]? = some q →
            ∀ b < q.2.length, t.byteAt (c.t.poolAt c.pk e.ent + b) = q.2.getD b 0))) ∧
  (∀ h d site s c ws, Begins (.split h d site) s c ws → c.pk.poolEnt ≠ 0 → c.pk.poolFb + c.pk.poolN ≤ 256 → Settled s →
    let act := c.g.active h.g
    let cut (l : Nat) := halves (frameIval c.g c.pk.poolFb l)
    act ≠ 0 → (splitPushes c act site.toNat).length ≤ c.t.poolFree c.pk →
      (∃ r, s.hwTr 2 c.pk.arena.toNat c.g.tide = .ok r) →
      ∃ t g, exec (.split h d site) s = .next t ∧ t.group? c.gid = some g ∧ g.pc = c.g.pc + 8 ∧ g.h = c.g.h ∧
        (∀ r l, l < 32 → g.getV r l = match cut l with
          | some x => if act.getLsbD l = true ∧ c.pk.poolFb ≤ r ∧ r < c.pk.poolFb + 4 then ivWord .d x.1 (r - c.pk.poolFb)
              else c.g.getV r l
          | none => c.g.getV r l) ∧
        (∀ bank k l, l < 32 → g.pCell bank k l =
          pAfter c.g act d.toNat (fun l => triCode (if (cut l).isSome then .t else .u)) bank k l)) ∧
  (∀ c act site l bs, (l, bs) ∈ splitPushes c act site ↔ act.getLsbD l = true ∧ l < 32 ∧
    ∃ a b, halves (frameIval c.g c.pk.poolFb l) = some (a, b) ∧
      bs = leBytes 4 site ++ leWords ((List.range 4).map (ivWord .d b) ++
        ((List.range c.pk.poolN).map fun k => c.g.getV (c.pk.poolFb + k) l).drop 4)) ∧
  (∀ x a b, halves x = some (a, b) ↔ ∃ lo hi m, x = .mk lo hi ∧ x.mid b64 = .num m ∧ m ≠ lo ∧ m ≠ hi ∧
    a = .mk lo m ∧ b = .mk m hi) ∧
  (∀ (s : State) h t pk bs tide, s.team? h = some t → ∃ k, (∀ e ∈ t.pool, PoolEnt.ent e ≠ k) ∧
    ((s.pushTask h pk bs tide).1.team? h).map Team.pool = some (t.pool ++ [⟨k, (s.pushTask h pk bs tide).2, siteOf bs⟩]) ∧
    (Settled s → (∀ i < bs.length, (s.pushTask h pk bs tide).1.byteAt (t.poolAt pk k + i) = bs.getD i 0) ∧
      ∀ a, (a < t.poolAt pk k ∨ t.poolAt pk k + bs.length ≤ a) → (s.pushTask h pk bs tide).1.byteAt a = s.byteAt a)) ∧
  (∀ (s : State) h t pk site tide, s.team? h = some t → t.pool.Nodup →
    ((∀ e ∈ t.pool, s.poolSite t pk e ≠ site) → s.popTask h pk site tide = none) ∧
    (∀ a e b, t.pool = a ++ e :: b → s.poolSite t pk e = site → (∀ x ∈ b, s.poolSite t pk x ≠ site) →
      ∃ k u, s.popTask h pk site tide = some (k, u) ∧ (u.team? h).map Team.pool = some (a ++ b) ∧
        max tide e.time ≤ k.time ∧ (Settled s → k.bytes = s.bytesAt (t.poolAt pk e.ent) pk.entryBytes))) ∧
  (∀ (s : State) h t pk tide n x m, s.team? h = some t → n ≤ t.pool.length → s.spillTasks h pk tide n = .ok (x, m) →
    ∃ u new, x.team? h = some u ∧ u.pool = t.pool.drop n ∧ u.spill = t.spill ++ new ∧ new.length = n ∧
      ((t.spill.map PoolEnt.ent).Nodup → (u.spill.map PoolEnt.ent).Nodup)) ∧
  (∀ h d site s c ws, Begins (.take h d site) s c ws → c.g.active h.g ≠ 0 → c.pk.poolEnt ≠ 0 →
    (∀ k, s.takeWait c site.toNat = some k → Waits (.take h d site) s c k) ∧
    (s.takeWait c site.toNat = none →
      (∀ p, s.takeAct c (c.g.active h.g) d site.toNat = .ok p → Performs (.take h d site) s c p) ∧
      (∀ t, s.takeAct c (c.g.active h.g) d site.toNat = .error t →
        Traps (.take h d site) s c (onceFor t (c.g.active h.g))))) ∧
  (∀ h s c ws, Begins (.tend h) s c ws → c.g.active h.g ≠ 0 → c.pk.poolEnt ≠ 0 →
    (∀ x, s.endTasks c (c.g.active h.g) = .ok x → Performs (.tend h) s c { s := x }) ∧
    (∀ t, s.endTasks c (c.g.active h.g) = .error t → Traps (.tend h) s c (onceFor t (c.g.active h.g)))) ∧
  (∀ h s c ws, Begins (.tend h) s c ws → c.pk.poolEnt ≠ 0 → Settled s →
    let ends := c.g.active h.g &&& c.g.h
    (ends = 0 → DoesNothing (.tend h) s c) ∧
    ∀ x m loc, ends ≠ 0 → s.hwTr 2 c.pk.arena.toNat c.g.tide = .ok (x, m, loc) →
      ∃ t g, exec (.tend h) s = .next t ∧ t.group? c.gid = some g ∧ g.h = c.g.h &&& ~~~ends ∧ g.regs = c.g.regs ∧
        g.mask = c.g.mask ∧ g.live = c.g.live ∧ g.pc = c.g.pc + 8 ∧
        (t.natAt loc 8 : Int) = ((s.natAt loc 8 : Int) - popcount ends) % 2 ^ 64 ∧
        ∀ a, (a < loc ∨ loc + 8 ≤ a) → t.byteAt a = s.byteAt a) ∧
  (∀ h d site s c ws, Begins (.take h d site) s c ws → c.pk.poolEnt ≠ 0 → Settled s →
    let act := c.g.active h.g
    let mine := c.t.pool.reverse.filter fun e => s.poolSite c.t c.pk e == site.toNat
    act ≠ 0 → c.pk.poolFb + c.pk.poolN ≤ 256 →
    (c.t.pool.Nodup → (lanesOf act).length ≤ mine.length →
      (act &&& c.g.h = 0 ∨ ∃ x m loc, s.hwTr 2 c.pk.arena.toNat c.g.tide = .ok (x, m, loc) ∧ loc + 8 ≤ 2 ^ 52) →
      ∃ t g u, exec (.take h d site) s = .next t ∧ t.group? c.gid = some g ∧ t.team? c.g.team = some u ∧
        g.h = c.g.h ||| act ∧ g.pc = c.g.pc + 8 ∧
        u.pool = c.t.pool.filter (fun e => !((mine.take (lanesOf act).length).contains e)) ∧
        (∀ bank k l, l < 32 → g.pCell bank k l = pAfter c.g act d.toNat (fun _ => triCode .t) bank k l) ∧
        ∀ (n l : Nat) (e : PoolEnt), (lanesOf act)[n]? = some l → mine[n]? = some e → ∀ k < c.pk.poolN,
          g.getV (c.pk.poolFb + k) l = frameWord (s.bytesAt (c.t.poolAt c.pk e.ent) c.pk.entryBytes) k) ∧
    (∀ x m loc, act &&& c.g.h = 0 → mine = [] → c.t.poolFree c.pk ≠ 0 →
      (∀ e ∈ c.t.spill, s.spillSite c.t c.pk e ≠ site.toNat) → s.hwTr 0 c.pk.arena.toNat c.g.tide = .ok (x, m, loc) →
      ∃ t g, exec (.take h d site) s = .next t ∧ t.group? c.gid = some g ∧ g.h = c.g.h ∧ g.pc = c.g.pc + 8 ∧ g.v = c.g.v ∧
        t.mem = s.mem ∧ ∀ bank k l, l < 32 → g.pCell bank k l = pAfter c.g act d.toNat (fun _ =>
          triCode (if s.natAt loc 8 = 0 then .u else .f)) bank k l)) ∧
  (∀ h d sel s c ws, Begins (.poolq h d sel) s c ws → c.pk.poolEnt ≠ 0 → ∃ t, exec (.poolq h d sel) s = .next t ∧
    Wrote s t c (c.g.active h.g) d 1 fun _ _ => BitVec.ofNat 32 (match sel with
      | .tasks => c.t.pool.length
      | .spilled => c.t.spill.length
      | .cap => c.pk.poolEnt
      | .spillCap => c.pk.spillEnt
      | .steals => c.t.steals.toNat
      | .poolSite k => (s.poolSites c.t c.pk).count k.toNat
      | .spillSite k => (s.spillSites c.t c.pk).count k.toNat)) ∧
  (∀ g fb l a b, halves (frameIval g fb l) = some (a, b) → ∀ q, (frameIval g fb l).has q ↔ a.has q ∨ b.has q)

/-- R259: the outcomes of the four operations on a cell, by its generation and state.
R11: a cell that SEAL decides keeps its reserved bits.
R260 to R267: the seal words: the checks of their lanes, or of the lowest one where every source is uniform, then the
operations at the home, or the request to another package. That such an access
ends a bump that holds its cell, the lost lines that it meets, and what a lane receives whose translation is lost, are the model's
readings (notes/assumptions/116, 120, 142). -/
def Obligations.CellsAndSeals : Prop :=
  (∀ (img h winner : Nat) v, h < 2 ^ 16 →
    let g := img / 2 ^ 48 % 2 ^ 16
    let sealed := img / 2 ^ 46 % 4 ≠ 0
    let value : DWord := BitVec.ofNat 64 (img / 2 ^ 64)
    let opened (k x : Nat) : Prop := x / 2 ^ 48 % 2 ^ 16 = k ∧ x % 2 ^ 48 = 0 ∧ x / 2 ^ 64 = 0
    (g = h → ¬sealed → ∃ x, cellOp (.seal v) h winner img = { tri := .t, new := some x, grant := true } ∧
      x / 2 ^ 64 = v.toNat ∧ x / 2 ^ 48 % 2 ^ 16 = g ∧ x / 2 ^ 46 % 4 = 1 ∧ x / 2 ^ 14 % 2 ^ 32 = winner % 2 ^ 32 ∧
      x % 2 ^ 14 = img % 2 ^ 14) ∧
    (g = h → sealed → cellOp (.seal v) h winner img = { tri := .f, val := some value, grant := true } ∧
      cellOp .peek h winner img = { tri := .t, val := some value, grant := true }) ∧
    (g = h → ¬sealed → cellOp .peek h winner img = { tri := .f }) ∧
    (g ≠ h → cellOp (.seal v) h winner img = { tri := .u } ∧ cellOp .peek h winner img = { tri := .u }) ∧
    (sealed → g = h → ∃ x, (cellOp .reopen h winner img).tri = .t ∧ (cellOp .reopen h winner img).new = some x ∧
      opened ((h + 1) % 2 ^ 16) x ∧ ((cellOp .reopen h winner img).bump = true ↔ h + 1 = 2 ^ 16 ∨ h + 1 = 0x8000)) ∧
    (¬(sealed ∧ g = h) → cellOp .reopen h winner img = { tri := .f }) ∧
    (∃ x, (cellOp .cinit h winner img).new = some x ∧ opened h x ∧
      ((cellOp .cinit h winner img).bump = true ↔ sealed ∨ g ≠ h))) ∧
  (∀ i h a gen val (holds : Bool),
    ((∃ o, i = .seal o ∧ h = o.h ∧ a = o.a ∧ gen = o.c ∧ holds = false ∧ val = fun g n => g.image o.b true 0 n) ∨
      (∃ o, i = .peek o ∧ h = o.h ∧ a = o.a ∧ gen = o.c ∧ holds = false ∧ val = fun _ _ => 0) ∨
      (∃ la hold d, i = .reopen h la hold d a gen ∧ holds = false ∧ val = fun _ _ => 0) ∨
      (∃ hold, i = .cinit h hold a gen ∧ holds = true ∧ val = fun (_ : Group) (_ : Nat) => 0)) →
    ∀ s c ws, Begins i s c ws →
    let act := c.g.active h.g
    let once := sealOnce i
    (act = 0 → DoesNothing i s c) ∧
    (act ≠ 0 → CheckThen i s s c (fun t => if once then onceFor t act else t)
        (s.checkAll c .seal 16 16 ((if once then [lowLane act] else lanesOf act).map fun l => (l, address (c.g.num64 a l))))
      fun l =>
      let held := l.filter fun e => !(isLost e.2.2.loc)
      let gone := l.filter fun e => isLost e.2.2.loc
      let acts := held.map fun e => LaneAct.mk e.1 e.2.2.loc (val c.g e.1) ((c.g.src32 gen e.1).toNat % 2 ^ 16)
      let pend := if holds then none else some s.nextId
      let x := s.newId.2
      let r := x.sealRun (some c.t.core) (sealKind i) (winnerOf s c) c.g.lease.toNat c.g.tide acts (some c.gid) pend holds
      ((∃ e ∈ held, isRemote e.2.2 = true) → Performs i s c
        { s := x.sendRemote c act i held acts pend, outstanding := 1, pend := s.nextId, remote := true }) ∧
      ((∀ e ∈ held, isRemote e.2.2 = false) → Performs i s c
        (let y := (r.1.raiseTide c.gid r.2.1).modGroup c.gid fun g =>
            { g with xfers := g.xfers + if holds then bumpCount x r.2.2 else 0 }
         let reached := held.filter fun e => r.2.2.any fun z => z.lane == e.1 && z.copied.isNone
         { s := (firstTouch y reached).foldl (fun s p => (s.hear c.t.core p.loc).poisonCheck c p.loc) y,
           lines := reached.map fun e => (e.1, e.2.2.loc / 128),
           w := sealWrites i act once (r.2.2 ++ gone.map lostStep), outstanding := bumpCount x r.2.2, pend := s.nextId }))))

/-- R269, R276 to R283: the cove words: their slot, its current translations, their checks, then their effect; with a loaded slot
whose translations are current, and operands that pass, each completes.
R271, R279: a signature has a bit for each projection, set where its sum is above zero; an append to a bucket whose last block
has room writes that block's count and the token, and no other byte of memory. The order of KTABLE's checks, what the next use of a stale
slot does, that sign matrices are read through the constant cache, that a gather of no table checks the 4 bytes at DEST, and a slot
whose descriptor is lost, are the model's readings (notes/assumptions/51, 52, 53, 134, 142). -/
def Obligations.Coves : Prop :=
  ((∀ h slot a s c ws, Begins (.ktable h slot a) s c ws →
    let i : Instr := .ktable h slot a
    let act := c.g.active h.g
    (act = 0 → DoesNothing i s c) ∧
    (act ≠ 0 → CheckThen i s s c (onceFor · act) (s.checkAll c (.key false) 128 128 [(0, address (c.g.num64 a 0))]) fun l =>
      let r := s.loadLines c l none
      let x : CoveSlot := { addr := c.g.src64 a 0, image := l.flatMap fun e => r.1.get r.2.2.2 e.2.2 128 }
      let gone := ∃ e ∈ l, isLost e.2.2.loc = true
      (gone → Performs i s c { s := s.setCove c.g.team slot.toNat {}, endRun := true }) ∧
      (¬gone → x.bad = true → RefusesOperand i s c act) ∧
      (¬gone → x.bad = false → RangesThen i s s c act (s.checkRanges c x.ranges) (Performs i s c
        { s := let y := x.withPages (s.pagesOf c x.ranges)
            ((r.1.raiseTide c.gid r.2.1).setCove c.g.team slot.toNat y).dropMatrices c.t.core y,
          endRun := true })))) ∧
  (∀ h la d a slot s c ws, Begins (.ksign h la d a slot) s c ws →
    let i : Instr := .ksign h la d a slot
    let act := c.g.active h.g
    (act = 0 → DoesNothing i s c) ∧
    let own := ∃ e ∈ s.appends, e.group = c.gid
    (act ≠ 0 → own → Waits i s c (.memorder 12)) ∧
    (act ≠ 0 → ¬own → (c.t.cove slot.toNat).stale = false ∨ c.g.memBusy = false →
      SlotThen i s c act slot.toNat (KeyFits c a) .translate fun s' x => let y := s'.fillMatrices c x.tables x
        Performs i s c { s := y, w := dstWrites act d 2 fun _ k => wordAtBit (((List.range x.tables).map fun t =>
          y.signature c.t.core x (keyElems c.g x (keyBase a)) t * 2 ^ (16 * t)).sum : Nat) k })) ∧
  (∀ h hold slot a b s c ws, Begins (.kstore h hold slot a b) s c ws →
    let i : Instr := .kstore h hold slot a b
    let act := c.g.active h.g
    let tok := (c.g.src32 b 0).toNat
    (act = 0 → DoesNothing i s c) ∧
    (act ≠ 0 → SlotThen i s c act slot.toNat (fun x => KeyFits c a x ∧ tok < x.tokMax) .translate fun s' x =>
      CheckThen i s s' c (onceFor · act) (s'.checkAll c (.key true) 128 128
          ((List.range (x.keyBytes / 128)).map fun k => (k, address (x.keyBase + tok * x.kstride + 128 * k : Nat)))) fun l =>
        let im := keyImage c.g x (keyBase a)
        let y := (s'.storePlaces c l fun k => (im.drop (128 * k)).take 128).fillMatrices c x.tables x
        ∀ g, y.group? c.gid = some g →
          let new := (List.range x.tables).map fun t =>
            Machine.Append.mk c.gid x t (y.signature c.t.core x (keyElems c.g x (keyBase a)) t) tok g.tide c.g.pc
          let z : State := { y with appends := y.appends ++ new }
          Performs i s c { s := z.modGroup c.gid fun g => { g with xfers := g.xfers + x.tables } })) ∧
  (∀ h d a b slot tag s c ws, Begins (.kgather h d a b slot tag) s c ws →
    let i : Instr := .kgather h d a b slot tag
    let act := c.g.active h.g
    let cap := (c.g.src b 0 2).toNat
    (act = 0 → DoesNothing i s c) ∧
    (act ≠ 0 → SlotThen i s c act slot.toNat (fun x => KeyFits c a x ∧ tag.toNat < c.pk.tags ∧ 1 ≤ cap ∧ cap ≤ 65535)
        (tagOr c tag.toNat) fun s' x =>
      let n := min (c.g.src b 0 3).toNat x.tables
      let dest := (c.g.src64 b 0).toNat
      let size := n * (4 * (cap + 1))
      let rule : Rule := { access := 1, priv := false }
      let av (d : BitVec 4) := exec i s = .next (s'.takeTrap c.gid
        { cause := .accessViolation, detail := d, access := 1, lanes := some act, addr := [(0, BitVec.ofNat 64 dest)],
          pte := [(0, 0)] })
      (dest / 2 ^ 48 ≠ 0xFFFE → av 0) ∧
      (dest / 2 ^ 48 = 0xFFFE → RangesThen i s s' c act (s'.checkRanges c [⟨rule, dest, max 4 size⟩])
        ((dest % 4 ≠ 0 → av 1) ∧ (dest % 4 = 0 → ∃ at', s'.gatherDest c act dest size (tagOr c tag.toNat) = .ok at'))
        (tagOr c tag.toNat)) ∧
      (∀ at', s'.gatherDest c act dest size (tagOr c tag.toNat) = .ok at' →
        TagThen i s s' c act tag.toNat (
          let need := if n = 0 then [] else lockNeed [(at', n * (4 * (cap + 1)))] []
          let dirs := ((List.range n).flatMap fun t => x.dirRuns t (2 ^ x.bits)).map fun e =>
            (false, e.1 / 128, (e.1 + e.2 - 1) / 128)
          (s'.mayLock need dirs = false → exec i s = .next (s'.stallAt c.gid (.rangelock need dirs))) ∧
          (s'.mayLock need dirs = true → let y := s'.fillMatrices c n x
            ∃ z p, Performs i s c p ∧ p.w = (triWrites act d fun _ => .u) ∧
              p.s = z.modGroup c.gid (fun g => { g with unread := g.unread ++ [(y.nextId, .p d.toNat)] }) ∧
              z = y.startOp c tag.toNat (.gather x (if c.g.hmode = true ∧ 6 ≤ d.toNat then d.toNat + 8 else d.toNat) act at'
                cap ((List.range n).map (y.signature c.t.core x (keyElems c.g x (keyBase a))))) [] (x.pages.map Prod.fst)
                need))))) ∧
  (∀ h hold b table slot tag s c ws, Begins (.kclear h hold b table slot tag) s c ws →
    let i : Instr := .kclear h hold b table slot tag
    let act := c.g.active h.g
    let v := (c.g.src32 b 0).toNat
    (act = 0 → DoesNothing i s c) ∧
    (act ≠ 0 → SlotThen i s c act slot.toNat (fun x => table.toNat < x.tables ∧ tag.toNat < c.pk.tags)
        (tagOr c tag.toNat) fun s' x => TagThen i s s' c act tag.toNat (
        let n := min v (2 ^ x.bits)
        let need := if n = 0 then [] else lockNeed (x.dirRuns table.toNat n) []
        (s'.mayLock need [] = false → exec i s = .next (s'.stallAt c.gid (.rangelock need []))) ∧
        (s'.mayLock need [] = true → Performs i s c
          { s := s'.startOp c tag.toNat (.clear x table.toNat 0 n (decide (2 ^ x.bits ≤ v))) [] (x.pages.map Prod.fst)
              need })))) ∧
  (∀ i s c ws, Begins i s c ws →
    let slot (n : Nat) (ok : CoveSlot → Prop) := (c.t.cove n).loaded = true ∧ (c.t.cove n).stale = false ∧ ok (c.t.cove n)
    let free (n : BitVec 6) := (c.t.tag n.toNat).denseFor c.g.idx = false ∧ (c.t.tag n.toNat).st ≠ .pending ∧ n.toNat < c.pk.tags
    ((∃ h n a, i = .ktable h n a ∧ ∃ l, s.checkAll c (.key false) 128 128 [(0, address (c.g.num64 a 0))] = .ok l ∧
        let r := s.loadLines c l none
        let x : CoveSlot := { addr := c.g.src64 a 0, image := l.flatMap fun e => r.1.get r.2.2.2 e.2.2 128 }
        x.bad = false ∧ s.checkRanges c x.ranges = .ok) ∨
      (∃ h la d a n, i = .ksign h la d a n ∧ slot n.toNat (KeyFits c a) ∧ ∀ e ∈ s.appends, e.group ≠ c.gid) ∨
      (∃ h hold n a b, i = .kstore h hold n a b ∧ slot n.toNat fun x => KeyFits c a x ∧ (c.g.src32 b 0).toNat < x.tokMax ∧
        ∃ l, s.checkAll c (.key true) 128 128 ((List.range (x.keyBytes / 128)).map fun k =>
          (k, address (x.keyBase + (c.g.src32 b 0).toNat * x.kstride + 128 * k : Nat))) = .ok l) ∨
      (∃ h d a b n tag, i = .kgather h d a b n tag ∧ free tag ∧ s.locks = [] ∧
        let dest := (c.g.src64 b 0).toNat
        let cap := (c.g.src b 0 2).toNat
        slot n.toNat fun x => KeyFits c a x ∧ 1 ≤ cap ∧ cap ≤ 65535 ∧ dest / 2 ^ 48 = 0xFFFE ∧ dest % 4 = 0 ∧
          s.checkRanges c [⟨{ access := 1, priv := false }, dest,
            max 4 (min (c.g.src b 0 3).toNat x.tables * (4 * (cap + 1)))⟩] = .ok) ∨
      (∃ h hold b table n tag, i = .kclear h hold b table n tag ∧ free tag ∧ s.locks = [] ∧
        slot n.toNat fun x => table.toNat < x.tables ∧ x.bits ≤ 16)) →
    ∃ t g, exec i s = .next t ∧ t.group? c.gid = some g ∧ g.pc = c.g.pc + 8 ∧ g.stall = none) ∧
  ((∀ (s : State) core x key t, s.signature core x key t < 2 ^ x.bits ∧ ∀ i < x.bits,
    (s.signature core x key t).testBit i = match sumBlocks (ptAdd b32) (some (.num .zero))
        (key.zipIdx.map fun e => some (if s.signAt core x t i e.2 then ptNeg e.1 else e.1)) with
      | some (.num v) => Ext.zero.lt v
      | _ => false) ∧
  (∀ (s : State) x t sig token tide, token < 2 ^ 32 →
    (∀ k, (s.lineAt k).comm = none) →
    let e := s.natAt (s.fwd (x.entry t sig)) 8
    let tail := e / 2 ^ 32 % 2 ^ 31
    let at' := s.fwd (x.block tail)
    let count := s.natAt (at' + 4) 1
    tail < x.poolCount → tail ≠ 0x7FFFFFFF → count < 14 → isLost (x.entry t sig) = false → isLost (x.block tail) = false →
    let r := (appendRun x t sig token (s, tide)).1
    r.natAt (at' + 4) 1 = count + 1 ∧ r.natAt (at' + 8 + 4 * count) 4 = token ∧
    (∀ p, p ≠ at' + 4 → (p < at' + 8 + 4 * count ∨ at' + 12 + 4 * count ≤ p) → r.byteAt p = s.byteAt p) ∧
    tide < (appendRun x t sig token (s, tide)).2 + 1)))

/-- R305, R315 to R318: the distributor words. The access a DQNEXT's slot is checked for, that its wait for a PENDING tag comes
after that check, and where the event of a DEVENT faults, are the model's readings (notes/assumptions/56, 111, 57). -/
def Obligations.DistributorWords : Prop :=
  (∀ h hold a tag s c ws, Begins (.dqnext h hold a tag) s c ws →
    let i : Instr := .dqnext h hold a tag
    let act := c.g.active h.g
    let x := (c.g.src32 a 0).toNat
    (act = 0 → DoesNothing i s c) ∧
    (act ≠ 0 → c.pk.items = 0 → Traps i s c { cause := .illegalInstruction, lanes := some act }) ∧
    (act ≠ 0 → c.pk.items ≠ 0 → c.pk.tags ≤ tag.toNat → RefusesOperand i s c act) ∧
    (act ≠ 0 → c.pk.items ≠ 0 → tag.toNat < c.pk.tags → x / 2 ^ 24 ≠ 255 → ∃ t, t.cause = .accessViolation ∧ t.access = 1 ∧
      Traps i s c t) ∧
    (act ≠ 0 → c.pk.items ≠ 0 → tag.toNat < c.pk.tags → x / 2 ^ 24 = 255 → CheckThen i s s c (onceFor · act)
        (s.checkAll c slotRule 8 8 [(0, 0xFFFE * 2 ^ 48 + x)]) fun _ => TagThen i s s c act tag.toNat (
      (s.fifoRoom = false → Waits i s c .distrib) ∧
      (s.fifoRoom = true → Performs i s c
        { s := (s.setTag c.g.team tag.toNat { c.t.tag tag.toNat with st := .pending }).pushFifo
            (fifoEntry 3 (c.g.team + tag.toNat * 2 ^ 15 + x % 2 ^ 24 * 2 ^ 21)) (some (c.t.pid, c.t.index)) })))) ∧
  (∀ h hold a s c ws, Begins (.dqdone h hold a) s c ws →
    let i : Instr := .dqdone h hold a
    let act := c.g.active h.g
    (act = 0 → DoesNothing i s c) ∧
    (act ≠ 0 → c.pk.items = 0 → Traps i s c { cause := .illegalInstruction, lanes := some act }) ∧
    (act ≠ 0 → c.pk.items ≠ 0 → s.fifoRoom = false → Waits i s c .distrib) ∧
    (act ≠ 0 → c.pk.items ≠ 0 → s.fifoRoom = true → Performs i s c
      { s := s.pushFifo (fifoEntry 4 (c.g.team + (c.g.src32 a 0).toNat * 2 ^ 15)) (some (c.t.pid, c.t.index)) })) ∧
  (∀ h hold a s c ws, Begins (.devent h hold a) s c ws →
    let i : Instr := .devent h hold a
    let act := c.g.active h.g
    let x := (s.modTeam c.g.team fun t => { t with code := c.g.src32 a 0, early := true }).pushFifo
      (fifoEntry 5 (c.g.team + 2 * 2 ^ 15)) (some (c.t.pid, c.t.index))
    let bytes := leBytes 4 c.t.index ++ leBytes 4 c.pk.seq.toNat ++ leBytes 4 (c.g.src32 a 0).toNat ++ leBytes 4 2
    (act = 0 → DoesNothing i s c) ∧
    (act ≠ 0 → s.fifoRoom = false → Waits i s c .distrib) ∧
    (act ≠ 0 → s.fifoRoom = true → c.pk.events = 0 → Performs i s c { s := x }) ∧
    (act ≠ 0 → s.fifoRoom = true → c.pk.events ≠ 0 →
      (∀ r, x.hwStore (address (c.pk.events.toNat + 16 * c.t.index : Nat)) bytes c.g.tide = .ok r →
        Performs i s c { s := r.1.raiseTide c.gid r.2 }) ∧
      (∀ t, x.hwStore (address (c.pk.events.toNat + 16 * c.t.index : Nat)) bytes c.g.tide = .error t →
        Traps i s c (onceFor t act))))

/-- R29, R190, R324, R329, R330: what MFSR reads of each system register; what MTSR stores in each, and what it refuses.
R332, R336 to R338: HALT ends the team with a report; TLBF and TLBI drop translations, and what walks in flight have read of
them; PROBE reports a translation for each active lane. That the end HALT asks for waits for room in the decision log, HALT itself
having performed, is the model's reading (notes/assumptions/66, 114).
R333 to R335: the four levels index an address; which entries end a walk, and how; one step of a walk; a miss joins a walk for
its page, starts one, or waits for a walker. -/
def Obligations.SystemWords : Prop :=
  ((∀ h d r, WritesDst (.mfsr h d r) h d 2 fun s c _ l k =>
    let x : DWord := match r with
      | .tvec => c.g.tvec
      | .tpc => c.g.tpc
      | .tmask => BitVec.ofNat 64 c.g.tmask.toNat
      | .tcause => c.g.tcause
      | .taddr => sget 0 c.g.taddr l
      | .tpte => sget 0 c.g.tpte l
      | .tsave => c.g.tsave
      | .ptroot => s.host.ptRoot
      | .physview => s.host.physView
      | .framepool => s.host.framePool
      | .mcinfo => c.g.mcinfo
      | .mcaddr => c.g.mcaddr
      | .nbmode => BitVec.ofNat 64 c.g.nbmode.toNat
      | .lease => BitVec.ofNat 64 c.g.lease.toNat
      | .tidemark => BitVec.ofNat 64 c.g.tide
    BitVec.ofNat 32 (x.toNat / 2 ^ (32 * k))) ∧
  (∀ h r a s c ws, Begins (.mtsr h r a) s c ws →
    let i : Instr := .mtsr h r a
    let act := c.g.active h.g
    let x := (c.g.num64 a 0).toNat
    let refused := (r = .tvec ∧ x % 8 ≠ 0) ∨ (r = .nbmode ∧ x % 4 = 3) ∨ (r = .lease ∧ x % 2 ^ 16 = 0)
    (act = 0 → DoesNothing i s c) ∧ (act ≠ 0 → refused → RefusesOperand i s c act) ∧
    (act ≠ 0 → ¬refused → ∃ t, exec i s = .next t ∧ Became s t c.gid (match r with
      | .tvec => { c.g with tvec := BitVec.ofNat 64 x }
      | .tpc => { c.g with tpc := BitVec.ofNat 64 x }
      | .tmask => { c.g with tmask := BitVec.ofNat 32 x }
      | .tcause => { c.g with tcause := BitVec.ofNat 64 (x % 2 ^ 32) }
      | .tsave => { c.g with tsave := BitVec.ofNat 64 (x % 2 ^ 48) }
      | .nbmode => { c.g with nbmode := BitVec.ofNat 2 x }
      | .lease => { c.g with lease := BitVec.ofNat 16 x }
      | _ => c.g) (c.g.pc + 8) none))) ∧
  ((∀ h imm s c ws, Begins (.halt h imm) s c ws →
    (c.g.active h.g = 0 → DoesNothing (.halt h imm) s c) ∧
    let report := leDwords [c.g.pc, BitVec.ofNat 64 imm.toNat] ++ leWords [c.g.active h.g] ++
      leDwords [c.g.tpc, c.g.tcause] ++ leWords [c.g.tmask]
    (c.g.active h.g ≠ 0 → s.abortRoom c.g.team = true → Performs (.halt h imm) s c
      { s := s.selfAbort c.g.team 2 report, endRun := true }) ∧
    (c.g.active h.g ≠ 0 → s.abortRoom c.g.team = false → Performs (.halt h imm) s c
      { s := s.modGroup c.gid fun g => { g with doom := some (2, report) }, endRun := true })) ∧
  (∀ h a s c ws, Begins (.tlbf h a) s c ws → Performs (.tlbf h a) s c
    { s := (lanesOf (c.g.active h.g)).foldl (fun x l => match x.virtOf c l (address (c.g.num64 a l)) with
        | some va => x.dropVa c.t.core va
        | none => x) s }) ∧
  (∀ (s : State) core va, let u := s.dropVa core va
    (∀ e ∈ (u.coreAt core).tlb, e.covers va = false) ∧
    (∀ e ∈ (u.dieAt (coreDie core)).wcache, e.2.1 ≠ va / 2 ^ levelBits e.1) ∧
    (∀ w ∈ u.walks, w.joins core (va / 2 ^ 16) = false ∧ (w.die = coreDie core → w.page = va / 2 ^ 16 →
      ∀ k ∈ w.groups ++ w.fetchers, k / 48 ≠ core)) ∧ u.mem = s.mem ∧ u.groups = s.groups ∧ u.teams = s.teams) ∧
  (∀ h hold a b s c ws, Begins (.tlbi h hold a b) s c ws →
    let i : Instr := .tlbi h hold a b
    let va := (c.g.num64 a 0).toNat
    (c.g.active h.g = 0 → DoesNothing i s c) ∧
    (c.g.active h.g ≠ 0 → va % 65536 ≠ 0 → RefusesOperand i s c (c.g.active h.g)) ∧
    (c.g.active h.g ≠ 0 → va % 65536 = 0 → Performs i s c
      { s := s.startTlbi (some c.gid) (va / 65536) (c.g.srcB b ws 0 0).toNat, wait := some .tlbi })) ∧
  (∀ (s : State) g first count core e, e ∈ ((s.startTlbi g first count).coreAt core).tlb →
    levelMeets first count e.level (e.va / 2 ^ levelBits e.level) = false) ∧
  (∀ (s : State) g first count, let u := s.startTlbi g first count
    (∀ die, ∀ e ∈ (u.dieAt die).wcache, levelMeets first count e.1 e.2.1 = false) ∧
    (∀ w ∈ u.walks, pagesMeet first count w.page 1 = false ∧ ∀ e ∈ w.seen, levelMeets first count e.1 e.2.1 = false) ∧
    (∀ h t n, u.team? h = some t → (t.cove n).stale = false → ∀ p ∈ (t.cove n).pages, pagesMeet first count p.1 1 = false) ∧
    ∃ x, u.tlbis = s.tlbis ++ [x] ∧ x.group = g ∧
      ∀ o ∈ s.ops, (∃ p ∈ o.pages, pagesMeet first count p 1 = true) → o.id ∈ x.ops) ∧
  (∀ first count lo, first < 2 ^ 48 → lo < 2 ^ 48 → (pagesMeet first count lo 1 = true ↔
    count = 0 ∨ ∃ k < count, (first + k) % 2 ^ 48 = lo)) ∧
  (∀ va < 2 ^ 64, va = levelIndex va 0 * 2 ^ 55 + levelIndex va 1 * 2 ^ 42 + levelIndex va 2 * 2 ^ 29 +
      levelIndex va 3 * 2 ^ 16 + va % 2 ^ 16 ∧ levelIndex va 0 < 512 ∧ ∀ level, 0 < level → levelIndex va level < 8192) ∧
  (∀ (t : Tlb) va, let n := levelBits t.level
    (t.covers va = true ↔ va / 2 ^ n = t.va / 2 ^ n) ∧ t.pa va % 2 ^ n = va % 2 ^ n ∧
    t.pa va / 2 ^ n = t.leaf.toNat / 2 ^ 16 % 2 ^ 36 * 2 ^ 16 / 2 ^ n) ∧
  (∀ own level e, let leaf := e.getLsbD 1
    let at' := entryAddr e
    let badForm := e.toNat / 2 ^ 52 ≠ 0 ∨ e.toNat / 2 ^ 9 % 2 ^ 7 ≠ 0 ∨ (level = 0 ∧ leaf = true) ∨ (level = 3 ∧ leaf = false) ∨
      (leaf = false ∧ e.toNat / 4 % 128 ≠ 0) ∨ (leaf = true ∧ at' % 2 ^ levelBits level ≠ 0) ∨
      (leaf = true ∧ e.getLsbD 6 = false ∧ e.getLsbD 7 = false ∧ e.toNat / 4 % 8 ≠ 1 ∧ e.toNat / 4 % 8 ≠ 2 ∧ e.toNat / 4 % 8 ≠ 4)
    let wrongPackage := (leaf = true ∧ (e.getLsbD 7 = true ↔ packageOf at' = own)) ∨ (leaf = false ∧ packageOf at' ≠ own)
    (e.getLsbD 0 = false → entryFault own level e = some (.pageFault, BitVec.ofNat 4 level)) ∧
    (e.getLsbD 0 = true → badForm → entryFault own level e = some (.accessViolation, 4)) ∧
    (e.getLsbD 0 = true → ¬badForm → wrongPackage → entryFault own level e = some (.accessViolation, 5)) ∧
    (e.getLsbD 0 = true → ¬badForm → ¬wrongPackage → entryFault own level e = none)) ∧
  (∀ (s : State) die tide va level rest base seen, (s.dieAt die).wcache = [] → (∀ k, Calm s k) →
    let at' := base + 8 * levelIndex va level
    let e := s.dwordAt (s.fwd at')
    let r := s.walkFrom die tide va (level :: rest) base seen
    r.1.mem = s.mem ∧ tide ≤ r.2.1 ∧
    (∀ k d, entryFault s.host.number.toNat level e = some (k, d) → ∃ pte, r.2.2.1 = .fault k d pte ∧
      (k = .pageFault → pte = BitVec.ofNat 64 (at' % 2 ^ 40))) ∧
    (entryFault s.host.number.toNat level e = none → e.getLsbD 1 = true →
      r.2.2.1 = .leaf ⟨va / 2 ^ 16 * 2 ^ 16, level, e⟩) ∧
    (entryFault s.host.number.toNat level e = none → e.getLsbD 1 = false → ∃ x : State, ∃ m, x.mem = s.mem ∧ tide ≤ m ∧
      r.2.2.1 = (x.walkFrom die m va rest (entryAddr e) ((level, va / 2 ^ levelBits level, e) :: seen)).2.2.1)) ∧
  (∀ (s : State) gid core va fetch, let page := va / 2 ^ 16
    let same (w : Walk) := w.joins core page
    ((∃ w ∈ s.walks, same w = true) → (s.missWalk gid core va fetch).walks =
      s.walks.map fun w => if same w then w.add gid fetch else w) ∧
    ((∀ w ∈ s.walks, same w = false) → (s.walks.filter fun w => w.die == coreDie core).length < 1024 →
      s.missWalk gid core va fetch = s.startWalk gid (coreDie core) va fetch) ∧
    ((∀ w ∈ s.walks, same w = false) → 1024 ≤ (s.walks.filter fun w => w.die == coreDie core).length →
      s.missWalk gid core va fetch = s)) ∧
  (∀ h d a s c ws, Begins (.probe h d a) s c ws →
    let ea (l : Nat) : Nat := address (c.g.num64 a l)
    ((∀ l ∈ lanesOf (c.g.active h.g), s.probe c l (ea l) ≠ none) → ∃ t, exec (.probe h d a) s = .next t ∧
      Wrote s t c (c.g.active h.g) d 2 fun l k => wordAtBit (((s.probe c l (ea l)).getD 0).toNat : Nat) k) ∧
    ((∃ l ∈ lanesOf (c.g.active h.g), s.probe c l (ea l) = none) → ∃ vas,
      exec (.probe h d a) s = .next ((s.startWalks c vas).stallAt c.gid .translate))))

/-! ## The machine's other agents -/

/-- R36 to R38, R88, R324, R26, R335 to R337: fetch, arbitration, results, traps between runs, the divergence stack, walks and
invalidations: each completes, with its effect, where it is due. When pending results are written before a trap, that refills of
the stack are events and what a pop has refilled stays its own until it performs, that a fetch checks SUP before X, that it sees
memory as it stands then, and that a double trap or HALT waits outside its run for room in the decision log are the model's
readings (notes/assumptions/17, 30, 19, 104, 66, 114). -/
def Obligations.RunEvents : Prop :=
  (∀ (s : State) gid c, s.ctx? gid = some c → c.g.ibuf = none → gid ∉ s.runs →
    (∀ ws, s.fetchRun c 24 c.g.pc.toNat = .ok ws → exec (.instructionFetch gid) s = .next (s.modGroup gid fun g =>
        { g with ibuf := some ws, walkFaults := g.walkFaults.filter fun f => !f.fetch }) ∧ ws.length ≤ 24 ∧
      (∀ l w, ws = l ++ [w] → ∀ x ∈ l, ∃ y, x = .word y ∧ y.getLsbD 63 = false) ∧
      ∀ k x, ws[k]? = some x → s.fetchWord c ((c.g.pc.toNat + 8 * k) % 2 ^ 64) = some x) ∧
    (∀ va, s.fetchRun c 24 c.g.pc.toNat = .error va → s.fetchWord c va = none ∧
      (c.g.memBusy = true → exec (.instructionFetch gid) s = .next s) ∧
      (c.g.memBusy = false → exec (.instructionFetch gid) s = .next (s.missWalk gid c.t.core va true)))) ∧
  (∀ (s : State) c va, let fault? := c.g.walkFaults.find? fun f => decide (f.page = va / 2 ^ 16) && f.fetch
    let hit? := (s.coreAt c.t.core).tlb.find? fun t => t.covers va
    (va % 8 ≠ 0 → s.fetchWord c va = some (.bad .accessViolation 1 0)) ∧
    (va % 8 = 0 → 0xFFFC ≤ va / 2 ^ 48 → va / 2 ^ 48 ≤ 0xFFFE → s.fetchWord c va = some (.bad .accessViolation 0 0)) ∧
    (va % 8 = 0 → va / 2 ^ 48 < 0xFFFC → (∀ f, fault? = some f → s.fetchWord c va = some (.bad f.cause f.detail f.pte)) ∧
      (fault? = none → (hit? = none → s.fetchWord c va = none) ∧ ∀ t, hit? = some t →
        s.fetchWord c va = some (if t.sup = true ∧ c.g.hmode = false then .bad .accessViolation 3 0
          else if t.x = false then .bad .accessViolation 2 0 else .word (s.dwordAt (s.fwd (t.pa va))))))) ∧
  (∀ (s : State) core sched a gid b, s.schedBusy core sched = false → (s.coreAt core).asleep = none →
    s.ageOf core sched = a ++ gid :: b → (∀ x ∈ a, s.eligible x = false) → s.eligible gid = true → sched < 4 →
    (s.coreAt core).age.length = 4 → ∃ t g, exec (.runArbitration core sched) s = .next t ∧ t.runs = s.runs ++ [gid] ∧
      t.group? gid = some g ∧ g.stall = none ∧ t.mem = s.mem ∧
      t.ageOf core sched = (a ++ gid :: b).filter (fun x => x != gid) ++ [gid]) ∧
  (∀ (s : State) gid g i p, s.group? gid = some g → g.pends[i]? = some p → p.done = false → p.outstanding = 0 →
    exec (.resultWrite gid i) s = .next (s.setGroup gid (g.writeResult p.id)) ∧ (g.writeResult p.id).rest = g.rest ∧
    ∀ q ∈ (g.writeResult p.id).pends, q.id = p.id → q.done = true) ∧
  (∀ (s : State) gid g t, s.group? gid = some g → g.ended = false → gid ∉ s.runs →
    (∀ ty report, g.doom = some (ty, report) → exec (.trapEntry gid t) s = .next (if s.abortRoom g.team = true
      then (s.setGroup gid { g with doom := none }).selfAbort g.team ty report else s)) ∧
    (∀ x, g.doom = none → g.trapped = some x →
      exec (.trapEntry gid t) s = .next (if g.pending then s else s.takeTrap gid x)) ∧
    (∀ x info at' rest, g.doom = none → g.trapped = none → g.dueMcs = (x, info, at') :: rest → exec (.trapEntry gid t) s =
      .next (if g.pending || g.inWait then s
        else (s.setGroup gid { g with mcs := g.mcs.erase (x, info, at'), mcinfo := info, mcaddr := at' }).takeTrap gid x)) ∧
    (g.doom = none → g.trapped = none → g.dueMcs = [] → exec (.trapEntry gid t) s = .next (s.takeTrap gid t))) ∧
  (∀ (s : State) gid c l, s.ctx? gid = some c → c.g.stall = some .divSpill → s.stackCheck c .st c.g.spilled = .ok l →
    ∃ t g, exec (.divergenceSpill gid) s = .next t ∧ t.group? gid = some g ∧ g.stack = c.g.stack.drop 8 ∧
      g.spilled = c.g.spilled + 1 ∧ g.stall = none ∧ g.regs = c.g.regs ∧ g.pc = c.g.pc ∧ g.mask = c.g.mask ∧
      c.g.tide ≤ g.tide) ∧
  (∀ (s : State) gid c l, s.ctx? gid = some c → c.g.stall = some .divRefill → c.g.memBusy = false → s.stackCheck c .ld (c.g.spilled - 1) = .ok l →
    ∃ t g new, exec (.divergenceRefill gid) s = .next t ∧ t.group? gid = some g ∧ g.stack = new ∧
      new.length = 8 ∧ (∀ e ∈ new, entMask e &&& ~~~c.g.live = 0) ∧ g.spilled = c.g.spilled - 1 ∧ g.stall = none ∧
      g.unpopped = (if c.g.stack = [] ∧ c.g.unpopped = none then none else match c.g.unpopped with
        | none => some (c.g.stack, 1)
        | some (old, k) => some (old, k + 1)) ∧
      g.regs = c.g.regs ∧ g.pc = c.g.pc ∧ g.mask = c.g.mask) ∧
  (∀ (g : Group) t, (g.enterTrap t).stack = (match g.unpopped with | none => g.stack | some (old, _) => old) ∧
    (g.enterTrap t).spilled = (match g.unpopped with | none => g.spilled | some (_, k) => g.spilled + k)) ∧
  (∀ (s : State) i w, s.walks[i]? = some w →
    (∀ x, w.found = .leaf x → ∃ t, exec (.pageWalk i) s = .next t ∧ t.walks = s.walks.eraseIdx i ∧ t.mem = s.mem ∧
      ∀ k ∈ w.groups ++ w.fetchers, x ∈ (t.coreAt (k / 48)).tlb) ∧
    (∀ k d pte, w.found = .fault k d pte → ∃ t, exec (.pageWalk i) s = .next t ∧ t.walks = s.walks.eraseIdx i ∧
      t.mem = s.mem ∧ ∀ n ∈ w.groups, ∀ g, s.group? n = some g → ∃ g', t.group? n = some g' ∧
        { page := w.page, cause := k, detail := d, pte := pte } ∈ g'.walkFaults ∧ g'.regs = g.regs ∧ g'.pc = g.pc)) ∧
  (∀ (s : State) i x gid g, s.tlbis[i]? = some x → (∀ o ∈ s.ops, o.id ∉ x.ops) → x.group = some gid →
    s.group? gid = some g → g.stall = some .tlbi → exec (.tlbiAcknowledgement i) s =
      .next ({ s with tlbis := s.tlbis.eraseIdx i }.modGroup gid fun g => { g with stall := none }))

/-- R41 to R43, R165: a team's pool: spills of its oldest tasks, refills of a site's newest, and steals: whom a request asks,
which tasks a victim ships, and where they land. The order among the teams of one core and among another die's, the entries
taken, the age of a shipped task in the segment, and the faults of a steal are the model's choices (notes/assumptions/36, 37,
101, 102, 106, 107). -/
def Obligations.PoolEvents : Prop :=
  (∀ (s : State) h t pk g ws x r, s.team? h = some t → s.packet? t.pid = some pk → s.poolWaiters h .pool = g :: ws →
    s.group? g = some x → t.poolFree pk = 0 → spillRoom t.pool.length (t.spillFree pk) = true →
    s.spillTasks h pk x.tide (halfOf t.pool.length) = .ok r →
    exec (.poolSpill h) s = .next ((r.1.raiseTide g r.2).wakePool [g] true)) ∧
  (∀ (s : State) h t pk g ws x r (site : BitVec 3), s.team? h = some t → s.packet? t.pid = some pk →
    s.poolWaiters h (.poolRefill site.toNat) = g :: ws → s.group? g = some x → s.takeNeed h pk site.toNat = .refill →
    s.refillTasks h pk site.toNat x.tide = .ok r → exec (.poolRefill h site) s = .next ((r.1.raiseTide g r.2).wakePool [g] true)) ∧
  (∀ (s : State) i q v t pk, s.steals[i]? = some q → q.shipped = none → s.nextVictim q = some v →
    s.team? q.thief = some t → s.packet? t.pid = some pk →
    let r := s.shipFrom v pk q.site (q.pool + q.spill)
    (r.1 = [] → exec (.stealRequest i) s =
      .next { s with steals := setAt s.steals i { q with asked := q.asked ++ [v] } }) ∧
    (r.1 ≠ [] → exec (.stealRequest i) s = .next { r.2 with steals := setAt s.steals i { q with shipped := some r.1 } } ∧
      r.1.length ≤ q.pool + q.spill)) ∧
  (∀ (s : State) i q l t pk x, s.steals[i]? = some q → q.shipped = some l → s.team? q.thief = some t →
    s.packet? t.pid = some pk → let k := min l.length (t.poolFree pk + q.pool)
    (s.stealDone i q).landSpill q.thief pk (l.take (l.length - k)) = .ok x →
    exec (.stealShipment i) s =
      .next ((l.drop (l.length - k)).foldl (fun s e => (s.pushTask q.thief pk e.bytes e.time).1) x)) ∧
  (∀ (s : State) h t pk site tide x m, s.team? h = some t → s.refillTasks h pk site tide = .ok (x, m) →
    let mine := t.spill.filter fun e => s.spillSite t pk e == site
    let n := min mine.length (min (pk.poolEnt / 2) (t.poolFree pk))
    ∃ u new, x.team? h = some u ∧ u.pool = t.pool ++ new ∧ new.length = n ∧
      u.spill = t.spill.filter fun e => !((mine.drop (mine.length - n)).contains e)) ∧
  (∀ (s : State) q v t, keysUp s.teams = true → s.team? q.thief = some t → s.nextVictim q = some v →
    let mayAsk (h : Nat) (u : Team) := s.team? h = some u ∧ h ≠ q.thief ∧ u.pid = t.pid ∧ h ∉ q.asked ∧ u.life = .run
    let near (u : Team) := (coreDie u.core + 4 - coreDie t.core) % 4
    ∃ u, mayAsk v u ∧ ∀ h w, mayAsk h w → near u < near w ∨ (near u = near w ∧ coreIn u.core ≤ coreIn w.core)) ∧
  (∀ (s : State) v t pk site n, s.team? v = some t →
    let sp := t.spill.filter fun e => s.spillSite t pk e == site
    let po := t.pool.filter fun e => s.poolSite t pk e == site
    let r := s.shipFrom v pk site n
    (sp ≠ [] → let out := sp.take (min n ((sp.length + 1) / 2))
      (∀ e, s.spillRead t pk 0 out = .error e → r = ([], s)) ∧
      (∀ x, s.spillRead t pk 0 out = .ok x → r.1.length = out.length ∧ (r.2.team? v).map Team.pool = some t.pool ∧
        (r.2.team? v).map Team.spill = some (t.spill.filter fun e => !(out.contains e)))) ∧
    (sp = [] → let out := po.take (min n ((po.length + 1) / 2))
      r.1.length = out.length ∧ (r.2.team? v).map Team.spill = some t.spill ∧
      (r.2.team? v).map Team.pool = some (t.pool.filter fun e => !(out.contains e)) ∧
      (Settled s → r.1.map Task.bytes = out.map fun e => s.bytesAt (t.poolAt pk e.ent) pk.entryBytes))) ∧
  (∀ (s : State) h t pk site, s.team? h = some t → let room := t.poolFree pk + t.spillFree pk
    (t.steals.getLsbD site = true ∨ room = 0 → s.sendSteal h pk site = s) ∧
    (t.steals.getLsbD site = false → room ≠ 0 → ∃ a b, a + b = min 8 room ∧ b = min (a + b) (t.spillFree pk) ∧
      (s.sendSteal h pk site).steals = s.steals ++ [⟨h, site, a, b, [], none⟩] ∧
      (s.sendSteal h pk site).team? h = some { t with steals := t.steals ||| (1#32 <<< site), resvPool := t.resvPool + a,
                                                        resvSpill := t.resvSpill + b })) ∧
  (∀ (s : State) i q t, s.steals[i]? = some q → q.shipped = none → s.nextVictim q = none → s.team? q.thief = some t →
    ∃ x : State, exec (.stealEmpty i) s = .next { x with steals := s.steals.eraseIdx i } ∧ x.mem = s.mem ∧
      x.team? q.thief = some { t with steals := t.steals &&& ~~~(1#32 <<< q.site), resvPool := t.resvPool - q.pool,
                                      resvSpill := t.resvSpill - q.spill })

/-- R188, R189, R191 to R194, R201, R208: requests, replies, leases and notices.
R180, R185, R195, R255, R328, R361: reductions accepted, remote accesses answered, lost for want of a route or timed out, and
Machine Checks of the matrix engine, of registers, of team state and of lines of memory. What a timed-out access did is a free
value (notes/assumptions/5); the statement holds for either. That Machine Checks queue, what their reports hold and that lost data
is zero at once, that an accepted reduction drops the copies of its line, whose register a lost predicate is, which line a full L1
drops, that a request's credits come back with its answer, the window of a scale-store error, and that a notice that is overtaken
arrives first, are the model's readings (notes/assumptions/59, 58, 60, 15, 129, 131, 117, 143, 115). -/
def Obligations.MemoryEvents : Prop :=
  ((∀ (s : State) i r, s.replies[i]? = some r → ∃ t, exec (.loadReply i) s = .next t ∧ t.replies = s.replies.eraseIdx i ∧
    t.mem = s.mem ∧ sget {} (t.coreAt r.core).heard r.slice = s.slice r.slice ∧
    (∀ g, s.group? r.group = some g → ∃ g', t.group? r.group = some g' ∧ g'.regs = g.regs ∧
      g'.xfers = g.xfers - (if r.holds then 1 else 0)) ∧
    (∀ c, r.copy = some c → sfind (t.coreAt r.core).l1 r.line = some c) ∧ ((s.l1Held r.core).contains r.line = true ∨
        (s.l1Held r.core).length < (2 ^ 20 - carveBytes (s.coreAt r.core).carve) / 128 →
      ∀ line, line ≠ r.line → sfind (t.coreAt r.core).l1 line = sfind (s.coreAt r.core).l1 line)) ∧
  (∀ (s : State) k, k % 12 ∉ s.genNotices → exec (.generationNotice k) s = .next s) ∧
  (∀ (s : State) k, k % 12 ∈ s.genNotices → ∃ t, exec (.generationNotice k) s = .next t ∧ t.mem = s.mem ∧
    t.genNotices = s.genNotices.filter (fun n => n != k % 12) ∧
    ∀ core, (s.coreAt core).asleep = none → ∀ e ∈ (t.coreAt core).l1, shelfOf (e.1 * 128) = k % 12 →
      ((s.slice (k % 12)).gen - e.2.gen).toNat < 128) ∧
  (∀ (s : State) core gens era, (s.coreAt core).asleep = some (gens, era) → ∃ t, exec (.wakeCheck core) s = .next t ∧
    t.mem = s.mem ∧ (t.coreAt core).asleep = none ∧ ∀ e ∈ (t.coreAt core).l1,
      gens.getD (shelfOf (e.1 * 128)) 0 = (s.slice (shelfOf (e.1 * 128))).gen) ∧
  (∀ (s : State) core, (∀ g ∈ s.runs, g / 48 ≠ core) → (s.coreAt core).asleep = none → ∃ t,
    exec (.retentionSleep core) s = .next t ∧ t.mem = s.mem ∧
    (t.coreAt core).asleep = some ((List.range 12).map (fun k => (s.slice k).gen), s.era)) ∧
  (∀ (s : State) gid g, s.group? gid = some g →
    exec (.tidemarkAdvance gid) s = .next (s.setGroup gid { g with tide := g.tide + 1 })) ∧
  (∀ (s : State) gid g pa, s.group? gid = some g → let loc := pa % 2 ^ 52
    Calm s (leaseKey (s.fwd loc)) → ∃ t, exec (.homeLoad gid pa) s = .next t ∧ t.mem = s.mem ∧
      t.group? gid = some { g with tide := max g.tide (s.lineAt (leaseKey (s.fwd loc))).wts }) ∧
  (∀ (s : State) gid g pa data, s.group? gid = some g → let loc := pa % 2 ^ 52
    exec (.homeWrite gid pa data) s =
      .next ((s.writeSpan loc data g.tide).1.raiseTide gid (s.writeSpan loc data g.tide).2) ∧
    (data ≠ [] → pa % 128 + data.length ≤ 128 → (s.lineAt (leaseKey (s.fwd loc))).comm = none →
      let t := (s.writeSpan loc data g.tide).1
      t.bytesAt (s.fwd loc) data.length = data ∧
      ∀ p, (p < s.fwd loc ∨ s.fwd loc + data.length ≤ p) → t.byteAt p = s.byteAt p)) ∧
  (∀ (s : State) line o, (s.lineAt line).owner = some o →
    exec (.writeLeaseRecall line) s = .next (s.setLine line { s.lineAt line with owner := none, evicting := false }) ∧
    exec (.goneAnswer line) s = .next (s.setLine line { s.lineAt line with evicting := true }) ∧
    exec (.dirtyWriteback o line) s = .next (s.setLine line { s.lineAt line with owner := none, evicting := false })) ∧
  (∀ (s : State) gid g line o, s.group? gid = some g → (s.lineAt line).owner = some o → (s.lineAt line).evicting = false →
    s.fwd (line * 128) = line * 128 → line < 2 ^ 45 → Calm s line →
    ∃ t, exec (.forwardedRead gid line) s = .next t ∧ t.mem = s.mem ∧ (t.lineAt line).owner = some o ∧
      (t.lineAt line).wts = (s.lineAt line).wts ∧
      t.group? gid = some { g with tide := max g.tide (s.lineAt line).wts }) ∧
  (∀ (s : State) line, line < 2 ^ 45 → s.ownPackage (line * 128) = true → (s.lineAt line).comm = none →
    let k := shelfOf (line * 128)
    ∃ t, exec (.shelfEviction line) s = .next t ∧ t.mem = s.mem ∧ sfind t.lines line = none ∧
      (t.slice k).mts = max (s.slice k).mts (s.lineAt line).rts ∧ (t.slice k).gen = (s.slice k).gen ∧
      (t.slice k).base = (s.slice k).base) ∧
  (∀ (s : State) line, line < 2 ^ 45 → s.ownPackage (line * 128) = true → sfind s.lines line = none →
    ∃ t l, exec (.dramFill line) s = .next t ∧ t.mem = s.mem ∧ sfind t.lines line = some l ∧
      l.wts = (s.slice (shelfOf (line * 128))).mts ∧ l.rts = (s.slice (shelfOf (line * 128))).mts) ∧
  (∀ (s : State) i n g, s.notices[i]? = some n → s.group? n.group = some g → g.stall = some .monitor →
    exec (.monitorNotice i) s = .next ({ s with notices := s.notices.eraseIdx i }.setGroup n.group
      { g with stall := none, tide := max g.tide n.time }))) ∧
  ((∀ (s : State) i f, s.reds[i]? = some f → f.addr < 2 ^ 54 → let key := leaseKey (s.fwd f.addr)
    (s.lineAt key).comm = none → ∃ t, exec (.partialAccept i) s = .next t ∧ t.mem = s.mem ∧ t.reds = s.reds.eraseIdx i ∧
      (t.lineAt key).comm = some ⟨f.op, [(f.die, s.fwd f.addr, f.value)], f.tide⟩ ∧ (t.lineAt key).owner = none ∧
      (∀ core, sfind (t.coreAt core).l1 key = none) ∧ (∀ r ∈ t.replies, r.line = key → r.copy = none) ∧
      ∀ g, s.group? f.group = some g → t.group? f.group = some { g with reds := g.reds - 1 }) ∧
  (∀ (s : State) i r, s.remotes[i]? = some r → let x : State := State.linksBack { s with remotes := s.remotes.eraseIdx i } r.links
    let far := ∃ a ∈ r.acts, a.loc < 2 ^ 52 ∧ packageOf a.loc ≠ s.host.number.toNat ∧ ∀ l < 18,
      (sget 0 s.host.routes (packageOf a.loc)).getLsbD l = true → sget false s.host.linksDown l = true
    (∀ k, sget 0 x.host.credits k = sget 0 s.host.credits k - (r.links.filter fun l => 4 * l == k).length) ∧
    (¬far → exec (.remoteAcknowledgement i) s = .next ((x.runRemote r r.acts).1.remoteDone r (x.runRemote r r.acts).2)) ∧
    (far → exec (.remoteAcknowledgement i) s = exec (.remoteTimeout i) s)) ∧
  (∀ (s : State) i r g, s.remotes[i]? = some r → s.group? r.group = some g → g.ended = false →
    ∃ t g', exec (.remoteTimeout i) s = .next t ∧ t.remotes = s.remotes.eraseIdx i ∧ t.group? r.group = some g' ∧
      g'.mcs = g.mcs ++ [({ cause := .machineCheck, detail := 5 }, r.pc, BitVec.ofNat 64 (r.addr / 128 * 128))] ∧
      g'.rems = g.rems - 1) ∧
  (∀ (s : State) r, let met (t : State) (k : Nat) (info addr : DWord) := ∀ g, s.group? k = some g → g.ended = false →
      ∃ g', t.group? k = some g' ∧ g'.mcs = g.mcs ++ [({ cause := .machineCheck, detail := r.detail }, info, addr)] ∧
        g'.pc = g.pc ∧ g'.mask = g.mask ∧ g'.s = g.s
    let toHost := exec (.machineCheck r) s = .next (s.postMsg 3 r.core (2 ^ 32 - 1)
      (leBytes 8 r.detail.toNat ++ leBytes 8 r.mcaddr.toNat))
    let word (o : MatOp) (z : BitVec 6) := (∃ w, o.word = .mma w ∧ w.z = z) ∨ ∃ w, o.word = .mmax w ∧ w.z = z
    (r.detail = 0 →
      (∀ o l z, (s.coreAt r.core).engine = o :: l → o.started = true → o.pend = none → word o z → ∃ t,
        exec (.machineCheck r) s = .next t ∧ t.teams = s.teams ∧ t.mem = s.mem ∧ (t.coreAt r.core).engine = l ∧
        met t o.group o.pc (z.setWidth 64)) ∧
      ((∀ o l, (s.coreAt r.core).engine = o :: l → o.started = false ∨ ∀ z, ¬word o z) →
        exec (.machineCheck r) s = .next s)) ∧
    (r.detail = 1 → let who := s.regOwner r.core r.sched (r.mcaddr.toNat % 1024)
      (who = none → toHost) ∧
      (∀ k n, who = some (k, n) → ∃ t, exec (.machineCheck r) s = .next t ∧ met t k 0 r.mcaddr ∧ t.mem = s.mem ∧
        ∀ g', t.group? k = some g' → ∀ l < 32, (r.predicate = none → g'.getV n l = 0) ∧
          ∀ p, r.predicate = some p → g'.getP p.toNat l = 0)) ∧
    (r.detail = 2 → let a := r.mcaddr.toNat
      let core := a / 2 ^ 32 % 4 * 128 + a / 2 ^ 25 % 128
      let win := a / 2 ^ 22 % 8
      let off := a % 2 ^ 22 / 128 * 128
      let who := s.chipOwner core win off
      (who = none → toHost) ∧
      (∀ h u, who = some h → s.team? h = some u → u.gids ≠ [] → u.gids.Nodup → win = 1 → ∃ t,
        exec (.machineCheck r) s = .next t ∧
        (∀ k ∈ u.gids, met t k 0 r.mcaddr) ∧ ∀ p, t.byteAt p =
          if 2 ^ 52 + 2 ^ 20 * core + off ≤ p ∧ p < 2 ^ 52 + 2 ^ 20 * core + off + 128 then 0 else s.byteAt p) ∧
      (∀ h u, who = some h → s.team? h = some u → u.gids ≠ [] → u.gids.Nodup → win = 2 ∨ win = 4 → ∃ t,
        exec (.machineCheck r) s = .next t ∧ t.mem = s.mem ∧ ∀ k ∈ u.gids, met t k 0 r.mcaddr)) ∧
    (3 ≤ r.detail.toNat → ((∀ k ∈ r.groups, s.group? k = none) → toHost) ∧
      (r.groups.Nodup → (∃ k ∈ r.groups, s.group? k ≠ none) → ∃ t, exec (.machineCheck r) s = .next t ∧
        (∀ k ∈ r.groups, met t k r.mcinfo r.mcaddr) ∧ t.mem = s.mem))))

/-- R197, R199, R228, R248 to R250, R281 to R283: the copy and matrix engines and the cove units at work.
R193, R259, R266: seal operations asked for from outside, and the notices and acknowledgements of an era's bump. The lease an engine
uses, when the locks of an operation go, and that one event is a whole append or one bucket, are the model's readings
(notes/assumptions/43, 45, 54, 55). -/
def Obligations.UnitEvents : Prop :=
  ((∀ (s : State) gid g need reads, s.group? gid = some g → g.stall = some (.rangelock need reads) → s.mayLock need reads = true →
    exec (.rangeLockRegistration gid) s = .next (s.setGroup gid { g with stall := none })) ∧
  (∀ (s : State) i o x r, s.ops[i]? = some o → o.todo = x :: r →
    (let m := (s.unitCheck o.group o.team o.pc x.src.toList).moveOne x o.time
      ∃ t, exec (.engineTransfer i) s = .next t ∧ t.mem = m.1.mem ∧ t.ops = setAt m.1.ops i { o with todo := r, time := m.2 } ∧
      t.locks = if r = [] then m.1.locks.filter (fun k => k.op != o.id) else m.1.locks) ∧
    (x.dst + x.len ≤ 2 ^ 54 → 0 < x.len → x.dst % 128 + x.len ≤ 128 → (∀ k, (s.lineAt k).comm = none) →
      (∀ k < x.len, s.inCarve (s.fwd x.dst + k) = true) → let t := (s.moveOne x o.time).1
      (∀ p, (p < s.fwd x.dst ∨ s.fwd x.dst + x.len ≤ p) → t.byteAt p = s.byteAt p) ∧
      (x.src = none → t.bytesAt (s.fwd x.dst) x.len = patternBytes x.fill x.len) ∧
      (∀ a, x.src = some a → a + x.len ≤ 2 ^ 54 → a % 128 + x.len ≤ 128 → (∀ k < x.len, s.inCarve (a + k) = true) →
        (∀ k < x.len, s.fwd (a + k) = s.fwd a + k) → t.bytesAt (s.fwd x.dst) x.len = s.bytesAt (s.fwd a) x.len))) ∧
  (∀ (s : State) gid g pc locs, s.group? gid = some g → g.ended = false → ∃ g',
    (s.unitCheck gid g.team pc locs).group? gid = some g' ∧ (s.unitCheck gid g.team pc locs).mem = s.mem ∧ g'.regs = g.regs ∧
    g'.mcs = g.mcs ++ ((locs.map fun l => s.fwd l / 128).filter s.poisoned.contains).eraseDups.map fun k =>
      ({ cause := .machineCheck, detail := 3 }, pc, BitVec.ofNat 64 (k * 128))) ∧
  (∀ (s : State) i o, s.ops[i]? = some o → o.todo = [] → (o.kind = .copy ∨ o.kind = .fill) →
    exec (.engineCompletion i) s = .next (s.endOp i o false)) ∧
  (∀ (s : State) core o r, (s.coreAt core).engine = o :: r → o.started = false → ∃ t o',
    exec (.matrixOpStart core) s = .next t ∧ (t.coreAt core).engine = o' :: r ∧ o'.started = true ∧ o'.word = o.word ∧
    t.mem = s.mem ∧ t.teams = s.teams ∧
    (∀ x g, o.word = .mma x → s.group? o.group = some g → ∀ k < depBytes x.dep / 16, ∀ l < 32,
      valueAt o'.frags (32 * (vBase x.a + k) + l) = some (g.getV (vBase x.a + k) l) ∧
      valueAt o'.frags (32 * (vBase x.b + k) + l) = some (g.getV (vBase x.b + k) l))) ∧
  (∀ (s : State) core o r c, (s.coreAt core).engine = o :: r → o.started = true → s.ctx? o.group = some c →
    let x := s.matPerform o c.g.team c.t
    exec (.matrixOpFinish core) s = .next (x.1.matLeave core o x.2) ∧
    (o.pend = none → ((x.1.matLeave core o x.2).coreAt core).engine = (x.1.coreAt core).engine.drop 1 ∧
      (x.1.matLeave core o x.2).mem = x.1.mem ∧ (x.1.matLeave core o x.2).teams = x.1.teams) ∧
    (∀ w, o.word = .mma w → x.1.team? c.g.team = some (c.t.mmaTile false w o.frags)) ∧
    (∀ w, o.word = .mmax w → x.1.team? c.g.team = some (c.t.mmaTile true w o.frags)) ∧
    (∀ h z w, o.word = .zclr h z w → x.1.team? c.g.team = some (c.t.setTile z.toNat w fun _ => .point 0))) ∧
  (∀ (s : State) i a, s.appends[i]? = some a → s.appendReady i a = true →
    let x := match s.group? a.group with
      | some g => s.unitCheck a.group g.team a.pc (s.appendReads a.slot a.table a.sig)
      | none => s
    let r := appendRun a.slot a.table a.sig a.token ({ x with appends := x.appends.eraseIdx i }, a.time)
    exec (.coveAppend i) s = .next ((r.1.raiseTide a.group r.2).modGroup a.group fun g => { g with xfers := g.xfers - 1 })) ∧
  (∀ (s : State) i o x p act dest cap sigs t, s.ops[i]? = some o → o.kind = .gather x p act dest cap sigs → o.group ∉ s.runs →
    (∀ k, (s.lineAt k).comm = none) → s.team? o.team = some t → dest + 4 * (cap + 1) * sigs.length ≤ 2 ^ 54 →
    let r := gatherLists x sigs (s.unitCheck o.group o.team o.pc
      (x.place x.status :: sigs.zipIdx.flatMap fun e => s.bucketReads x e.2 e.1), o.time)
    let st := if isLost (x.place x.status) then 0 else s.natAt (s.fwd (x.place x.status)) 4
    let dense := x.thresh < (r.2.map List.length).sum ∨ (∃ l ∈ r.2, cap < l.length) ∨
      ∃ k < r.2.length, st.testBit k = true
    ∃ u t', exec (.gatherCompletion i) s = .next u ∧ u.team? o.team = some t' ∧ (t'.tag o.tag).st = .set ∧
      (dense → x.traps = true →
        (t'.tag o.tag).denses = (t.tag o.tag).denses ++ [(s.group? o.group).map Group.idx]) ∧
      (¬dense ∨ x.traps = false → (t'.tag o.tag).denses = (t.tag o.tag).denses) ∧ (dense → u.mem = s.mem) ∧
      ∀ g, s.group? o.group = some g → ∃ g', u.group? o.group = some g' ∧ g'.v = g.v ∧ g'.s = g.s ∧
        ∀ l ∈ lanesOf act, p < 8 → (dense → sget 0 g'.p (32 * p + l) = 0) ∧ (¬dense → sget 0 g'.p (32 * p + l) = 1)) ∧
  (∀ (s : State) i o x t next last full, s.ops[i]? = some o → o.kind = .clear x t next last full →
    (last ≤ next → exec (.bucketClear i) s = .next (s.endOp i o false)) ∧
    (next < last → (∀ k, (s.lineAt k).comm = none) → ∃ u, exec (.bucketClear i) s = .next u ∧
      (full = false ∨ next + 1 ≠ last → isLost (x.entry t next) = false →
        u.natAt (s.fwd (x.entry t next)) 8 = 0x7FFFFFFF7FFFFFFF)))) ∧
  ((∀ (s : State) r, r.kind = .cinit → let loc := r.pa % 2 ^ 52 / 16 * 16
    (∀ k, (s.lineAt k).comm = none) → ∃ t, exec (.sealHomeOperation r) s = .next t ∧
      t.natAt (s.fwd loc) 16 = r.gen.toNat * 2 ^ 48 ∧
      ∀ p, (p < s.fwd loc ∨ s.fwd loc + 16 ≤ p) → t.byteAt p = s.byteAt p) ∧
  (∀ (s : State) r, exec (.sealHomeOperation r) s = .next (s.sealRun none (fun _ => r.kind) (fun _ => r.winner.toNat) 0
    r.tidemark [⟨0, r.pa % 2 ^ 52 / 16 * 16, 0, r.gen.toNat⟩] none none (decide (r.kind = .cinit))).1) ∧
  (∀ (s : State) core b rest, noticeFor core s.bumps = some (b, rest) → (s.coreAt core).asleep = none → ∃ t,
    exec (.sealEraNotice core) s = .next t ∧ t.bumps = rest ∧ t.mem = s.mem ∧
    ∀ e ∈ (t.coreAt core).sealed, e.2.home = s.host.number.toNat → e.2.era = b.era) ∧
  (∀ (s : State) i b, s.bumps[i]? = some b → b.cores.length < b.acks →
    (b.acks = 1 → exec (.sealEraAcknowledgement i) s = .next ({ s with bumps := s.bumps.eraseIdx i }.bumpDone b)) ∧
    (b.acks ≠ 1 → exec (.sealEraAcknowledgement i) s =
      .next { s with bumps := setAt s.bumps i { b with acks := b.acks - 1 } })))

/-! ## The distributor and the host -/

/-- R287 to R293, R295, R298, R310: the distributor's control, its FIFO, its harts' accesses and the packets it reads: each
event completes with its effect. The harts' atomic accesses and their instruction word (ADDI, one of all) are those of the
RISC-V architecture that R287 names, PRESUMED, as is that a hart goes on without a LOAD (notes/assumptions/118); the launch tide time
of a packet, the log of 0 records, that commands and accesses of halted harts are dropped, and that LOAD copies the payload to the
SRAM's address 0 and owes its RELOAD record while the log is full, are the model's readings (notes/assumptions/61, 68, 84, 82). In
low-water mode the distributor does not run (R373). -/
def Obligations.DistributorEvents : Prop :=
  (∀ (s : State) hart, s.hartsOn = true → hart < 8 → (hart = 0 → s.dist.fallback = false) →
    (s.dist.fifo = [] →
      exec (.fifoPop hart) s = .next (s.modHost fun h => { h with hartOut := leBytes 8 0, hartFault := false })) ∧
    (∀ e r, s.dist.fifo = e :: r → ∃ t, exec (.fifoPop hart) s = .next t ∧ t.host.hartOut = leBytes 8 e.e.toNat ∧
      t.host.hartFault = false ∧
      (e.who = none → NoneHeld s → t.mem = s.mem ∧ t.dist.fifo ++ t.dist.held = r ++ s.dist.held))) ∧
  (∀ s : State, s.hartsOn = true → s.dist.fallback = true → exec (.fifoPop 0) s = exec (.fifoPop 0)
    (s.modDist fun d => { d with fallback := false, fifo := d.aside ++ d.fifo, aside := [] })) ∧
  (∀ s : State, s.hartsOn = true → s.dist.fifo ≠ [] → s.logFull = false → ∃ t, exec .fifoWatchdog s = .next t ∧
    t.dist.watchdog = true ∧ t.dist.fallback = true ∧ t.hartsOn = false ∧ t.teams = s.teams ∧
    ((∀ k, Calm s k) → t.groups = s.groups) ∧ (s.dist.logCap ≠ 0 → t.dist.logWr = s.dist.logWr + 1)) ∧
  (∀ s : State, s.host.lowWater = true →
    ∀ i, i ∈ ([.distRun, .distQuiesce, .quiescenceReached, .distLoad] : List Instr) ∨ (∃ v, i = .distHostreq v) ∨
      (∃ v, i = .distLogrd v) ∨ (∃ q, i = .packetRead q) → exec i s = .next s) ∧
  (∀ s : State, s.host.lowWater = false → let r := s.dist.run || s.dist.imageOk
    let x := s.modDist fun d => { d with run := r, quiesce := false, quiesced := d.quiesced && !r }
    (x.hartsOn = false ∨ s.dist.loaded = false → exec .distRun s = .next x) ∧
    (x.hartsOn = true → s.dist.loaded = true → ∃ t, exec .distRun s = .next t ∧ t.mem = s.mem ∧ t.dist.sram = s.dist.sram ∧
      t.dist.loaded = false ∧ ∀ h, h < 8 → (t.hart h).run = true ∧ (t.hart h).pc = 0 ∧
        (t.hart h).get 10 = BitVec.ofNat 64 h)) ∧
  (∀ s : State, s.host.lowWater = false →
    exec .distQuiesce s = .next (s.modDist fun d => { d with quiesce := true })) ∧
  (∀ s : State, s.host.lowWater = false → s.dist.quiesce = true ∨ s.dist.run = false → s.dist.quiesced = false →
    (∀ h, h < 8 → (s.mech h).busy = false) → ∃ t, exec .quiescenceReached s = .next t ∧ t.dist.quiesced = true ∧
      t.dist.fallback = true ∧ t.mem = s.mem ∧ t.groups = s.groups) ∧
  (∀ s : State, s.host.lowWater = false → Settled s → let a := s.dist.ucode.toNat
    let size := s.natAt (a + 4) 4
    let good := s.natAt a 4 = 0x4C4E4C53 ∧ size ≤ 524272 ∧ crc32 (s.bytesAt (a + 16) size) = s.wordAt (a + 8) ∧
      a % 4096 = 0 ∧ s.ownPackage a = true
    (good → ∃ t, exec .distLoad s = .next t ∧ t.dist.imageOk = true ∧ t.mem = s.mem ∧
      (t.hartsOn = true → ∀ h, h < 8 → (t.hart h).run = true ∧ (t.hart h).pc = 0 ∧ (t.hart h).get 10 = BitVec.ofNat 64 h) ∧
      ∀ k, sget 0 t.dist.sram k = if k < size then s.byteAt (a + 16 + k) else sget 0 s.dist.sram k) ∧
    (¬good → ∃ t, exec .distLoad s = .next t ∧ t.dist.imageOk = s.dist.imageOk ∧ t.dist.sram = s.dist.sram ∧
      (s.logFull = false → s.dist.logCap ≠ 0 → t.dist.logWr = s.dist.logWr + 1))) ∧
  (∀ (s : State) v, s.host.lowWater = false → s.dist.fifo.length < 256 → s.dist.held = [] → exec (.distHostreq v) s = .next
    (s.modDist fun d => { d with fifo := d.fifo ++ [⟨BitVec.ofNat 64 (6 * 2 ^ 60 + v.toNat % 2 ^ 60), none, none⟩] })) ∧
  (∀ (s : State) v, s.host.lowWater = false → s.dist.owed = 0 → let x := s.modDist fun d => { d with logRd := v }
    (NoneHeld s → exec (.distLogrd v) s = .next x) ∧ ∀ h, OnlyHeld s h → exec (.distLogrd v) s = .next (x.runCmd h)) ∧
  (∀ (s : State) q, s.host.lowWater = false → s.queueRead q = true →
    (s.qcbBad q = true → exec (.packetRead q) s = .next (s.hwWrite (s.qcb q) (leBytes 4 3))) ∧
    (s.qcbBad q = false → s.unread q = true → s.logFull = false → Settled s →
      let rd := s.natAt (s.qcb q + 24) 8
      let addr := s.natAt (s.qcb q + 8) 8 + 256 * (rd % s.natAt (s.qcb q + 20) 4)
      let r := (s.hwWrite (s.qcb q + 40) (leBytes 8 s.distClock)).readSpan addr 256 0
      let x := r.1.hwWrite (s.qcb q + 24) (leBytes 8 ((rd + 1) % 2 ^ 64))
      let p := parsePacket q addr r.2.2
      (x.packetReason p r.2.2 = none → ∃ t, exec (.packetRead q) s = .next t ∧ t.mem = x.mem ∧
        sfind t.dist.packets s.dist.nextPid = some { pk := p, arrival := s.distClock, tide := x.launchTide } ∧
        t.dist.nextPid = s.dist.nextPid + 1) ∧
      ∀ k, x.packetReason p r.2.2 = some k → exec (.packetRead q) s = .next (x.refusePacket p k))) ∧
  (∀ (s : State) hart (a : DWord) n bs, s.hartsOn = true → hart < 8 →
    (a.toNat + n ≤ 0x80000 → exec (.hartDeviceAccess hart a (.load n)) s = .next (s.modHost fun h => { h with
      hartOut := (List.range n).map fun i => sget 0 s.dist.sram (a.toNat + i), hartFault := false })) ∧
    (a.toNat + bs.length ≤ 0x80000 → ∃ t, exec (.hartDeviceAccess hart a (.store bs)) s = .next t ∧ t.mem = s.mem ∧
      t.host.hartFault = false ∧ ∀ k, sget 0 t.dist.sram k =
        if a.toNat ≤ k ∧ k < a.toNat + bs.length then bs.getD (k - a.toNat) 0 else sget 0 s.dist.sram k) ∧
    (s.hartPlace a.toNat n = .out →
      exec (.hartDeviceAccess hart a (.load n)) s = .next (s.modHost fun h => { h with hartFault := true, hartOut := [] })) ∧
    (s.hartPlace a.toNat bs.length = .out →
      exec (.hartDeviceAccess hart a (.store bs)) s = .next (s.modHost fun h => { h with hartFault := true, hartOut := [] })) ∧
    (∀ pa, s.hartPlace a.toNat n = .mem pa → Settled s → ∃ t, exec (.hartDeviceAccess hart a (.load n)) s = .next t ∧
      t.mem = s.mem ∧ t.host.hartFault = false ∧ t.host.hartOut = s.bytesAt pa n) ∧
    (∀ pa, s.hartPlace a.toNat bs.length = .mem pa → Settled s →
      ∃ t, exec (.hartDeviceAccess hart a (.store bs)) s = .next t ∧ t.host.hartFault = false ∧
        (∀ i, i < bs.length → t.byteAt (pa + i) = bs.getD i 0) ∧
        ∀ loc, (loc < pa ∨ pa + bs.length ≤ loc) → t.byteAt loc = s.byteAt loc)) ∧
  (∀ (s : State) hart (a : DWord) (wide : Bool) (v : DWord) pa, let n := if wide then 8 else 4
    let old := s.natAt pa n
    let m := 2 ^ (8 * n)
    s.hartsOn = true → hart < 8 → s.hartPlace a.toNat n = .mem pa → Settled s →
    (∀ op, ∃ t, exec (.hartDeviceAccess hart a (.amo op wide v)) s = .next t ∧ t.host.hartOut = leBytes n old ∧
      (op = .swap → t.natAt pa n = v.toNat % m) ∧ (op = .add → t.natAt pa n = (old + v.toNat) % m) ∧
      ∀ loc, (loc < pa ∨ pa + n ≤ loc) → t.byteAt loc = s.byteAt loc) ∧
    (∃ t u, exec (.hartDeviceAccess hart a (.lr wide)) s = .next t ∧ t.mem = s.mem ∧ t.host.hartOut = leBytes n old ∧
      exec (.hartDeviceAccess hart a (.sc wide v)) t = .next u ∧ u.host.hartOut = leBytes 8 0 ∧ u.natAt pa n = v.toNat % m) ∧
    ((s.hart hart).resv = none → ∃ t, exec (.hartDeviceAccess hart a (.sc wide v)) s = .next t ∧
      t.host.hartOut = leBytes 8 1 ∧ t.mem = s.mem)) ∧
  (∀ (s : State) hart a, s.hartsOn = true → hart < 8 → let k := s.hart hart
    (k.run = false → exec (.hartDeviceAccess hart a .step) s = .next s) ∧
    (∀ rd rs (imm : BitVec 12), k.run = true → 0 < rd → rd < 32 → rs < 32 → k.pc.toNat + 4 ≤ 0x80000 →
      leNat ((List.range 4).map fun i => sget 0 s.dist.sram (k.pc.toNat + i)) = rvI 0x13 0 rd rs imm.toNat →
      ∃ t, exec (.hartDeviceAccess hart a .step) s = .next t ∧ t.mem = s.mem ∧ (t.hart hart).pc = k.pc + 4 ∧
        (t.hart hart).get rd = k.get rs + imm.signExtend 64))

/-- R299 to R304, R310 to R314, R317: the commands of the distributor's harts: a block that is BUSY takes none; the outcome of
each where it is performed, the waits for earlier commands on the same cores, and the answers that waited; and what the fallback
placer does. The model's readings are: that halted harts give no command (notes/assumptions/84), the packet a PLACE finds (70), the log of 0
records (68), room for a whole cluster's records (74), RESUME's areas (78), the team an ANSWER reaches (80, 127), what is MALFORMED
(77), the ABORT of a whole cluster (65), the wait while the cores are halted (128), which commands hold others back (144) and that a
fence does (145), the refusal for want of handles (135), and the placer's choices (81, 124, 139). -/
def Obligations.MechanismCommands : Prop :=
  (∀ (s : State) hart a b c op i, 8 ≤ hart ∨ s.hartsOn = false ∨ (s.mech hart).busy = true →
    i ∈ ([.place hart a b c, .preempt hart a b, .resume hart a b, .abort hart a b, .query hart a, .answer hart a b,
      .invalidCommand hart op] : List Instr) → exec i s = .next s) ∧
  (∀ (s : State) hart, s.mustWait hart = true ↔ let m := s.mech hart
    (s.host.tripped = true ∧ m.cores ≠ []) ∨ ∃ k ∈ m.cores, (∃ c ∈ s.dist.compacts, c.core = k) ∨ HoldsBack s k m.order ∨
      ∃ f ∈ s.dist.fences, f.1 = k ∧ f.2.2 < m.order) ∧
  (∀ (s : State) hart a b c, mayCommand s hart →
    (∀ e ∈ ([(.place hart a b c, 1, [a, b, c]), (.preempt hart a b, 2, [a, b]), (.resume hart a b, 3, [a, b]),
        (.abort hart a b, 4, [a, b]), (.query hart a, 5, [a])] : List (Instr × Nat × List DWord)),
      let x := commanded s hart e.2.1 e.2.2
      x.mustWait hart = true → ∃ t, exec e.1 s = .next t ∧ (t.mech hart).busy = true ∧ (t.mech hart).held = true ∧
        t.mem = s.mem ∧ t.teams = s.teams) ∧
    ((commanded s hart 5 [a]).mech hart).cores = [a.toNat % 512] ∧
    ∀ u, s.team? (a.toNat % 2 ^ 15) = some u →
      ((commanded s hart 2 [a, b]).mech hart).cores = (s.clusterOf u.lead).map fun e => e.2.core) ∧
  (∀ (s : State) hart a b c, commands s hart 1 [a, b, c] fun x =>
    let first := b.toNat % 2 ^ 32
    let origin := b.toNat / 2 ^ 32 % 512
    let base := b.toNat / 2 ^ 42 % 4
    let found := x.dist.packets.find? fun e =>
      decide (e.2.pk.addr = a.toNat) && decide (e.2.pk.queue = c.toNat % 4096) && x.clusterReady e.2 first
    (x.queueActive (c.toNat % 4096) = false ∨ found = none →
      ∃ t, exec (.place hart a b c) s = .next t ∧ CommandEnds t hart 10 0 ∧ t.mem = s.mem ∧ t.teams = s.teams) ∧
    (∀ pid r, x.queueActive (c.toNat % 4096) = true → found = some (pid, r) →
      (x.logRoom r.pk.cluster = false →
        exec (.place hart a b c) s = .next (x.mechHold hart (some (pid, first)))) ∧
      (x.logRoom r.pk.cluster = true →
        (∀ k, x.rooms r.pk origin base = .no k →
          ∃ t, exec (.place hart a b c) s = .next t ∧ CommandEnds t hart k 0 ∧ t.teams = s.teams) ∧
        (∀ k cores, x.rooms r.pk origin base = .frag k cores →
          ((s.mech hart).retried = true →
            ∃ t, exec (.place hart a b c) s = .next t ∧ CommandEnds t hart k 0 ∧ t.teams = s.teams) ∧
          ((s.mech hart).retried = false → ∃ t, exec (.place hart a b c) s = .next t ∧ (t.mech hart).busy = true ∧
            (t.mech hart).held = true ∧ t.teams = s.teams ∧ t.mem = s.mem ∧
            t.dist.compacts = s.dist.compacts ++ cores.map fun k => ⟨k, some hart, pid, first⟩)) ∧
        (∀ rooms lead, x.rooms r.pk origin base = .ok rooms → x.freeHandles r.pk.cluster = some lead →
          ∃ t, exec (.place hart a b c) s = .next t ∧ CommandEnds t hart 0 lead ∧ ∀ k m, rooms[k]? = some m → ∃ u,
            t.team? (lead + k) = some u ∧ u.pid = pid ∧ u.index = first + k ∧ u.rank = k ∧ u.lead = lead ∧
            u.core = m.core ∧ u.regAt = m.regAt ∧ u.granule = m.granule ∧ u.tileAt = m.tileAt ∧ u.life = .run)))) ∧
  (∀ (s : State) hart a b u pk, commands s hart 2 [a, b] fun x =>
    x.team? (a.toNat % 2 ^ 15) = some u → x.packet? u.pid = some pk → u.life = .run → (s.mech hart).who = none →
    (b.toNat % 256 ≠ 13 → b.toNat % 256 ≠ 14 →
      ∃ t, exec (.preempt hart a b) s = .next t ∧ CommandEnds t hart 8 0 ∧ t.mem = s.mem) ∧
    (b.toNat % 256 = 13 ∨ b.toNat % 256 = 14 → x.logRoom pk.cluster = true →
      ∃ t, exec (.preempt hart a b) s = .next t ∧ (t.mech hart).busy = true ∧
        (t.mech hart).teams = (x.clusterOf u.lead).map (fun e => (e.2.pid, e.2.index)) ∧
        ∀ h v, x.team? h = some v → v.lead = u.lead →
          ∃ v', t.team? h = some v' ∧ v'.life = .saving (some hart) (b.toNat % 256) ∧ v'.stopped = none)) ∧
  (∀ (s : State) hart a b, commands s hart 3 [a, b] fun x =>
    let origin := b.toNat / 2 ^ 32 % 512
    let base := b.toNat / 2 ^ 42 % 4
    (x.teamOfArea a.toNat isSaved = none →
      ∃ t, exec (.resume hart a b) s = .next t ∧ CommandEnds t hart 10 0 ∧ t.mem = s.mem) ∧
    (∀ pid first r, x.teamOfArea a.toNat isSaved = some (pid, first) → sfind x.dist.packets pid = some r →
      first % r.pk.cluster = 0 → (x.areasOk r first = false →
        ∃ t, exec (.resume hart a b) s = .next t ∧ CommandEnds t hart 8 0 ∧ t.mem = s.mem) ∧
      (∀ rooms lead, x.areasOk r first = true → x.logRoom r.pk.cluster = true → x.rooms r.pk origin base = .ok rooms →
        x.freeHandles r.pk.cluster = some lead → (r.savedRanks first).length = r.pk.cluster →
        ∃ t, exec (.resume hart a b) s = .next t ∧ CommandEnds t hart 0 lead ∧
          ∀ k m, k < r.pk.cluster → rooms[k]? = some m → ∃ u, t.team? (lead + k) = some u ∧ u.pid = pid ∧
            u.index = first + k ∧ u.core = m.core ∧ u.life = .run))) ∧
  (∀ (s : State) hart a b, commands s hart 4 [a, b] fun x =>
    (x.abortTarget (x.mech hart) = none →
      ∃ t, exec (.abort hart a b) s = .next t ∧ CommandEnds t hart 10 0 ∧ t.mem = s.mem) ∧
    (∀ pid i r, x.abortTarget (x.mech hart) = some (pid, i) → sfind x.dist.packets pid = some r →
      let first := i / r.pk.cluster * r.pk.cluster
      (∀ y, sfind r.teams first = some (.ended y) →
        ∃ t, exec (.abort hart a b) s = .next t ∧ CommandEnds t hart 10 0 ∧ t.mem = s.mem) ∧
      (x.logRoom r.pk.cluster = true →
        (∀ h u, sfind r.teams first = some (.resident h) → x.team? h = some u → u.life = .run →
          ∃ t, exec (.abort hart a b) s = .next t ∧ (t.mech hart).busy = true ∧
            (t.mech hart).teams = (x.clusterOf u.lead).map (fun e => (e.2.pid, e.2.index)) ∧
            ∀ h' v, x.team? h' = some v → v.lead = u.lead →
              ∃ v', t.team? h' = some v' ∧ v'.life = .aborting (some hart) 0) ∧
        ((sfind r.teams first = none ∨ ∃ y, sfind r.teams first = some (.saved y)) →
          ∃ t, exec (.abort hart a b) s = .next t ∧ CommandEnds t hart 0 0 ∧
            ∀ k, k < r.pk.cluster → TeamIs t pid (first + k) fun y => y = .ended true)))) ∧
  (∀ (s : State) pk first, (∃ k, k < pk.cluster ∧ s.depsSay pk (first + k) = .f) → s.abortReason pk first = (10, s)) ∧
  (∀ (s : State) hart (a : DWord), commands s hart 5 [a] fun _ => let core := a.toNat % 512
    (96 ≤ coreIn core → ∃ t, exec (.query hart a) s = .next t ∧ CommandEnds t hart 8 0 ∧ t.mem = s.mem) ∧
    (coreIn core < 96 → ∃ t, exec (.query hart a) s = .next t ∧ CommandEnds t hart 0 0 ∧ t.mem = s.mem ∧
      (∀ i, i < 4 → (t.mech hart).res0.toNat / 2 ^ (4 * i) % 16 = 12 - s.slotsOn core i) ∧
      (t.mech hart).res1 = BitVec.ofNat 64 ((s.freeGranules core).1 + (s.freeGranules core).2 * 2 ^ 9 +
        (s.tilesFree core).length * 2 ^ 18 + (s.coreAt core).carve * 2 ^ 24 + boolBit (s.coreAt core).fenced * 2 ^ 27))) ∧
  (∀ (s : State) hart (a b : DWord), mayCommand s hart → let x := commanded s hart 6 [a, b]
    let e := a.toNat
    (e / 2 ^ 60 ≠ 3 → ∃ t, exec (.answer hart a b) s = .next t ∧ CommandEnds t hart 8 0 ∧ t.mem = s.mem) ∧
    (e / 2 ^ 60 = 3 → x.answerTo (reqHandle e) (reqTag e) = none →
      ∃ t, exec (.answer hart a b) s = .next t ∧ CommandEnds t hart 10 0 ∧ t.mem = s.mem) ∧
    (∀ h u pk, e / 2 ^ 60 = 3 → x.answerTo (reqHandle e) (reqTag e) = some (.team h) → x.team? h = some u →
      x.packet? u.pid = some pk → reqBad pk e = false →
      (∀ w reason, u.life = .saving w reason →
        exec (.answer hart a b) s = .next (x.mechHold hart (some (u.pid, u.index)))) ∧
      (u.life = .run → ∃ t v, exec (.answer hart a b) s = .next t ∧ CommandEnds t hart 0 0 ∧
        t.natAt (u.scratch (reqSlot e)) 8 = b.toNat ∧ t.team? h = some v ∧ (v.tag (reqTag e)).st = .set))) ∧
  (∀ (s : State) hart op, mayCommand s hart → op = 0 ∨ 7 ≤ op.toNat →
    ∃ t, exec (.invalidCommand hart op) s = .next t ∧ CommandEnds t hart 8 0 ∧ t.mem = s.mem) ∧
  (∀ (s : State) hart pid i r, (s.mech hart).held = true → (s.mech hart).op = 6 → (s.mech hart).who = some (pid, i) →
    sfind s.dist.packets pid = some r →
    (∀ y, sfind r.teams i = some (.saved y) →
      ∃ t, exec (.deferredAnswer hart) s = .next t ∧ CommandEnds t hart 0 0 ∧ t.teams = s.teams) ∧
    (∀ h u, sfind r.teams i = some (.resident h) → s.team? h = some u → u.life = .run → let e := (s.mech hart).opd 0
      ∃ t v, exec (.deferredAnswer hart) s = .next t ∧ CommandEnds t hart 0 0 ∧
        t.natAt (u.scratch (reqSlot e)) 8 = (s.mech hart).opd 1 ∧ t.team? h = some v ∧ (v.tag (reqTag e)).st = .set) ∧
    (∀ y, sfind r.teams i = some (.ended y) →
      ∃ t, exec (.deferredAnswer hart) s = .next t ∧ CommandEnds t hart 10 0 ∧ t.mem = s.mem)) ∧
  (∀ s : State, (s.dist.fallback = false ∨ s.logFull = true ∨ s.host.lowWater = true ∨ s.host.tripped = true) →
    exec .fallbackPlacement s = .next s) ∧
  (∀ s : State, s.dist.fallback = true → s.logFull = false → s.host.lowWater = false → s.host.tripped = false →
    (∀ e r, s.dist.fifo = e :: r → e.e.toNat / 2 ^ 60 = 6 → NoneHeld s → ∃ t, exec .fallbackPlacement s = .next t ∧
      t.dist.aside = s.dist.aside ++ [e] ∧ t.dist.fifo ++ t.dist.held = r ++ s.dist.held ∧ t.mem = s.mem) ∧
    (∀ e r, s.dist.fifo = e :: r → e.e.toNat / 2 ^ 60 = 2 → ∃ t, exec .fallbackPlacement s = .next t ∧
      (NoneHeld s → t.dist.offered = s.dist.offered ++ e.core.toList)) ∧
    (∀ e r pid i k h u, s.dist.fifo = e :: r → e.e.toNat / 2 ^ 60 = 3 → e.who = some (pid, i) →
      sfind s.dist.packets pid = some k → sfind k.teams i = some (.resident h) → s.team? h = some u → u.life = .run →
      NoneHeld s → ∃ t v k', exec .fallbackPlacement s = .next t ∧
        t.natAt (u.scratch (reqSlot e.e.toNat)) 8 = k.nextItem.toNat ∧ t.team? h = some v ∧
        (v.tag (reqTag e.e.toNat)).st = .set ∧ sfind t.dist.packets pid = some k' ∧ k'.itemsNext = k.itemsNext + 1) ∧
    (∀ x, s.dist.fifo = [] → s.dist.nq ≠ 0 → s.dist.logCap ≠ 0 → s.abortNext = some x →
      exec .fallbackPlacement s = .next x) ∧
    (∀ x, s.dist.fifo = [] → s.dist.nq ≠ 0 → s.dist.logCap ≠ 0 → s.abortNext = none → s.placeNext = some x →
      exec .fallbackPlacement s = .next x))

/-- R299, R302, R305 to R307, R311, R313, R343 to R345: the ends of residences: a drained cluster that has ended, was aborted or is
SAVING leaves its cores, with its entries in the FIFO, its completion event or its save area; the bytes of an event, of a decision
record and of the area; and a drained core is compacted. The model's readings are: that a cluster's teams end together
(notes/assumptions/65), the flags of an abort's event (67), what a save area does not hold (79), and where a compaction moves each
block (73, 125). -/
def Obligations.TeamEnds : Prop :=
  (∀ i seq code flags, eventBytes i seq code flags =
    leBytes 4 i ++ leBytes 4 seq.toNat ++ leBytes 4 code.toNat ++ leBytes 4 flags) ∧
  (∀ (s : State) h u pk, s.team? h = some u → s.packet? u.pid = some pk → NoneHeld s →
    (∀ e ∈ s.clusterOf u.lead, s.drained e.1 = true) →
    (u.life = .ending → ∃ t, exec (.completionEventWrite h) s = .next t ∧ ∀ e ∈ s.clusterOf u.lead,
      t.team? e.1 = none ∧ TeamIs t e.2.pid e.2.index (fun x => x = .ended false) ∧
      Pushed t (BitVec.ofNat 64 (2 * 2 ^ 60 + (e.1 % 2 ^ 15 + 0 * 2 ^ 15 + e.2.core * 2 ^ 16) % 2 ^ 60))) ∧
    (∀ a b, u.life = .aborting a b → ∃ t, exec (.abortEnd h) s = .next t ∧ ∀ e ∈ s.clusterOf u.lead,
      t.team? e.1 = none ∧ TeamIs t e.2.pid e.2.index (fun x => x = .ended true) ∧
      Pushed t (BitVec.ofNat 64 (2 * 2 ^ 60 + (e.1 % 2 ^ 15 + 1 * 2 ^ 15 + e.2.core * 2 ^ 16) % 2 ^ 60))) ∧
    (∀ a reason, u.life = .saving a reason → ∃ t, exec (.contextSave h) s = .next t ∧ ∀ e ∈ s.clusterOf u.lead,
      t.team? e.1 = none ∧
      TeamIs t e.2.pid e.2.index (fun x => ∃ y, x = .saved y ∧ (y.host = true ↔ reason = 13)) ∧
      Pushed t (BitVec.ofNat 64 (7 * 2 ^ 60 + e.1 % 2 ^ 60)))) ∧
  (∀ (s : State) h u pk i flags, s.team? h = some u → s.packet? u.pid = some pk → s.clusterOf u.lead = [(h, u)] →
    s.drained h = true → NoneHeld s → Settled s → (s.coreAt u.core).table = [] →
    (u.life = .ending ∧ i = .completionEventWrite h ∧ flags = 1) ∨
      ((∃ a b, u.life = .aborting a b) ∧ pk.poolEnt = 0 ∧ u.report = none ∧ i = .abortEnd h ∧ flags = 4) →
    (pk.events = 0 → ∃ t, exec i s = .next t ∧ t.mem = s.mem) ∧
    ∀ x tide loc, pk.events ≠ 0 → pk.events.toNat % 16 = 0 →
      s.hwTr 1 (pk.eventVa u.index) (s.teamTide u) = .ok (x, tide, loc) → ∃ t, exec i s = .next t ∧
        t.bytesAt loc 16 = leBytes 4 u.index ++ leBytes 4 pk.seq.toNat ++ leBytes 4 u.code.toNat ++
          leBytes 4 (flags + if u.early then 2 else 0)) ∧
  (∀ (s : State) h u pk w reason, s.team? h = some u → s.packet? u.pid = some pk → s.clusterOf u.lead = [(h, u)] →
    s.drained h = true → NoneHeld s → u.life = .saving w reason →
    let r := s.readSpan (u.scratch 0) (2048 * pk.granules) (max (s.teamTide u) (s.granTide u.core u.granule pk.granules))
    ∃ t, exec (.contextSave h) s = .next t ∧
      t.mem = (r.1.vStore (pk.ctxVa u.index) (r.1.areaBytes pk u) r.2.1).1.mem) ∧
  (∀ (s : State) (pk : Packet) (t : Team), t.gids.length = pk.groups → pk.acc % 8 = 0 →
    (∀ k ∈ t.gids, ∃ g, s.group? k = some g ∧ g.unpop.stack.length ≤ 16) → (∀ n, (t.cove n).image.length ≤ 128) →
    let bs := s.areaBytes pk t
    let image := 4096 + pk.groups * (4096 + 128 * pk.regs)
    let tiles := image + 2048 * pk.granules
    (pk.poolEnt = 0 → bs.length = tiles + 1024 * pk.acc + 128 * pk.acc) ∧
    natOf bs 0 4 = 1 ∧ natOf bs 4 4 = pk.ctxSize / 4096 % 2 ^ 32 ∧ natOf bs 8 8 = pk.addr % 2 ^ 64 ∧
    natOf bs 0x10 4 = t.index % 2 ^ 32 ∧ natOf bs 0x18 4 = t.rank % 2 ^ 32 ∧
    (∀ n, n < 16 → let b := sget ({} : Barrier) t.bars n
      natOf bs (0x100 + 32 * n) 4 = b.ph.toNat ∧ natOf bs (0x104 + 32 * n) 4 = b.count % 2 ^ 32 ∧
      natOf bs (0x108 + 32 * n) 4 = b.arrived % 2 ^ 32 ∧ natOf bs (0x110 + 32 * n) 8 = b.tide % 2 ^ 64) ∧
    (∀ n, n < 16 → let q := t.queue n
      natOf bs (0x300 + 16 * n) 4 = q.base % 2 ^ 32 ∧ natOf bs (0x304 + 16 * n) 4 = (q.depth + q.kind * 2 ^ 16) % 2 ^ 32 ∧
      natOf bs (0x308 + 16 * n) 4 = q.rd % 2 ^ 32 ∧ natOf bs (0x30C + 16 * n) 4 = q.wr % 2 ^ 32) ∧
    (∀ n, n < 64 → natOf bs (0x400 + 16 * n) 8 = (match (t.tag n).st with
        | .clear => 0
        | .pending => 1
        | .set => 2) + (if (t.tag n).denses = [] then 0 else 4) ∧ natOf bs (0x408 + 16 * n) 8 = (t.tag n).time % 2 ^ 64) ∧
    (∀ n, n < 4 → natOf bs (0x800 + 256 * n) 8 = (t.cove n).addr.toNat ∧
      natOf bs (0x808 + 256 * n) 1 = if (t.cove n).loaded then 1 else 0) ∧
    natOf bs 0xC30 4 = t.pool.length % 2 ^ 32 ∧ natOf bs 0xC34 4 = 0 ∧ natOf bs 0xC38 4 = t.steals.toNat ∧
    (∀ j k g, t.gids[j]? = some k → s.group? k = some g →
      (bs.drop (4096 + j * (4096 + 128 * pk.regs))).take 4096 = g.forSave.record ∧
      ∀ v l, v < pk.regs → l < 32 →
        natOf bs (4096 + j * (4096 + 128 * pk.regs) + 4096 + 128 * v + 4 * l) 4 = (sget 0 g.v (32 * v + l)).toNat) ∧
    (pk.poolEnt = 0 → (∀ k, k < 2048 * pk.granules → bs.getD (image + k) 0 = s.byteAt (t.scratch 0 + k)) ∧
      (∀ z k, z < pk.acc → k < (if t.tileD.getD z true then 256 else 128) →
        natOf bs (tiles + 1024 * z + 4 * k) 4 = (sget 0 t.tiles (256 * z + k)).toNat) ∧
      ∀ k, k < 128 * pk.acc → bs.getD (tiles + 1024 * pk.acc + k) 0 = BitVec.ofNat 8 (t.expByte (k / 1024) (k % 1024)))) ∧
  (∀ x : Group, let g := x.unpop
    let r := x.record
    g.stack.length ≤ 16 →
    r.length = 4096 ∧ natOf r 0 8 = g.pc.toNat ∧ natOf r 8 4 = g.mask.toNat ∧ natOf r 0xC 4 = g.live.toNat ∧
    natOf r 0x10 8 = g.tide % 2 ^ 64 ∧ natOf r 0x18 8 = g.lease.toNat ∧ natOf r 0x20 4 = g.h.toNat ∧
    natOf r 0x24 1 = g.nbmode.toNat ∧ natOf r 0x25 1 % 4 = (if g.hmode then 1 else 0) + (if g.redo then 2 else 0) ∧
    natOf r 0x28 4 = g.depth % 2 ^ 32 ∧ natOf r 0x2C 4 = g.stack.length ∧ natOf r 0x30 8 = g.tvec.toNat ∧
    natOf r 0x38 8 = g.tpc.toNat ∧ natOf r 0x40 8 = g.tcause.toNat ∧ natOf r 0x48 8 = g.tsave.toNat ∧
    natOf r 0x50 4 = g.tmask.toNat ∧ natOf r 0x500 8 = g.mcinfo.toNat ∧ natOf r 0x508 8 = g.mcaddr.toNat ∧
    (∀ l, l < 32 → natOf r (0x60 + 8 * l) 8 = (sget 0 g.taddr l).toNat ∧ natOf r (0x160 + 8 * l) 8 = (sget 0 g.tpte l).toNat ∧
      (∀ k, k < 8 → natOf r (0x260 + 2 * l) 2 / 4 ^ k % 4 = (sget 0 g.p (32 * k + l)).toNat) ∧
      natOf r (0x2C0 + 2 * l) 2 = (sget 0 g.hp (192 + l)).toNat + 4 * (sget 0 g.hp (224 + l)).toNat) ∧
    (∀ k, k < 8 → natOf r (0x2A0 + 4 * k) 4 = (sget 0 g.hs (56 + k)).toNat) ∧
    (∀ n, n < 64 → natOf r (0x300 + 4 * n) 4 = (sget 0 g.s n).toNat) ∧
    ∀ j e, g.stack[j]? = some e → natOf r (0x400 + 16 * j) 16 = e.toNat) ∧
  (∀ (d : Decision) time, let r := d.bytes time
    r.length = 32 ∧ natOf r 0 8 = time % 2 ^ 64 ∧ natOf r 8 2 = d.queue % 2 ^ 16 ∧ natOf r 10 1 = d.kind % 2 ^ 8 ∧
    natOf r 11 1 = d.reason % 2 ^ 8 ∧ natOf r 12 4 = d.seq.toNat ∧ natOf r 16 4 = d.team % 2 ^ 32 ∧
    natOf r 20 2 = d.core % 2 ^ 16 ∧ natOf r 22 1 = d.actor % 2 ^ 8 ∧ natOf r 23 1 = d.sched % 2 ^ 8 ∧
    natOf r 24 8 = d.detail % 2 ^ 64) ∧
  (∀ (s : State) core c, s.dist.compacts.find? (fun c => c.core == core) = some c →
    (∀ e ∈ s.coreTeams core, s.drained e.1 = true) → s.logRoom 1 = true →
    ∃ x : State, x.groups = s.groups ∧ c ∉ x.dist.compacts ∧ (s.dist.logCap ≠ 0 → x.dist.logWr = s.dist.logWr + 1) ∧
      (NoneHeld s → exec (.compaction core) s = .next x) ∧
      (∀ h, OnlyHeld s h → exec (.compaction core) s = .next (x.runCmd h)) ∧
      ∀ h, c.hart = some h → (x.mech h).retried = true)

/-- R203, R341, R342, R349, R350, R352, R353, R355, R360 to R362, R376: the host port: register writes and reads, BAR2 accesses,
invalidations, migration, vector 0, and the links and arbiters. The model's readings are: the registers of low-water mode
(notes/assumptions/85), what a line's move takes along (88), the time of a merge (130), when a credit comes back (117), what a
bump that an access meets does (116), and the abort of a misaligned AtomicOp (140). -/
def Obligations.HostPortEvents : Prop :=
  (∀ (s : State) off wide v, off % (if wide then 8 else 4) ≠ 0 ∨ 0x4000000 ≤ off →
    exec (.registerWrite off wide v) s = .next s.hostAbort) ∧
  (∀ s : State, s.hostAbort = s.modHost fun h => { h with aborted := true, readOut := [] }) ∧
  (∀ (s : State) off len,
    ((len ≠ 4 ∧ len ≠ 8) ∨ off % len ≠ 0 ∨ 0x4000000 ≤ off → exec (.hostRead (.bar0 off) len) s = .next s.hostAbort) ∧
    (off % 8 = 0 → off < 0x4000000 → exec (.hostRead (.bar0 off) 8) s =
      .next (s.modHost fun h => { h with aborted := false, readOut := leBytes 8 (s.bar0 off).toNat })) ∧
    (off % 8 = 0 → off < 0x4000000 → exec (.hostRead (.bar0 off) 4) s =
      .next (s.modHost fun h => { h with aborted := false, readOut := leBytes 4 (s.bar0 off).lo.toNat })) ∧
    (off % 8 = 0 → off < 0x4000000 → exec (.hostRead (.bar0 (off + 4)) 4) s = .next (s.modHost fun h => { h with
      aborted := false, readOut := leBytes 4 ((s.bar0 off).toNat / 2 ^ 32) }))) ∧
  (∀ (s : State) v off, s.host.lowWater = false →
    let plain : List Nat := [0x1008, 0x2000, 0x2008, 0x2010, 0x2018, 0x2020, 0x5008, 0x5010, 0x5018, 0x5020, 0x5028]
    (off ∈ plain → ∃ t, exec (.registerWrite off true v) s = .next t ∧ t.bar0 off = v ∧ t.mem = s.mem ∧
      t.host.aborted = false ∧ ∀ o ∈ plain, o ≠ off → t.bar0 o = s.bar0 o) ∧
    (off ∈ plain → ∃ t, exec (.registerWrite (off + 4) false v) s = .next t ∧
      t.bar0 off = DWord.ofWords v.lo (s.bar0 off).lo) ∧
    (off ∈ plain → ∃ t, exec (.registerWrite off false v) s = .next t ∧
      t.bar0 off = DWord.ofWords (dwordPart (s.bar0 off) 1) v.lo) ∧
    (off = 0x1010 ∨ off = 0x1040 → ∃ t, exec (.registerWrite off true v) s = .next t ∧
      t.bar0 off = if s.dist.quiesced then v else s.bar0 off)) ∧
  (∀ (s : State) off len, let a := s.host.bar2Base.toNat % 2 ^ 40 + off
    (s.host.lowWater = true →
      exec (.hostRead (.bar2 off) len) s = .next (s.modHost fun h => { h with readOut := List.replicate len 0xFF })) ∧
    (s.host.lowWater = false → ∃ t, exec (.hostRead (.bar2 off) len) s = .next t ∧ t.host.readOut.length = len ∧ ∀ i, i < len →
      t.host.readOut.getD i 0 = if a + i < 768 * 2 ^ 30 then t.byteAt (t.fwd (t.localPa (a + i))) else 0xFF)) ∧
  (∀ (s : State) off data, let a := s.host.bar2Base.toNat % 2 ^ 40 + off
    (data.length = 8 → exec (.hostWrite (.bar0 off) data) s = exec (.registerWrite off true (BitVec.ofNat 64 (leNat data))) s) ∧
    (data.length = 4 → exec (.hostWrite (.bar0 off) data) s = exec (.registerWrite off false (BitVec.ofNat 64 (leNat data))) s) ∧
    (data.length ≠ 8 → data.length ≠ 4 → exec (.hostWrite (.bar0 off) data) s = .next s.hostAbort) ∧
    (s.host.lowWater = true → exec (.hostWrite (.bar2 off) data) s = .next s) ∧
    (s.host.lowWater = false → Settled s → ∃ t, exec (.hostWrite (.bar2 off) data) s = .next t ∧
      (∀ i, i < data.length → a + i < 768 * 2 ^ 30 → t.byteAt (s.localPa (a + i)) = data.getD i 0) ∧
      ∀ loc, (∀ i, i < data.length → a + i < 768 * 2 ^ 30 → s.localPa (a + i) ≠ loc) → t.byteAt loc = s.byteAt loc)) ∧
  (∀ (s : State) off wide op, let a := s.host.bar2Base.toNat % 2 ^ 40 + off
    let n := if wide then 8 else 4
    let old := s.natAt (s.localPa a) n
    exec (.hostAtomicop (.bar0 off) wide op) s = .next s.hostAbort ∧
    (op = .cas128 ∨ a % n ≠ 0 → exec (.hostAtomicop (.bar2 off) wide op) s = .next s.hostAbort) ∧
    (op ≠ .cas128 → a % n = 0 → s.host.lowWater = true ∨ 768 * 2 ^ 30 ≤ a → exec (.hostAtomicop (.bar2 off) wide op) s =
      .next (s.modHost fun h => { h with readOut := List.replicate n 0xFF })) ∧
    (op ≠ .cas128 → a % n = 0 → a < 768 * 2 ^ 30 → s.host.lowWater = false → Settled s →
      ∃ t, exec (.hostAtomicop (.bar2 off) wide op) s = .next t ∧ t.host.readOut = leBytes n old ∧
        (∀ v, op = .fetchAdd v → t.natAt (s.localPa a) n = (old + v.toNat) % 2 ^ (8 * n)) ∧
        (∀ v, op = .swap v → t.natAt (s.localPa a) n = v.toNat % 2 ^ (8 * n)) ∧
        ∀ c v, op = .cas c v →
          t.natAt (s.localPa a) n = if old = c.toNat % 2 ^ (8 * n) then v.toNat % 2 ^ (8 * n) else old)) ∧
  (∀ s : State, s.host.lowWater = true → ∀ i, (∃ v, i = .pkgTlbinv v) ∨ (∃ e, i = .migrationLineMove e) ∨
      (∃ link ok dest cls, i = .linkFlit link ok dest cls) ∨ (∃ arb l, i = .ringArbitration arb l) → exec i s = .next s) ∧
  (∀ (s : State) v, s.host.lowWater = false → ∃ t x, exec (.pkgTlbinv v) s = .next t ∧ t.mem = s.mem ∧ t.host.tlbInv = v ∧
    t.tlbis = s.tlbis ++ [x] ∧ x.group = none ∧ ∀ core, ∀ e ∈ (t.coreAt core).tlb,
      levelMeets (v.toNat / 2 ^ 16) (v.toNat % 2 ^ 16) e.level (e.va / 2 ^ levelBits e.level) = false) ∧
  (∀ (s : State) e, let m := sget ({} : Migration) s.host.migration e
    let src := s.localPa (m.src.toNat / 65536 * 65536) + 128 * m.progress
    let dst := s.localPa (m.dst.toNat / 65536 * 65536) + 128 * m.progress
    let x := s.settle (src / 128) 0
    let l := x.lineAt (src / 128)
    s.host.lowWater = false → m.st = 1 → m.progress < 512 → s.lineHeld src = false → ∃ t, exec (.migrationLineMove e) s = .next t ∧
      (∀ i, i < 128 → t.byteAt (dst + i) = x.byteAt (src + i)) ∧
      ((∀ k, Calm s k) → x.mem = s.mem) ∧
      (t.lineAt (dst / 128)).wts = l.wts ∧ (t.lineAt (dst / 128)).rts = l.rts ∧
      (sget {} t.host.migration e).progress = m.progress + 1 ∧
      (sget {} t.host.migration e).st = if m.progress = 511 then 2 else 1) ∧
  (∀ (s : State) link ok (dest : BitVec 12) (cls : BitVec 2), s.host.lowWater = false → link < 18 → cls ≠ 3 →
    let used (x : State) (l : Nat) : Nat := sget 0 x.host.credits (4 * l + cls.toNat)
    let back := s.creditBack link cls.toNat
    (ok = false → exec (.linkFlit link ok dest cls) s = .next
      (s.modHost fun h => { h with replays := sput 0 h.replays link (sget 0 h.replays link + 1) })) ∧
    (ok = true → dest = s.host.number →
      exec (.linkFlit link ok dest cls) s = .next (back.modHost fun h => { h with egress := none })) ∧
    used back link = used s link - 1 ∧
    (ok = true → dest ≠ s.host.number → ∃ t, exec (.linkFlit link ok dest cls) s = .next t ∧ t.mem = s.mem ∧
      ((∃ l ∈ s.linksTo dest.toNat, 0 < back.creditsFree l cls.toNat) → t.host.egress.isSome = true) ∧
      ∀ l, t.host.egress = some l → l < 18 ∧ (sget 0 s.host.routes dest.toNat).getLsbD l = true ∧
        sget false s.host.linksDown l = false ∧ used t l = used back l + 1 ∧ used back l < Config.linkCredits l cls.toNat ∧
        ∀ m ∈ s.linksTo dest.toNat, back.creditsFree m cls.toNat ≤ back.creditsFree l cls.toNat)) ∧
  (∀ (s : State) link, link < 18 → keysUp s.host.routes = true → ∃ t, exec (.linkFailure link) s = .next t ∧
    t.mem = s.mem ∧ ∀ d, t.linksTo d = (s.linksTo d).filter fun l => l != link) ∧
  (∀ (s : State) arb (l : List Head), s.host.lowWater = false → ∃ t, exec (.ringArbitration arb l) s = .next t ∧ t.mem = s.mem ∧
    let a := sget ({} : Arbiter) s.host.arbs arb
    let x := sget ({} : Arbiter) t.host.arbs arb
    let age (h : Head) := sget 0 a.ages h.port
    (l = [] → x.won = none) ∧ (l ≠ [] → ∃ w ∈ l, x.won = some w.port ∧
      (∀ y ∈ l, sget 0 x.ages y.port = if y.port = w.port then 0 else min 63 (age y + 1)) ∧
      ((∃ y ∈ l, age y = 63) → age w = 63 ∧ x.pointer = w.port + 1 ∧
        ((∃ y ∈ l, age y = 63 ∧ a.pointer ≤ y.port) →
          a.pointer ≤ w.port ∧ ∀ y ∈ l, age y = 63 → a.pointer ≤ y.port → w.port ≤ y.port) ∧
        ((∀ y ∈ l, age y = 63 → y.port < a.pointer) → ∀ y ∈ l, age y = 63 → w.port ≤ y.port)) ∧
      ((∀ y ∈ l, age y ≠ 63) → x.pointer = a.pointer ∧ ∀ y ∈ l, y.cls.toNat ≤ w.cls.toNat ∧
        (w.cls = y.cls → age y ≤ age w ∧ (age y = age w → w.port ≤ y.port))))) ∧
  (∀ s : State, exec .vector0HoldoffExpiry s = .next (s.modHost fun h =>
    if s.host.vec0Due then { h with
      vectors := sput 0 h.vectors 0 (sget 0 h.vectors 0 + 1), vec0Due := false, holdoff := true }
    else { h with holdoff := false })) ∧
  (∀ (s : State) v, s.host.lowWater = false → 1 ≤ v.toNat % 2 ^ 16 → ∃ t, exec (.registerWrite 0x30 true v) s = .next t ∧
    t.host.seThresh.toNat = v.toNat % 2 ^ 16 ∧ ((s.cores.map Prod.fst).Nodup → ∀ c k, (c, k) ∈ s.cores → c < 512 →
      coreIn c < 96 → (∀ o, s.fenceWaits c o = false) → v.toNat % 2 ^ 16 < k.soft → (t.coreAt c).fenced = true))

/-- R191, R289, R351, R363 to R368, R372 to R378: management: starts, fences, limits and resets, and the debug stops, flushes,
charges and samples. The model's readings are: the cores that a failing start fences (notes/assumptions/123) and those that are
enough (90), what a trip or a reset drops and a cold reset keeps (89), whether a line is lost (120), the harts' start (118), the
charge of each scheduler (91), and that a fence waits for the commands before it, once for each core, and that what low-water mode
drops starts again as after a warm reset (145). -/
def Obligations.ManagementEvents : Prop :=
  (∀ (s : State) core, s.host.lowWater = true →
    ∀ i ∈ ([.coreFence core, .softErrorCorrected core, .softErrorWindow core, .stopResume core, .debugFlush core, .debugCharge] :
      List Instr), exec i s = .next s) ∧
  (∀ (s : State) core order, s.fenceWaits core order = true ↔
    (∃ c ∈ s.dist.compacts, c.core = core) ∨ HoldsBack s core order) ∧
  (∀ (s : State) core, s.host.lowWater = false → core < 512 → coreIn core < 96 →
    let x := s.fenceWaits core s.nextId
    let due := s.dist.fences.find? fun f => f.1 == core
    let beyond := s.host.seThresh.toNat < (s.coreAt core).soft + 1
    (due = none → (s.coreAt core).fenced = true → exec (.coreFence core) s = .next s) ∧
    (due = none → (s.coreAt core).fenced = false → x = false → ∃ t, exec (.coreFence core) s = .next t ∧
      (t.coreAt core).fenced = true ∧ t.host.replaceReq = true ∧ Pushed t (BitVec.ofNat 64 (8 * 2 ^ 60 + core))) ∧
    (due = none → (s.coreAt core).fenced = false → x = true → ∃ t, exec (.coreFence core) s = .next t ∧ t.cores = s.cores ∧
      t.mem = s.mem ∧ t.dist.fences = s.dist.fences ++ [(core, 2, s.nextId)]) ∧
    (∀ f, due = some f → (s.fenceWaits core f.2.2 = true → exec (.coreFence core) s = .next s) ∧
      (s.fenceWaits core f.2.2 = false → ∃ y : State, (y.coreAt core).fenced = true ∧ f ∉ y.dist.fences ∧ y.teams = s.teams ∧
        (NoneHeld s → exec (.coreFence core) s = .next y) ∧
        ∀ h, OnlyHeld s h → exec (.coreFence core) s = .next (y.runCmd h))) ∧
    (∃ t, exec (.softErrorCorrected core) s = .next t ∧ (t.coreAt core).soft = (s.coreAt core).soft + 1 ∧
      (x = false → (t.coreAt core).fenced = ((s.coreAt core).fenced || decide beyond)) ∧
      (x = true → (t.coreAt core).fenced = (s.coreAt core).fenced ∧ (beyond → due = none → (s.coreAt core).fenced = false →
        t.dist.fences = s.dist.fences ++ [(core, 1, s.nextId)]))) ∧
    (∃ t, exec (.softErrorWindow core) s = .next t ∧ t.coreAt core = { s.coreAt core with soft := 0 } ∧
      ∀ k, k ≠ core → t.coreAt k = s.coreAt k)) ∧
  (∀ (s : State) r, let starting := s.host.ready = false ∧ s.host.lowWater = false
    (¬starting → exec (.start r) s = .next s ∧ exec .startWatchdog s = .next s) ∧
    (starting → ∀ i reason, (i = .startWatchdog ∧ reason = 8 ∨
        i = .start r ∧ r.reason ≠ 0 ∧ reason = r.reason ∨
        i = .start r ∧ r.reason = 0 ∧ coresEnough r.fencedCores = false ∧ reason = 5) →
      ∃ t, exec i s = .next t ∧ t.host.ready = false ∧ t.host.startReason = reason ∧ t.host.starts = s.host.starts + 1 ∧
        (s.host.failedStarts.toNat < 2 → t.host.failedStarts = s.host.failedStarts + 1 ∧ t.host.lowWater = false) ∧
        (2 ≤ s.host.failedStarts.toNat → t.host.failedStarts = 3 ∧ t.host.lowWater = true)) ∧
    (starting → r.reason ≠ 0 → r.reason.toNat < 5 → s.host.failedStarts.toNat < 2 →
      ∃ t, exec (.start r) s = .next t ∧ t.cores = s.cores) ∧
    (starting → 2 ≤ s.host.failedStarts.toNat → ∀ i, (i = .startWatchdog ∨ i = .start r ∧ r.reason ≠ 0) → ∃ t,
      exec i s = .next t ∧ t.runs = [] ∧ t.groups = [] ∧ t.teams = [] ∧ t.ops = [] ∧ t.walks = [] ∧ t.dist.fifo = [] ∧
        t.dist.packets = [] ∧ t.dist.fences = [] ∧ ∀ h, (t.mech h).busy = false) ∧
    (starting → r.reason = 0 ∨ 5 ≤ r.reason.toNat → ∃ t, exec (.start r) s = .next t ∧
      ∀ c ∈ r.fencedCores, c < 512 → coreIn c < 96 → (t.coreAt c).selfTestFail = true ∧
        ((∀ o, s.fenceWaits c o = false) → (t.coreAt c).fenced = true)) ∧
    (coresEnough r.fencedCores = true ↔ ∀ d, d < 4 →
      (r.fencedCores.eraseDups.filter fun c => decide (coreDie c = d) && decide (coreIn c < 96)).length ≤ 48) ∧
    (starting → r.reason = 0 → coresEnough r.fencedCores = true → ∃ t, exec (.start r) s = .next t ∧ t.host.ready = true ∧
      t.host.failedStarts = 0 ∧ t.host.number = r.package)) ∧
  (∀ s : State, exec .clearFailedStarts s = .next (s.modHost fun h => { h with failedStarts := 0 }) ∧
    ∀ ok, (s.host.lowWater = false → exec (.firmwareCommit ok) s = .next s) ∧
      (s.host.lowWater = true → ∃ t, exec (.firmwareCommit ok) s = .next t ∧ (ok = false ∨ s.dist.logCap = 0 → t.mem = s.mem) ∧
        t.host.lowWater = !ok ∧ t.host.fwCtl = (if ok then 4 else 8) ∧
        t.host.failedStarts = if ok then 0 else s.host.failedStarts)) ∧
  (∀ s : State,
    (∃ t, exec .powerLimiting s = .next t ∧ t.host.limiting = true ∧ t.teams = s.teams ∧
      ((∀ k, Calm s k) → t.groups = s.groups)) ∧
    (∃ t, exec .limitingEnd s = .next t ∧ t.host.limiting = false ∧ t.groups = s.groups ∧ t.mem = s.mem) ∧
    (∃ t, exec .thermalTrip s = .next t ∧ t.host.tripped = true ∧
      (s.host.tripped = false → t.groups = [] ∧ t.teams = [] ∧ t.runs = []))) ∧
  (∀ s : State,
    (s.host.lowWater = true → s.host.failedStarts = 3 → exec .warmReset s = .next s) ∧
    (s.host.lowWater = true → s.host.failedStarts ≠ 3 → ∃ t, exec .warmReset s = .next t ∧ t.host.lowWater = false) ∧
    (s.host.lowWater = false → ∃ t, exec .warmReset s = .next t ∧ t.groups = [] ∧ t.teams = [] ∧ t.runs = [] ∧
      t.host.tripped = false ∧ t.host.trapVec = s.host.trapVec ∧ t.host.ptRoot = s.host.ptRoot ∧
      (s.ownPackage s.dist.ucode.toNat = false → t.dist.fallback = true ∧ t.hartsOn = false) ∧
      (s.dist.run = true → s.dist.quiesce = false →
        (t.hartsOn = true ∧ t.dist.fallback = false ∧ ∀ h, h < 8 → (t.hart h).run = true ∧ (t.hart h).pc = 0) ∨
        (t.hartsOn = false ∧ t.dist.fallback = true)) ∧ t.dist.qcbBase = s.dist.qcbBase ∧
      ∀ k, (s.coreAt k).fenced = true → (t.coreAt k).fenced = true)) ∧
  (∀ s : State, ∃ t, exec .coldReset s = .next t ∧ t.host.failedStarts = s.host.failedStarts ∧
    t.host.starts = s.host.starts ∧ ∀ k, (s.coreAt k).fenced = true → (t.coreAt k).fenced = true) ∧
  (∀ (s : State) core h tr,
    ((∀ u, s.team? h = some u → u.core ≠ core ∨ u.life ≠ .run) → exec (.teamStop core h tr) s = .next s) ∧
    (∀ u, s.team? h = some u → u.core = core → u.life = .run → ∃ t, exec (.teamStop core h tr) s = .next t ∧
      ∀ k v, s.team? k = some v → v.lead = u.lead → v.life = .run → ∃ v', t.team? k = some v' ∧
        v'.stopped = some (v.stopped.getD tr) ∧
        ((∀ e ∈ (s.askStop h tr).clusterOf u.lead,
            (s.askStop h tr).stillTeam e.2 = true ∧ (s.packet? e.2.pid).isSome = true) → v'.dumped = true))) ∧
  (∀ (s : State) core, s.host.lowWater = false → let ctl := (s.coreAt core).stopCtl
    (ctl.getLsbD 31 = false → exec (.stopResume core) s = .next s) ∧
    (∀ u, ctl.getLsbD 31 = true → s.team? (ctl.toNat % 2 ^ 15) = some u → u.stopped.isSome = true →
      ∃ t, exec (.stopResume core) s = .next t ∧ t.groups = s.groups ∧ t.mem = s.mem ∧ ∀ k v, s.team? k = some v →
        v.lead = u.lead → (t.coreAt v.core).stopCtl = 0 ∧
          ∃ v', t.team? k = some v' ∧ v'.stopped = none ∧ v'.dumped = false)) ∧
  (∀ (s : State) core h, ((s.endStop core h).coreAt core).stopCtl =
    if (s.coreAt core).stopCtl.toNat % 2 ^ 15 = h then 0 else (s.coreAt core).stopCtl) ∧
  (∀ (s : State) core, s.host.lowWater = false → ∃ t, exec (.debugFlush core) s = .next t ∧ (t.coreAt core).table = [] ∧
    ((∀ k, Calm s k) → t.groups = s.groups)) ∧
  (∀ (s : State) core i e, sfind (s.coreAt core).table i = some e →
    (e.count = 2 ^ 32 - 1 → ∃ t, exec (.debugCountWrap core i) s = .next t ∧ ((∀ k, Calm s k) → t.groups = s.groups) ∧
      (t.coreAt core).table = sins (s.coreAt core).table i { e with count := 0 }) ∧
    (e.count ≠ 2 ^ 32 - 1 → exec (.debugCountWrap core i) s = .next s)) ∧
  (∀ s : State, s.host.lowWater = false → ∃ t, exec .debugCharge s = .next t ∧ t.cycle = s.cycle + 1 ∧ t.teams = s.teams ∧
    ((∀ k, Calm s k) → t.groups = s.groups) ∧ ∀ core sched, core < 512 → coreIn core < 96 → sched < 4 → ∃ n, n ≤ 12 ∧ ∀ m, m ≤ 12 →
      sget 0 (t.coreAt core).hist (16 * sched + m) =
        sget 0 (s.coreAt core).hist (16 * sched + m) + if m = n then 1 else 0) ∧
  (∀ (s : State) core sched, let i := 16 * sched + min 12 (s.readyOn core sched)
    sget 0 ((s.chargeSched core sched).coreAt core).hist i = sget 0 (s.coreAt core).hist i + 1) ∧
  (∀ (s : State) core, let k := s.coreAt core
    ∃ t, exec (.sample core) s = .next t ∧ ((∀ k, Calm s k) → t.groups = s.groups) ∧ (t.coreAt core).sampleAt = (k.sampleAt + 1) % 4 ∧
      ∀ g r c, k.age.getD (k.sampleAt % 4) [] = g :: r → s.ctx? g = some c → c.t.core = core →
        (t.coreAt core).trcWr = if s.armed c.pk 4 = true ∧ (k.trcWr - k.trcRd).toNat < s.host.trcSize.toNat / 32
          then k.trcWr + 1 else k.trcWr)

end
end

