-- ==== Sys2Proof/Laws/Codes.lean ====
section
/-!
SUPPORT. Each small field of a word is decoded from its code to what was encoded (R76 to R81, R100).
-/
namespace Sys2Proof

@[simp] theorem Src.dec_enc (a : Src) (h : a.wf = true) : Src.dec a.enc = a := by
  cases a with
  | v n => revert n; decide +kernel
  | left n => revert n; decide +kernel
  | right n => revert n; decide +kernel
  | s n => revert n; decide +kernel
  | latch n => revert n; decide +kernel
  | zero => rfl
  | lane => rfl
  | mask => rfl
  | reserved n => revert n; decide +kernel

@[simp] theorem Dst.dec_encG (u : Bool) (d : Dst) (h : d.okG u = true) : Dst.dec u d.enc = d := by
  cases d with
  | v n => revert u n; decide +kernel
  | s n => revert u n; decide +kernel
@[simp] theorem Dst.dec_encVS (d : Dst) (h : d.okVS = true) : Dst.dec true d.enc = d := by
  cases d with
  | v n => revert n; decide +kernel
  | s n => revert n; decide +kernel
@[simp] theorem Dst.dec_encF (u : Bool) (w : FW) (d : Dst) (h : d.okG u = true) (h2 : d.num % 2 = 0) :
    Dst.dec u (encF w d &&& 0xFE#8) = d := by
  cases d with
  | v n => revert u n; cases w <;> decide +kernel
  | s n => revert u n; cases w <;> decide +kernel
theorem wBit_encF (w : FW) (d : Dst) (h2 : d.num % 2 = 0) : (encF w d).getLsbD 0 = decide (w = .d) := by
  cases d with
  | v n => revert n; cases w <;> decide +kernel
  | s n => revert n; cases w <;> decide +kernel

@[simp] theorem Hold.dec_enc (h : Hold) : Hold.dec h.enc = h := by cases h <;> rfl
@[simp] theorem Guard.dec_enc (g : Guard) : Guard.dec g.pred g.sense = g := by
  cases g with
  | always => rfl
  | on p v => cases v <;> rfl
@[simp] theorem Tri.dec_enc (v : Tri) : Tri.dec v.enc = some v := by cases v <;> rfl
@[simp] theorem ShflMode.dec_enc (v : ShflMode) : ShflMode.dec v.enc = some v := by cases v <;> rfl
@[simp] theorem Special.dec_enc (v : Special) : Special.dec v.enc = some v := by cases v <;> rfl
@[simp] theorem Cond.dec_enc (v : Cond) : Cond.dec v.enc = some v := by cases v <;> rfl
@[simp] theorem LaneOp.dec_enc (v : LaneOp) : LaneOp.dec v.enc = some v := by cases v <;> rfl
@[simp] theorem GredOp.dec_enc (v : GredOp) : GredOp.dec v.enc = some v := by
  cases v with
  | int o => cases o <;> rfl
  | fadd w => cases w <;> rfl
  | fmin w => cases w <;> rfl
  | fmax w => cases w <;> rfl
@[simp] theorem FW.dec_enc (v : FW) : FW.dec v.enc = some v := by cases v <;> rfl
@[simp] theorem FW.dec4_enc4 (v : FW) : FW.dec4 v.enc4 = some v := by cases v <;> rfl
@[simp] theorem CvtMode.dec_enc (v : CvtMode) : CvtMode.dec v.enc = some v := by cases v <;> rfl
@[simp] theorem PtMode.dec_enc (v : PtMode) : PtMode.dec v.enc = some v := by cases v <;> rfl
@[simp] theorem PtMode.dec2_enc2 (v : PtMode) : PtMode.dec2 v.enc2 = some v := by cases v <;> rfl
@[simp] theorem StpFmt.dec_enc (v : StpFmt) : StpFmt.dec v.enc = v := by cases v <;> rfl
@[simp] theorem decK_encK (k : Fin 7) : decK (encK k) = some k := by revert k; decide
@[simp] theorem PoolSel.dec_enc (v : PoolSel) : PoolSel.dec v.enc = some v := by
  cases v with
  | poolSite s => revert s; decide
  | spillSite s => revert s; decide
  | _ => rfl
@[simp] theorem LdW.dec_enc (v : LdW) : LdW.dec v.enc = some v := by cases v <;> rfl
@[simp] theorem StW.dec_enc (v : StW) : StW.dec v.enc = some v := by cases v <;> rfl
@[simp] theorem AtomOp.dec_enc (v : AtomOp) : AtomOp.dec v.enc = some v := by
  cases v with
  | int o => cases o <;> rfl
  | _ => rfl
@[simp] theorem FAtomOp.dec_enc (v : FAtomOp) : FAtomOp.dec v.enc = some v := by cases v <;> rfl
@[simp] theorem QKind.dec_enc (k : QKind) : QKind.dec k.enc = some k := by cases k <;> rfl
@[simp] theorem MDep.dec_enc (v : MDep) : MDep.dec v.enc = some v := by cases v <;> rfl
@[simp] theorem MFmt.dec_enc (v : MFmt) : MFmt.dec v.enc = some v := by
  cases v with
  | bfp k => revert k; decide
  | _ => rfl
@[simp] theorem SysReg.dec_enc (v : SysReg) : SysReg.dec v.enc = some v := by cases v <;> rfl
@[simp] theorem lowN_encN {n : Nat} (h : n ≤ 10) (x : BitVec n) : lowN n (encN x) = x := by
  simp [lowN, encN, BitVec.setWidth_setWidth_of_le, h]
@[simp] theorem bitOf_encBit (b : Bool) : bitOf (encBit b) = some b := by cases b <;> rfl
@[simp] theorem dstP_encP (p : BitVec 3) : (encP p).setWidth 3 = p := by revert p; decide
@[simp] theorem dstS_encS (n : BitVec 6) : (encS n).setWidth 6 = n := by revert n; decide +kernel
@[simp] theorem dstZ_encZ (n : BitVec 6) : (encZ n).setWidth 6 = n := by revert n; decide +kernel

/-- A field above, and one inside, the lower part of a joined vector. -/
theorem field_above {m n s l : Nat} (x : BitVec m) (y : BitVec n) (h : n ≤ s) :
    (x ++ y).extractLsb' s l = x.extractLsb' (s - n) l := by
  apply BitVec.eq_of_getLsbD_eq
  intro i hi
  simp only [BitVec.getLsbD_extractLsb', BitVec.getLsbD_append]
  rw [if_neg (by omega), Nat.sub_add_comm h]
theorem field_inside {m n s l : Nat} (x : BitVec m) (y : BitVec n) (h : s + l ≤ n) :
    (x ++ y).extractLsb' s l = y.extractLsb' s l := by
  apply BitVec.eq_of_getLsbD_eq
  intro i hi
  simp only [BitVec.getLsbD_extractLsb', BitVec.getLsbD_append]
  rw [if_pos (by omega)]
theorem field_all {n : Nat} (x : BitVec n) : x.extractLsb' 0 n = x := by simp
theorem bit_field {n : Nat} (x : BitVec n) (k : Nat) : x.getLsbD k = (x.extractLsb' k 1).getLsbD 0 := by simp

/-- The fields of a word are those it was laid out from (R76). -/
@[simp] theorem Fields.ofWord_word (F : Fields) : Fields.ofWord F.word = F := by
  obtain ⟨b, mj, mn, la, ho, gp, gs, k, d, a, x, c⟩ := F
  simp only [Fields.ofWord, Fields.word, Fields.mk.injEq]
  have bit (b : Bool) : (bit1 b).getLsbD 0 = b := by cases b <;> rfl
  refine ⟨(bit_field _ _).trans ((congrArg (BitVec.getLsbD · 0) ?_).trans (bit b)), ?_, ?_, ?_, ?_, ?_, ?_,
    (bit_field _ _).trans ((congrArg (BitVec.getLsbD · 0) ?_).trans (bit k)), ?_, ?_, ?_, ?_⟩
  all_goals
    repeat first
      | exact field_all _
      | exact (field_above _ _ (by decide)).trans (field_all _)
      | refine (field_inside _ _ (by decide)).trans ?_

end Sys2Proof
end

