-- ==== Sys2Proof/Laws/State.lean ====
section
/-!
SUPPORT. One lemma per field for each update of the state: the field it writes, and the fields it leaves as they were.
-/
namespace Sys2Proof.Machine

variable (s : State)

/-! ## setGroup -/

@[simp] theorem State.setGroup_agenda (g : Nat) (x : Group) : (s.setGroup g x).agenda = s.agenda := rfl
@[simp] theorem State.setGroup_runs (g : Nat) (x : Group) : (s.setGroup g x).runs = s.runs := rfl
@[simp] theorem State.setGroup_cycle (g : Nat) (x : Group) : (s.setGroup g x).cycle = s.cycle := rfl
@[simp] theorem State.setGroup_free (g : Nat) (x : Group) : (s.setGroup g x).free = s.free := rfl
@[simp] theorem State.setGroup_nextId (g : Nat) (x : Group) : (s.setGroup g x).nextId = s.nextId := rfl
@[simp] theorem State.setGroup_mem (g : Nat) (x : Group) : (s.setGroup g x).mem = s.mem := rfl
@[simp] theorem State.setGroup_lines (g : Nat) (x : Group) : (s.setGroup g x).lines = s.lines := rfl
@[simp] theorem State.setGroup_slices (g : Nat) (x : Group) : (s.setGroup g x).slices = s.slices := rfl
@[simp] theorem State.setGroup_teams (g : Nat) (x : Group) : (s.setGroup g x).teams = s.teams := rfl
@[simp] theorem State.setGroup_cores (g : Nat) (x : Group) : (s.setGroup g x).cores = s.cores := rfl
@[simp] theorem State.setGroup_dies (g : Nat) (x : Group) : (s.setGroup g x).dies = s.dies := rfl
@[simp] theorem State.setGroup_walks (g : Nat) (x : Group) : (s.setGroup g x).walks = s.walks := rfl
@[simp] theorem State.setGroup_replies (g : Nat) (x : Group) : (s.setGroup g x).replies = s.replies := rfl
@[simp] theorem State.setGroup_reds (g : Nat) (x : Group) : (s.setGroup g x).reds = s.reds := rfl
@[simp] theorem State.setGroup_remotes (g : Nat) (x : Group) : (s.setGroup g x).remotes = s.remotes := rfl
@[simp] theorem State.setGroup_locks (g : Nat) (x : Group) : (s.setGroup g x).locks = s.locks := rfl
@[simp] theorem State.setGroup_ops (g : Nat) (x : Group) : (s.setGroup g x).ops = s.ops := rfl
@[simp] theorem State.setGroup_monitors (g : Nat) (x : Group) : (s.setGroup g x).monitors = s.monitors := rfl
@[simp] theorem State.setGroup_notices (g : Nat) (x : Group) : (s.setGroup g x).notices = s.notices := rfl
@[simp] theorem State.setGroup_era (g : Nat) (x : Group) : (s.setGroup g x).era = s.era := rfl
@[simp] theorem State.setGroup_bumps (g : Nat) (x : Group) : (s.setGroup g x).bumps = s.bumps := rfl
@[simp] theorem State.setGroup_farSealed (g : Nat) (x : Group) : (s.setGroup g x).farSealed = s.farSealed := rfl
@[simp] theorem State.setGroup_decided (g : Nat) (x : Group) : (s.setGroup g x).decided = s.decided := rfl
@[simp] theorem State.setGroup_since (g : Nat) (x : Group) : (s.setGroup g x).since = s.since := rfl
@[simp] theorem State.setGroup_genNotices (g : Nat) (x : Group) : (s.setGroup g x).genNotices = s.genNotices := rfl
@[simp] theorem State.setGroup_topTide (g : Nat) (x : Group) : (s.setGroup g x).topTide = s.topTide := rfl
@[simp] theorem State.setGroup_poisoned (g : Nat) (x : Group) : (s.setGroup g x).poisoned = s.poisoned := rfl
@[simp] theorem State.setGroup_appends (g : Nat) (x : Group) : (s.setGroup g x).appends = s.appends := rfl
@[simp] theorem State.setGroup_steals (g : Nat) (x : Group) : (s.setGroup g x).steals = s.steals := rfl
@[simp] theorem State.setGroup_tlbis (g : Nat) (x : Group) : (s.setGroup g x).tlbis = s.tlbis := rfl
@[simp] theorem State.setGroup_dist (g : Nat) (x : Group) : (s.setGroup g x).dist = s.dist := rfl
@[simp] theorem State.setGroup_host (g : Nat) (x : Group) : (s.setGroup g x).host = s.host := rfl

/-! ## setTeam -/

@[simp] theorem State.setTeam_agenda (h : Nat) (x : Team) : (s.setTeam h x).agenda = s.agenda := rfl
@[simp] theorem State.setTeam_runs (h : Nat) (x : Team) : (s.setTeam h x).runs = s.runs := rfl
@[simp] theorem State.setTeam_cycle (h : Nat) (x : Team) : (s.setTeam h x).cycle = s.cycle := rfl
@[simp] theorem State.setTeam_free (h : Nat) (x : Team) : (s.setTeam h x).free = s.free := rfl
@[simp] theorem State.setTeam_nextId (h : Nat) (x : Team) : (s.setTeam h x).nextId = s.nextId := rfl
@[simp] theorem State.setTeam_mem (h : Nat) (x : Team) : (s.setTeam h x).mem = s.mem := rfl
@[simp] theorem State.setTeam_lines (h : Nat) (x : Team) : (s.setTeam h x).lines = s.lines := rfl
@[simp] theorem State.setTeam_slices (h : Nat) (x : Team) : (s.setTeam h x).slices = s.slices := rfl
@[simp] theorem State.setTeam_groups (h : Nat) (x : Team) : (s.setTeam h x).groups = s.groups := rfl
@[simp] theorem State.setTeam_cores (h : Nat) (x : Team) : (s.setTeam h x).cores = s.cores := rfl
@[simp] theorem State.setTeam_dies (h : Nat) (x : Team) : (s.setTeam h x).dies = s.dies := rfl
@[simp] theorem State.setTeam_walks (h : Nat) (x : Team) : (s.setTeam h x).walks = s.walks := rfl
@[simp] theorem State.setTeam_replies (h : Nat) (x : Team) : (s.setTeam h x).replies = s.replies := rfl
@[simp] theorem State.setTeam_reds (h : Nat) (x : Team) : (s.setTeam h x).reds = s.reds := rfl
@[simp] theorem State.setTeam_remotes (h : Nat) (x : Team) : (s.setTeam h x).remotes = s.remotes := rfl
@[simp] theorem State.setTeam_locks (h : Nat) (x : Team) : (s.setTeam h x).locks = s.locks := rfl
@[simp] theorem State.setTeam_ops (h : Nat) (x : Team) : (s.setTeam h x).ops = s.ops := rfl
@[simp] theorem State.setTeam_monitors (h : Nat) (x : Team) : (s.setTeam h x).monitors = s.monitors := rfl
@[simp] theorem State.setTeam_notices (h : Nat) (x : Team) : (s.setTeam h x).notices = s.notices := rfl
@[simp] theorem State.setTeam_era (h : Nat) (x : Team) : (s.setTeam h x).era = s.era := rfl
@[simp] theorem State.setTeam_bumps (h : Nat) (x : Team) : (s.setTeam h x).bumps = s.bumps := rfl
@[simp] theorem State.setTeam_farSealed (h : Nat) (x : Team) : (s.setTeam h x).farSealed = s.farSealed := rfl
@[simp] theorem State.setTeam_decided (h : Nat) (x : Team) : (s.setTeam h x).decided = s.decided := rfl
@[simp] theorem State.setTeam_since (h : Nat) (x : Team) : (s.setTeam h x).since = s.since := rfl
@[simp] theorem State.setTeam_genNotices (h : Nat) (x : Team) : (s.setTeam h x).genNotices = s.genNotices := rfl
@[simp] theorem State.setTeam_topTide (h : Nat) (x : Team) : (s.setTeam h x).topTide = s.topTide := rfl
@[simp] theorem State.setTeam_poisoned (h : Nat) (x : Team) : (s.setTeam h x).poisoned = s.poisoned := rfl
@[simp] theorem State.setTeam_appends (h : Nat) (x : Team) : (s.setTeam h x).appends = s.appends := rfl
@[simp] theorem State.setTeam_steals (h : Nat) (x : Team) : (s.setTeam h x).steals = s.steals := rfl
@[simp] theorem State.setTeam_tlbis (h : Nat) (x : Team) : (s.setTeam h x).tlbis = s.tlbis := rfl
@[simp] theorem State.setTeam_dist (h : Nat) (x : Team) : (s.setTeam h x).dist = s.dist := rfl
@[simp] theorem State.setTeam_host (h : Nat) (x : Team) : (s.setTeam h x).host = s.host := rfl

/-! ## setLine -/

@[simp] theorem State.setLine_agenda (k : Nat) (l : Line) : (s.setLine k l).agenda = s.agenda := rfl
@[simp] theorem State.setLine_runs (k : Nat) (l : Line) : (s.setLine k l).runs = s.runs := rfl
@[simp] theorem State.setLine_cycle (k : Nat) (l : Line) : (s.setLine k l).cycle = s.cycle := rfl
@[simp] theorem State.setLine_free (k : Nat) (l : Line) : (s.setLine k l).free = s.free := rfl
@[simp] theorem State.setLine_nextId (k : Nat) (l : Line) : (s.setLine k l).nextId = s.nextId := rfl
@[simp] theorem State.setLine_mem (k : Nat) (l : Line) : (s.setLine k l).mem = s.mem := rfl
@[simp] theorem State.setLine_slices (k : Nat) (l : Line) : (s.setLine k l).slices = s.slices := rfl
@[simp] theorem State.setLine_groups (k : Nat) (l : Line) : (s.setLine k l).groups = s.groups := rfl
@[simp] theorem State.setLine_teams (k : Nat) (l : Line) : (s.setLine k l).teams = s.teams := rfl
@[simp] theorem State.setLine_cores (k : Nat) (l : Line) : (s.setLine k l).cores = s.cores := rfl
@[simp] theorem State.setLine_dies (k : Nat) (l : Line) : (s.setLine k l).dies = s.dies := rfl
@[simp] theorem State.setLine_walks (k : Nat) (l : Line) : (s.setLine k l).walks = s.walks := rfl
@[simp] theorem State.setLine_replies (k : Nat) (l : Line) : (s.setLine k l).replies = s.replies := rfl
@[simp] theorem State.setLine_reds (k : Nat) (l : Line) : (s.setLine k l).reds = s.reds := rfl
@[simp] theorem State.setLine_remotes (k : Nat) (l : Line) : (s.setLine k l).remotes = s.remotes := rfl
@[simp] theorem State.setLine_locks (k : Nat) (l : Line) : (s.setLine k l).locks = s.locks := rfl
@[simp] theorem State.setLine_ops (k : Nat) (l : Line) : (s.setLine k l).ops = s.ops := rfl
@[simp] theorem State.setLine_monitors (k : Nat) (l : Line) : (s.setLine k l).monitors = s.monitors := rfl
@[simp] theorem State.setLine_notices (k : Nat) (l : Line) : (s.setLine k l).notices = s.notices := rfl
@[simp] theorem State.setLine_era (k : Nat) (l : Line) : (s.setLine k l).era = s.era := rfl
@[simp] theorem State.setLine_bumps (k : Nat) (l : Line) : (s.setLine k l).bumps = s.bumps := rfl
@[simp] theorem State.setLine_farSealed (k : Nat) (l : Line) : (s.setLine k l).farSealed = s.farSealed := rfl
@[simp] theorem State.setLine_decided (k : Nat) (l : Line) : (s.setLine k l).decided = s.decided := rfl
@[simp] theorem State.setLine_since (k : Nat) (l : Line) : (s.setLine k l).since = s.since := rfl
@[simp] theorem State.setLine_genNotices (k : Nat) (l : Line) : (s.setLine k l).genNotices = s.genNotices := rfl
@[simp] theorem State.setLine_topTide (k : Nat) (l : Line) : (s.setLine k l).topTide = s.topTide := rfl
@[simp] theorem State.setLine_poisoned (k : Nat) (l : Line) : (s.setLine k l).poisoned = s.poisoned := rfl
@[simp] theorem State.setLine_appends (k : Nat) (l : Line) : (s.setLine k l).appends = s.appends := rfl
@[simp] theorem State.setLine_steals (k : Nat) (l : Line) : (s.setLine k l).steals = s.steals := rfl
@[simp] theorem State.setLine_tlbis (k : Nat) (l : Line) : (s.setLine k l).tlbis = s.tlbis := rfl
@[simp] theorem State.setLine_dist (k : Nat) (l : Line) : (s.setLine k l).dist = s.dist := rfl
@[simp] theorem State.setLine_host (k : Nat) (l : Line) : (s.setLine k l).host = s.host := rfl

/-! ## modCore -/

@[simp] theorem State.modCore_agenda (c : Nat) (f : Core → Core) : (s.modCore c f).agenda = s.agenda := rfl
@[simp] theorem State.modCore_runs (c : Nat) (f : Core → Core) : (s.modCore c f).runs = s.runs := rfl
@[simp] theorem State.modCore_cycle (c : Nat) (f : Core → Core) : (s.modCore c f).cycle = s.cycle := rfl
@[simp] theorem State.modCore_free (c : Nat) (f : Core → Core) : (s.modCore c f).free = s.free := rfl
@[simp] theorem State.modCore_nextId (c : Nat) (f : Core → Core) : (s.modCore c f).nextId = s.nextId := rfl
@[simp] theorem State.modCore_mem (c : Nat) (f : Core → Core) : (s.modCore c f).mem = s.mem := rfl
@[simp] theorem State.modCore_lines (c : Nat) (f : Core → Core) : (s.modCore c f).lines = s.lines := rfl
@[simp] theorem State.modCore_slices (c : Nat) (f : Core → Core) : (s.modCore c f).slices = s.slices := rfl
@[simp] theorem State.modCore_groups (c : Nat) (f : Core → Core) : (s.modCore c f).groups = s.groups := rfl
@[simp] theorem State.modCore_teams (c : Nat) (f : Core → Core) : (s.modCore c f).teams = s.teams := rfl
@[simp] theorem State.modCore_dies (c : Nat) (f : Core → Core) : (s.modCore c f).dies = s.dies := rfl
@[simp] theorem State.modCore_walks (c : Nat) (f : Core → Core) : (s.modCore c f).walks = s.walks := rfl
@[simp] theorem State.modCore_replies (c : Nat) (f : Core → Core) : (s.modCore c f).replies = s.replies := rfl
@[simp] theorem State.modCore_reds (c : Nat) (f : Core → Core) : (s.modCore c f).reds = s.reds := rfl
@[simp] theorem State.modCore_remotes (c : Nat) (f : Core → Core) : (s.modCore c f).remotes = s.remotes := rfl
@[simp] theorem State.modCore_locks (c : Nat) (f : Core → Core) : (s.modCore c f).locks = s.locks := rfl
@[simp] theorem State.modCore_ops (c : Nat) (f : Core → Core) : (s.modCore c f).ops = s.ops := rfl
@[simp] theorem State.modCore_monitors (c : Nat) (f : Core → Core) : (s.modCore c f).monitors = s.monitors := rfl
@[simp] theorem State.modCore_notices (c : Nat) (f : Core → Core) : (s.modCore c f).notices = s.notices := rfl
@[simp] theorem State.modCore_era (c : Nat) (f : Core → Core) : (s.modCore c f).era = s.era := rfl
@[simp] theorem State.modCore_bumps (c : Nat) (f : Core → Core) : (s.modCore c f).bumps = s.bumps := rfl
@[simp] theorem State.modCore_farSealed (c : Nat) (f : Core → Core) : (s.modCore c f).farSealed = s.farSealed := rfl
@[simp] theorem State.modCore_decided (c : Nat) (f : Core → Core) : (s.modCore c f).decided = s.decided := rfl
@[simp] theorem State.modCore_since (c : Nat) (f : Core → Core) : (s.modCore c f).since = s.since := rfl
@[simp] theorem State.modCore_genNotices (c : Nat) (f : Core → Core) : (s.modCore c f).genNotices = s.genNotices := rfl
@[simp] theorem State.modCore_topTide (c : Nat) (f : Core → Core) : (s.modCore c f).topTide = s.topTide := rfl
@[simp] theorem State.modCore_poisoned (c : Nat) (f : Core → Core) : (s.modCore c f).poisoned = s.poisoned := rfl
@[simp] theorem State.modCore_appends (c : Nat) (f : Core → Core) : (s.modCore c f).appends = s.appends := rfl
@[simp] theorem State.modCore_steals (c : Nat) (f : Core → Core) : (s.modCore c f).steals = s.steals := rfl
@[simp] theorem State.modCore_tlbis (c : Nat) (f : Core → Core) : (s.modCore c f).tlbis = s.tlbis := rfl
@[simp] theorem State.modCore_dist (c : Nat) (f : Core → Core) : (s.modCore c f).dist = s.dist := rfl
@[simp] theorem State.modCore_host (c : Nat) (f : Core → Core) : (s.modCore c f).host = s.host := rfl

/-! ## modSlice -/

@[simp] theorem State.modSlice_agenda (k : Nat) (f : Slice → Slice) : (s.modSlice k f).agenda = s.agenda := rfl
@[simp] theorem State.modSlice_runs (k : Nat) (f : Slice → Slice) : (s.modSlice k f).runs = s.runs := rfl
@[simp] theorem State.modSlice_cycle (k : Nat) (f : Slice → Slice) : (s.modSlice k f).cycle = s.cycle := rfl
@[simp] theorem State.modSlice_free (k : Nat) (f : Slice → Slice) : (s.modSlice k f).free = s.free := rfl
@[simp] theorem State.modSlice_nextId (k : Nat) (f : Slice → Slice) : (s.modSlice k f).nextId = s.nextId := rfl
@[simp] theorem State.modSlice_mem (k : Nat) (f : Slice → Slice) : (s.modSlice k f).mem = s.mem := rfl
@[simp] theorem State.modSlice_lines (k : Nat) (f : Slice → Slice) : (s.modSlice k f).lines = s.lines := rfl
@[simp] theorem State.modSlice_groups (k : Nat) (f : Slice → Slice) : (s.modSlice k f).groups = s.groups := rfl
@[simp] theorem State.modSlice_teams (k : Nat) (f : Slice → Slice) : (s.modSlice k f).teams = s.teams := rfl
@[simp] theorem State.modSlice_cores (k : Nat) (f : Slice → Slice) : (s.modSlice k f).cores = s.cores := rfl
@[simp] theorem State.modSlice_dies (k : Nat) (f : Slice → Slice) : (s.modSlice k f).dies = s.dies := rfl
@[simp] theorem State.modSlice_walks (k : Nat) (f : Slice → Slice) : (s.modSlice k f).walks = s.walks := rfl
@[simp] theorem State.modSlice_replies (k : Nat) (f : Slice → Slice) : (s.modSlice k f).replies = s.replies := rfl
@[simp] theorem State.modSlice_reds (k : Nat) (f : Slice → Slice) : (s.modSlice k f).reds = s.reds := rfl
@[simp] theorem State.modSlice_remotes (k : Nat) (f : Slice → Slice) : (s.modSlice k f).remotes = s.remotes := rfl
@[simp] theorem State.modSlice_locks (k : Nat) (f : Slice → Slice) : (s.modSlice k f).locks = s.locks := rfl
@[simp] theorem State.modSlice_ops (k : Nat) (f : Slice → Slice) : (s.modSlice k f).ops = s.ops := rfl
@[simp] theorem State.modSlice_monitors (k : Nat) (f : Slice → Slice) : (s.modSlice k f).monitors = s.monitors := rfl
@[simp] theorem State.modSlice_notices (k : Nat) (f : Slice → Slice) : (s.modSlice k f).notices = s.notices := rfl
@[simp] theorem State.modSlice_era (k : Nat) (f : Slice → Slice) : (s.modSlice k f).era = s.era := rfl
@[simp] theorem State.modSlice_bumps (k : Nat) (f : Slice → Slice) : (s.modSlice k f).bumps = s.bumps := rfl
@[simp] theorem State.modSlice_farSealed (k : Nat) (f : Slice → Slice) : (s.modSlice k f).farSealed = s.farSealed := rfl
@[simp] theorem State.modSlice_decided (k : Nat) (f : Slice → Slice) : (s.modSlice k f).decided = s.decided := rfl
@[simp] theorem State.modSlice_since (k : Nat) (f : Slice → Slice) : (s.modSlice k f).since = s.since := rfl
@[simp] theorem State.modSlice_genNotices (k : Nat) (f : Slice → Slice) : (s.modSlice k f).genNotices = s.genNotices := rfl
@[simp] theorem State.modSlice_topTide (k : Nat) (f : Slice → Slice) : (s.modSlice k f).topTide = s.topTide := rfl
@[simp] theorem State.modSlice_poisoned (k : Nat) (f : Slice → Slice) : (s.modSlice k f).poisoned = s.poisoned := rfl
@[simp] theorem State.modSlice_appends (k : Nat) (f : Slice → Slice) : (s.modSlice k f).appends = s.appends := rfl
@[simp] theorem State.modSlice_steals (k : Nat) (f : Slice → Slice) : (s.modSlice k f).steals = s.steals := rfl
@[simp] theorem State.modSlice_tlbis (k : Nat) (f : Slice → Slice) : (s.modSlice k f).tlbis = s.tlbis := rfl
@[simp] theorem State.modSlice_dist (k : Nat) (f : Slice → Slice) : (s.modSlice k f).dist = s.dist := rfl
@[simp] theorem State.modSlice_host (k : Nat) (f : Slice → Slice) : (s.modSlice k f).host = s.host := rfl

/-! ## modDist -/

@[simp] theorem State.modDist_agenda (f : Dist → Dist) : (s.modDist f).agenda = s.agenda := rfl
@[simp] theorem State.modDist_runs (f : Dist → Dist) : (s.modDist f).runs = s.runs := rfl
@[simp] theorem State.modDist_cycle (f : Dist → Dist) : (s.modDist f).cycle = s.cycle := rfl
@[simp] theorem State.modDist_free (f : Dist → Dist) : (s.modDist f).free = s.free := rfl
@[simp] theorem State.modDist_nextId (f : Dist → Dist) : (s.modDist f).nextId = s.nextId := rfl
@[simp] theorem State.modDist_mem (f : Dist → Dist) : (s.modDist f).mem = s.mem := rfl
@[simp] theorem State.modDist_lines (f : Dist → Dist) : (s.modDist f).lines = s.lines := rfl
@[simp] theorem State.modDist_slices (f : Dist → Dist) : (s.modDist f).slices = s.slices := rfl
@[simp] theorem State.modDist_groups (f : Dist → Dist) : (s.modDist f).groups = s.groups := rfl
@[simp] theorem State.modDist_teams (f : Dist → Dist) : (s.modDist f).teams = s.teams := rfl
@[simp] theorem State.modDist_cores (f : Dist → Dist) : (s.modDist f).cores = s.cores := rfl
@[simp] theorem State.modDist_dies (f : Dist → Dist) : (s.modDist f).dies = s.dies := rfl
@[simp] theorem State.modDist_walks (f : Dist → Dist) : (s.modDist f).walks = s.walks := rfl
@[simp] theorem State.modDist_replies (f : Dist → Dist) : (s.modDist f).replies = s.replies := rfl
@[simp] theorem State.modDist_reds (f : Dist → Dist) : (s.modDist f).reds = s.reds := rfl
@[simp] theorem State.modDist_remotes (f : Dist → Dist) : (s.modDist f).remotes = s.remotes := rfl
@[simp] theorem State.modDist_locks (f : Dist → Dist) : (s.modDist f).locks = s.locks := rfl
@[simp] theorem State.modDist_ops (f : Dist → Dist) : (s.modDist f).ops = s.ops := rfl
@[simp] theorem State.modDist_monitors (f : Dist → Dist) : (s.modDist f).monitors = s.monitors := rfl
@[simp] theorem State.modDist_notices (f : Dist → Dist) : (s.modDist f).notices = s.notices := rfl
@[simp] theorem State.modDist_era (f : Dist → Dist) : (s.modDist f).era = s.era := rfl
@[simp] theorem State.modDist_bumps (f : Dist → Dist) : (s.modDist f).bumps = s.bumps := rfl
@[simp] theorem State.modDist_farSealed (f : Dist → Dist) : (s.modDist f).farSealed = s.farSealed := rfl
@[simp] theorem State.modDist_decided (f : Dist → Dist) : (s.modDist f).decided = s.decided := rfl
@[simp] theorem State.modDist_since (f : Dist → Dist) : (s.modDist f).since = s.since := rfl
@[simp] theorem State.modDist_genNotices (f : Dist → Dist) : (s.modDist f).genNotices = s.genNotices := rfl
@[simp] theorem State.modDist_topTide (f : Dist → Dist) : (s.modDist f).topTide = s.topTide := rfl
@[simp] theorem State.modDist_poisoned (f : Dist → Dist) : (s.modDist f).poisoned = s.poisoned := rfl
@[simp] theorem State.modDist_appends (f : Dist → Dist) : (s.modDist f).appends = s.appends := rfl
@[simp] theorem State.modDist_steals (f : Dist → Dist) : (s.modDist f).steals = s.steals := rfl
@[simp] theorem State.modDist_tlbis (f : Dist → Dist) : (s.modDist f).tlbis = s.tlbis := rfl
@[simp] theorem State.modDist_host (f : Dist → Dist) : (s.modDist f).host = s.host := rfl

/-! ## modHost -/

@[simp] theorem State.modHost_agenda (f : HostPort → HostPort) : (s.modHost f).agenda = s.agenda := rfl
@[simp] theorem State.modHost_runs (f : HostPort → HostPort) : (s.modHost f).runs = s.runs := rfl
@[simp] theorem State.modHost_cycle (f : HostPort → HostPort) : (s.modHost f).cycle = s.cycle := rfl
@[simp] theorem State.modHost_free (f : HostPort → HostPort) : (s.modHost f).free = s.free := rfl
@[simp] theorem State.modHost_nextId (f : HostPort → HostPort) : (s.modHost f).nextId = s.nextId := rfl
@[simp] theorem State.modHost_mem (f : HostPort → HostPort) : (s.modHost f).mem = s.mem := rfl
@[simp] theorem State.modHost_lines (f : HostPort → HostPort) : (s.modHost f).lines = s.lines := rfl
@[simp] theorem State.modHost_slices (f : HostPort → HostPort) : (s.modHost f).slices = s.slices := rfl
@[simp] theorem State.modHost_groups (f : HostPort → HostPort) : (s.modHost f).groups = s.groups := rfl
@[simp] theorem State.modHost_teams (f : HostPort → HostPort) : (s.modHost f).teams = s.teams := rfl
@[simp] theorem State.modHost_cores (f : HostPort → HostPort) : (s.modHost f).cores = s.cores := rfl
@[simp] theorem State.modHost_dies (f : HostPort → HostPort) : (s.modHost f).dies = s.dies := rfl
@[simp] theorem State.modHost_walks (f : HostPort → HostPort) : (s.modHost f).walks = s.walks := rfl
@[simp] theorem State.modHost_replies (f : HostPort → HostPort) : (s.modHost f).replies = s.replies := rfl
@[simp] theorem State.modHost_reds (f : HostPort → HostPort) : (s.modHost f).reds = s.reds := rfl
@[simp] theorem State.modHost_remotes (f : HostPort → HostPort) : (s.modHost f).remotes = s.remotes := rfl
@[simp] theorem State.modHost_locks (f : HostPort → HostPort) : (s.modHost f).locks = s.locks := rfl
@[simp] theorem State.modHost_ops (f : HostPort → HostPort) : (s.modHost f).ops = s.ops := rfl
@[simp] theorem State.modHost_monitors (f : HostPort → HostPort) : (s.modHost f).monitors = s.monitors := rfl
@[simp] theorem State.modHost_notices (f : HostPort → HostPort) : (s.modHost f).notices = s.notices := rfl
@[simp] theorem State.modHost_era (f : HostPort → HostPort) : (s.modHost f).era = s.era := rfl
@[simp] theorem State.modHost_bumps (f : HostPort → HostPort) : (s.modHost f).bumps = s.bumps := rfl
@[simp] theorem State.modHost_farSealed (f : HostPort → HostPort) : (s.modHost f).farSealed = s.farSealed := rfl
@[simp] theorem State.modHost_decided (f : HostPort → HostPort) : (s.modHost f).decided = s.decided := rfl
@[simp] theorem State.modHost_since (f : HostPort → HostPort) : (s.modHost f).since = s.since := rfl
@[simp] theorem State.modHost_genNotices (f : HostPort → HostPort) : (s.modHost f).genNotices = s.genNotices := rfl
@[simp] theorem State.modHost_topTide (f : HostPort → HostPort) : (s.modHost f).topTide = s.topTide := rfl
@[simp] theorem State.modHost_poisoned (f : HostPort → HostPort) : (s.modHost f).poisoned = s.poisoned := rfl
@[simp] theorem State.modHost_appends (f : HostPort → HostPort) : (s.modHost f).appends = s.appends := rfl
@[simp] theorem State.modHost_steals (f : HostPort → HostPort) : (s.modHost f).steals = s.steals := rfl
@[simp] theorem State.modHost_tlbis (f : HostPort → HostPort) : (s.modHost f).tlbis = s.tlbis := rfl
@[simp] theorem State.modHost_dist (f : HostPort → HostPort) : (s.modHost f).dist = s.dist := rfl

/-! ## newId -/

@[simp] theorem State.newId_agenda : s.newId.2.agenda = s.agenda := rfl
@[simp] theorem State.newId_runs : s.newId.2.runs = s.runs := rfl
@[simp] theorem State.newId_cycle : s.newId.2.cycle = s.cycle := rfl
@[simp] theorem State.newId_free : s.newId.2.free = s.free := rfl
@[simp] theorem State.newId_mem : s.newId.2.mem = s.mem := rfl
@[simp] theorem State.newId_lines : s.newId.2.lines = s.lines := rfl
@[simp] theorem State.newId_slices : s.newId.2.slices = s.slices := rfl
@[simp] theorem State.newId_groups : s.newId.2.groups = s.groups := rfl
@[simp] theorem State.newId_teams : s.newId.2.teams = s.teams := rfl
@[simp] theorem State.newId_cores : s.newId.2.cores = s.cores := rfl
@[simp] theorem State.newId_dies : s.newId.2.dies = s.dies := rfl
@[simp] theorem State.newId_walks : s.newId.2.walks = s.walks := rfl
@[simp] theorem State.newId_replies : s.newId.2.replies = s.replies := rfl
@[simp] theorem State.newId_reds : s.newId.2.reds = s.reds := rfl
@[simp] theorem State.newId_remotes : s.newId.2.remotes = s.remotes := rfl
@[simp] theorem State.newId_locks : s.newId.2.locks = s.locks := rfl
@[simp] theorem State.newId_ops : s.newId.2.ops = s.ops := rfl
@[simp] theorem State.newId_monitors : s.newId.2.monitors = s.monitors := rfl
@[simp] theorem State.newId_notices : s.newId.2.notices = s.notices := rfl
@[simp] theorem State.newId_era : s.newId.2.era = s.era := rfl
@[simp] theorem State.newId_bumps : s.newId.2.bumps = s.bumps := rfl
@[simp] theorem State.newId_farSealed : s.newId.2.farSealed = s.farSealed := rfl
@[simp] theorem State.newId_decided : s.newId.2.decided = s.decided := rfl
@[simp] theorem State.newId_since : s.newId.2.since = s.since := rfl
@[simp] theorem State.newId_genNotices : s.newId.2.genNotices = s.genNotices := rfl
@[simp] theorem State.newId_topTide : s.newId.2.topTide = s.topTide := rfl
@[simp] theorem State.newId_poisoned : s.newId.2.poisoned = s.poisoned := rfl
@[simp] theorem State.newId_appends : s.newId.2.appends = s.appends := rfl
@[simp] theorem State.newId_steals : s.newId.2.steals = s.steals := rfl
@[simp] theorem State.newId_tlbis : s.newId.2.tlbis = s.tlbis := rfl
@[simp] theorem State.newId_dist : s.newId.2.dist = s.dist := rfl
@[simp] theorem State.newId_host : s.newId.2.host = s.host := rfl

/-! ## fresh -/

@[simp] theorem State.fresh_agenda : s.fresh.2.agenda = s.agenda := rfl
@[simp] theorem State.fresh_runs : s.fresh.2.runs = s.runs := rfl
@[simp] theorem State.fresh_cycle : s.fresh.2.cycle = s.cycle := rfl
@[simp] theorem State.fresh_nextId : s.fresh.2.nextId = s.nextId := rfl
@[simp] theorem State.fresh_mem : s.fresh.2.mem = s.mem := rfl
@[simp] theorem State.fresh_lines : s.fresh.2.lines = s.lines := rfl
@[simp] theorem State.fresh_slices : s.fresh.2.slices = s.slices := rfl
@[simp] theorem State.fresh_groups : s.fresh.2.groups = s.groups := rfl
@[simp] theorem State.fresh_teams : s.fresh.2.teams = s.teams := rfl
@[simp] theorem State.fresh_cores : s.fresh.2.cores = s.cores := rfl
@[simp] theorem State.fresh_dies : s.fresh.2.dies = s.dies := rfl
@[simp] theorem State.fresh_walks : s.fresh.2.walks = s.walks := rfl
@[simp] theorem State.fresh_replies : s.fresh.2.replies = s.replies := rfl
@[simp] theorem State.fresh_reds : s.fresh.2.reds = s.reds := rfl
@[simp] theorem State.fresh_remotes : s.fresh.2.remotes = s.remotes := rfl
@[simp] theorem State.fresh_locks : s.fresh.2.locks = s.locks := rfl
@[simp] theorem State.fresh_ops : s.fresh.2.ops = s.ops := rfl
@[simp] theorem State.fresh_monitors : s.fresh.2.monitors = s.monitors := rfl
@[simp] theorem State.fresh_notices : s.fresh.2.notices = s.notices := rfl
@[simp] theorem State.fresh_era : s.fresh.2.era = s.era := rfl
@[simp] theorem State.fresh_bumps : s.fresh.2.bumps = s.bumps := rfl
@[simp] theorem State.fresh_farSealed : s.fresh.2.farSealed = s.farSealed := rfl
@[simp] theorem State.fresh_decided : s.fresh.2.decided = s.decided := rfl
@[simp] theorem State.fresh_since : s.fresh.2.since = s.since := rfl
@[simp] theorem State.fresh_genNotices : s.fresh.2.genNotices = s.genNotices := rfl
@[simp] theorem State.fresh_topTide : s.fresh.2.topTide = s.topTide := rfl
@[simp] theorem State.fresh_poisoned : s.fresh.2.poisoned = s.poisoned := rfl
@[simp] theorem State.fresh_appends : s.fresh.2.appends = s.appends := rfl
@[simp] theorem State.fresh_steals : s.fresh.2.steals = s.steals := rfl
@[simp] theorem State.fresh_tlbis : s.fresh.2.tlbis = s.tlbis := rfl
@[simp] theorem State.fresh_dist : s.fresh.2.dist = s.dist := rfl
@[simp] theorem State.fresh_host : s.fresh.2.host = s.host := rfl

/-! ## poke -/

@[simp] theorem State.poke_agenda (l : Nat) (bs : List Byte) : (s.poke l bs).agenda = s.agenda := rfl
@[simp] theorem State.poke_runs (l : Nat) (bs : List Byte) : (s.poke l bs).runs = s.runs := rfl
@[simp] theorem State.poke_cycle (l : Nat) (bs : List Byte) : (s.poke l bs).cycle = s.cycle := rfl
@[simp] theorem State.poke_free (l : Nat) (bs : List Byte) : (s.poke l bs).free = s.free := rfl
@[simp] theorem State.poke_nextId (l : Nat) (bs : List Byte) : (s.poke l bs).nextId = s.nextId := rfl
@[simp] theorem State.poke_lines (l : Nat) (bs : List Byte) : (s.poke l bs).lines = s.lines := rfl
@[simp] theorem State.poke_slices (l : Nat) (bs : List Byte) : (s.poke l bs).slices = s.slices := rfl
@[simp] theorem State.poke_groups (l : Nat) (bs : List Byte) : (s.poke l bs).groups = s.groups := rfl
@[simp] theorem State.poke_teams (l : Nat) (bs : List Byte) : (s.poke l bs).teams = s.teams := rfl
@[simp] theorem State.poke_cores (l : Nat) (bs : List Byte) : (s.poke l bs).cores = s.cores := rfl
@[simp] theorem State.poke_dies (l : Nat) (bs : List Byte) : (s.poke l bs).dies = s.dies := rfl
@[simp] theorem State.poke_walks (l : Nat) (bs : List Byte) : (s.poke l bs).walks = s.walks := rfl
@[simp] theorem State.poke_replies (l : Nat) (bs : List Byte) : (s.poke l bs).replies = s.replies := rfl
@[simp] theorem State.poke_reds (l : Nat) (bs : List Byte) : (s.poke l bs).reds = s.reds := rfl
@[simp] theorem State.poke_remotes (l : Nat) (bs : List Byte) : (s.poke l bs).remotes = s.remotes := rfl
@[simp] theorem State.poke_locks (l : Nat) (bs : List Byte) : (s.poke l bs).locks = s.locks := rfl
@[simp] theorem State.poke_ops (l : Nat) (bs : List Byte) : (s.poke l bs).ops = s.ops := rfl
@[simp] theorem State.poke_monitors (l : Nat) (bs : List Byte) : (s.poke l bs).monitors = s.monitors := rfl
@[simp] theorem State.poke_notices (l : Nat) (bs : List Byte) : (s.poke l bs).notices = s.notices := rfl
@[simp] theorem State.poke_era (l : Nat) (bs : List Byte) : (s.poke l bs).era = s.era := rfl
@[simp] theorem State.poke_bumps (l : Nat) (bs : List Byte) : (s.poke l bs).bumps = s.bumps := rfl
@[simp] theorem State.poke_farSealed (l : Nat) (bs : List Byte) : (s.poke l bs).farSealed = s.farSealed := rfl
@[simp] theorem State.poke_decided (l : Nat) (bs : List Byte) : (s.poke l bs).decided = s.decided := rfl
@[simp] theorem State.poke_since (l : Nat) (bs : List Byte) : (s.poke l bs).since = s.since := rfl
@[simp] theorem State.poke_genNotices (l : Nat) (bs : List Byte) : (s.poke l bs).genNotices = s.genNotices := rfl
@[simp] theorem State.poke_topTide (l : Nat) (bs : List Byte) : (s.poke l bs).topTide = s.topTide := rfl
@[simp] theorem State.poke_poisoned (l : Nat) (bs : List Byte) : (s.poke l bs).poisoned = s.poisoned := rfl
@[simp] theorem State.poke_appends (l : Nat) (bs : List Byte) : (s.poke l bs).appends = s.appends := rfl
@[simp] theorem State.poke_steals (l : Nat) (bs : List Byte) : (s.poke l bs).steals = s.steals := rfl
@[simp] theorem State.poke_tlbis (l : Nat) (bs : List Byte) : (s.poke l bs).tlbis = s.tlbis := rfl
@[simp] theorem State.poke_dist (l : Nat) (bs : List Byte) : (s.poke l bs).dist = s.dist := rfl
@[simp] theorem State.poke_host (l : Nat) (bs : List Byte) : (s.poke l bs).host = s.host := rfl

/-! ## rotate -/

@[simp] theorem State.rotate_agenda : s.rotate.agenda = s.agenda := rfl
@[simp] theorem State.rotate_cycle : s.rotate.cycle = s.cycle := rfl
@[simp] theorem State.rotate_free : s.rotate.free = s.free := rfl
@[simp] theorem State.rotate_nextId : s.rotate.nextId = s.nextId := rfl
@[simp] theorem State.rotate_mem : s.rotate.mem = s.mem := rfl
@[simp] theorem State.rotate_lines : s.rotate.lines = s.lines := rfl
@[simp] theorem State.rotate_slices : s.rotate.slices = s.slices := rfl
@[simp] theorem State.rotate_groups : s.rotate.groups = s.groups := rfl
@[simp] theorem State.rotate_teams : s.rotate.teams = s.teams := rfl
@[simp] theorem State.rotate_cores : s.rotate.cores = s.cores := rfl
@[simp] theorem State.rotate_dies : s.rotate.dies = s.dies := rfl
@[simp] theorem State.rotate_walks : s.rotate.walks = s.walks := rfl
@[simp] theorem State.rotate_replies : s.rotate.replies = s.replies := rfl
@[simp] theorem State.rotate_reds : s.rotate.reds = s.reds := rfl
@[simp] theorem State.rotate_remotes : s.rotate.remotes = s.remotes := rfl
@[simp] theorem State.rotate_locks : s.rotate.locks = s.locks := rfl
@[simp] theorem State.rotate_ops : s.rotate.ops = s.ops := rfl
@[simp] theorem State.rotate_monitors : s.rotate.monitors = s.monitors := rfl
@[simp] theorem State.rotate_notices : s.rotate.notices = s.notices := rfl
@[simp] theorem State.rotate_era : s.rotate.era = s.era := rfl
@[simp] theorem State.rotate_bumps : s.rotate.bumps = s.bumps := rfl
@[simp] theorem State.rotate_farSealed : s.rotate.farSealed = s.farSealed := rfl
@[simp] theorem State.rotate_decided : s.rotate.decided = s.decided := rfl
@[simp] theorem State.rotate_since : s.rotate.since = s.since := rfl
@[simp] theorem State.rotate_genNotices : s.rotate.genNotices = s.genNotices := rfl
@[simp] theorem State.rotate_topTide : s.rotate.topTide = s.topTide := rfl
@[simp] theorem State.rotate_poisoned : s.rotate.poisoned = s.poisoned := rfl
@[simp] theorem State.rotate_appends : s.rotate.appends = s.appends := rfl
@[simp] theorem State.rotate_steals : s.rotate.steals = s.steals := rfl
@[simp] theorem State.rotate_tlbis : s.rotate.tlbis = s.tlbis := rfl
@[simp] theorem State.rotate_dist : s.rotate.dist = s.dist := rfl
@[simp] theorem State.rotate_host : s.rotate.host = s.host := rfl

/-! ## modGroup -/

@[simp] theorem State.modGroup_agenda (g : Nat) (f : Group → Group) : (s.modGroup g f).agenda = s.agenda := by
  unfold State.modGroup; split <;> rfl
@[simp] theorem State.modGroup_runs (g : Nat) (f : Group → Group) : (s.modGroup g f).runs = s.runs := by
  unfold State.modGroup; split <;> rfl
@[simp] theorem State.modGroup_cycle (g : Nat) (f : Group → Group) : (s.modGroup g f).cycle = s.cycle := by
  unfold State.modGroup; split <;> rfl
@[simp] theorem State.modGroup_free (g : Nat) (f : Group → Group) : (s.modGroup g f).free = s.free := by
  unfold State.modGroup; split <;> rfl
@[simp] theorem State.modGroup_nextId (g : Nat) (f : Group → Group) : (s.modGroup g f).nextId = s.nextId := by
  unfold State.modGroup; split <;> rfl
@[simp] theorem State.modGroup_mem (g : Nat) (f : Group → Group) : (s.modGroup g f).mem = s.mem := by
  unfold State.modGroup; split <;> rfl
@[simp] theorem State.modGroup_lines (g : Nat) (f : Group → Group) : (s.modGroup g f).lines = s.lines := by
  unfold State.modGroup; split <;> rfl
@[simp] theorem State.modGroup_slices (g : Nat) (f : Group → Group) : (s.modGroup g f).slices = s.slices := by
  unfold State.modGroup; split <;> rfl
@[simp] theorem State.modGroup_teams (g : Nat) (f : Group → Group) : (s.modGroup g f).teams = s.teams := by
  unfold State.modGroup; split <;> rfl
@[simp] theorem State.modGroup_cores (g : Nat) (f : Group → Group) : (s.modGroup g f).cores = s.cores := by
  unfold State.modGroup; split <;> rfl
@[simp] theorem State.modGroup_dies (g : Nat) (f : Group → Group) : (s.modGroup g f).dies = s.dies := by
  unfold State.modGroup; split <;> rfl
@[simp] theorem State.modGroup_walks (g : Nat) (f : Group → Group) : (s.modGroup g f).walks = s.walks := by
  unfold State.modGroup; split <;> rfl
@[simp] theorem State.modGroup_replies (g : Nat) (f : Group → Group) : (s.modGroup g f).replies = s.replies := by
  unfold State.modGroup; split <;> rfl
@[simp] theorem State.modGroup_reds (g : Nat) (f : Group → Group) : (s.modGroup g f).reds = s.reds := by
  unfold State.modGroup; split <;> rfl
@[simp] theorem State.modGroup_remotes (g : Nat) (f : Group → Group) : (s.modGroup g f).remotes = s.remotes := by
  unfold State.modGroup; split <;> rfl
@[simp] theorem State.modGroup_locks (g : Nat) (f : Group → Group) : (s.modGroup g f).locks = s.locks := by
  unfold State.modGroup; split <;> rfl
@[simp] theorem State.modGroup_ops (g : Nat) (f : Group → Group) : (s.modGroup g f).ops = s.ops := by
  unfold State.modGroup; split <;> rfl
@[simp] theorem State.modGroup_monitors (g : Nat) (f : Group → Group) : (s.modGroup g f).monitors = s.monitors := by
  unfold State.modGroup; split <;> rfl
@[simp] theorem State.modGroup_notices (g : Nat) (f : Group → Group) : (s.modGroup g f).notices = s.notices := by
  unfold State.modGroup; split <;> rfl
@[simp] theorem State.modGroup_era (g : Nat) (f : Group → Group) : (s.modGroup g f).era = s.era := by
  unfold State.modGroup; split <;> rfl
@[simp] theorem State.modGroup_bumps (g : Nat) (f : Group → Group) : (s.modGroup g f).bumps = s.bumps := by
  unfold State.modGroup; split <;> rfl
@[simp] theorem State.modGroup_farSealed (g : Nat) (f : Group → Group) : (s.modGroup g f).farSealed = s.farSealed := by
  unfold State.modGroup; split <;> rfl
@[simp] theorem State.modGroup_decided (g : Nat) (f : Group → Group) : (s.modGroup g f).decided = s.decided := by
  unfold State.modGroup; split <;> rfl
@[simp] theorem State.modGroup_since (g : Nat) (f : Group → Group) : (s.modGroup g f).since = s.since := by
  unfold State.modGroup; split <;> rfl
@[simp] theorem State.modGroup_genNotices (g : Nat) (f : Group → Group) : (s.modGroup g f).genNotices = s.genNotices := by
  unfold State.modGroup; split <;> rfl
@[simp] theorem State.modGroup_topTide (g : Nat) (f : Group → Group) : (s.modGroup g f).topTide = s.topTide := by
  unfold State.modGroup; split <;> rfl
@[simp] theorem State.modGroup_poisoned (g : Nat) (f : Group → Group) : (s.modGroup g f).poisoned = s.poisoned := by
  unfold State.modGroup; split <;> rfl
@[simp] theorem State.modGroup_appends (g : Nat) (f : Group → Group) : (s.modGroup g f).appends = s.appends := by
  unfold State.modGroup; split <;> rfl
@[simp] theorem State.modGroup_steals (g : Nat) (f : Group → Group) : (s.modGroup g f).steals = s.steals := by
  unfold State.modGroup; split <;> rfl
@[simp] theorem State.modGroup_tlbis (g : Nat) (f : Group → Group) : (s.modGroup g f).tlbis = s.tlbis := by
  unfold State.modGroup; split <;> rfl
@[simp] theorem State.modGroup_dist (g : Nat) (f : Group → Group) : (s.modGroup g f).dist = s.dist := by
  unfold State.modGroup; split <;> rfl
@[simp] theorem State.modGroup_host (g : Nat) (f : Group → Group) : (s.modGroup g f).host = s.host := by
  unfold State.modGroup; split <;> rfl

/-! ## modTeam -/

@[simp] theorem State.modTeam_agenda (h : Nat) (f : Team → Team) : (s.modTeam h f).agenda = s.agenda := by
  unfold State.modTeam; split <;> rfl
@[simp] theorem State.modTeam_runs (h : Nat) (f : Team → Team) : (s.modTeam h f).runs = s.runs := by
  unfold State.modTeam; split <;> rfl
@[simp] theorem State.modTeam_cycle (h : Nat) (f : Team → Team) : (s.modTeam h f).cycle = s.cycle := by
  unfold State.modTeam; split <;> rfl
@[simp] theorem State.modTeam_free (h : Nat) (f : Team → Team) : (s.modTeam h f).free = s.free := by
  unfold State.modTeam; split <;> rfl
@[simp] theorem State.modTeam_nextId (h : Nat) (f : Team → Team) : (s.modTeam h f).nextId = s.nextId := by
  unfold State.modTeam; split <;> rfl
@[simp] theorem State.modTeam_mem (h : Nat) (f : Team → Team) : (s.modTeam h f).mem = s.mem := by
  unfold State.modTeam; split <;> rfl
@[simp] theorem State.modTeam_lines (h : Nat) (f : Team → Team) : (s.modTeam h f).lines = s.lines := by
  unfold State.modTeam; split <;> rfl
@[simp] theorem State.modTeam_slices (h : Nat) (f : Team → Team) : (s.modTeam h f).slices = s.slices := by
  unfold State.modTeam; split <;> rfl
@[simp] theorem State.modTeam_groups (h : Nat) (f : Team → Team) : (s.modTeam h f).groups = s.groups := by
  unfold State.modTeam; split <;> rfl
@[simp] theorem State.modTeam_cores (h : Nat) (f : Team → Team) : (s.modTeam h f).cores = s.cores := by
  unfold State.modTeam; split <;> rfl
@[simp] theorem State.modTeam_dies (h : Nat) (f : Team → Team) : (s.modTeam h f).dies = s.dies := by
  unfold State.modTeam; split <;> rfl
@[simp] theorem State.modTeam_walks (h : Nat) (f : Team → Team) : (s.modTeam h f).walks = s.walks := by
  unfold State.modTeam; split <;> rfl
@[simp] theorem State.modTeam_replies (h : Nat) (f : Team → Team) : (s.modTeam h f).replies = s.replies := by
  unfold State.modTeam; split <;> rfl
@[simp] theorem State.modTeam_reds (h : Nat) (f : Team → Team) : (s.modTeam h f).reds = s.reds := by
  unfold State.modTeam; split <;> rfl
@[simp] theorem State.modTeam_remotes (h : Nat) (f : Team → Team) : (s.modTeam h f).remotes = s.remotes := by
  unfold State.modTeam; split <;> rfl
@[simp] theorem State.modTeam_locks (h : Nat) (f : Team → Team) : (s.modTeam h f).locks = s.locks := by
  unfold State.modTeam; split <;> rfl
@[simp] theorem State.modTeam_ops (h : Nat) (f : Team → Team) : (s.modTeam h f).ops = s.ops := by
  unfold State.modTeam; split <;> rfl
@[simp] theorem State.modTeam_monitors (h : Nat) (f : Team → Team) : (s.modTeam h f).monitors = s.monitors := by
  unfold State.modTeam; split <;> rfl
@[simp] theorem State.modTeam_notices (h : Nat) (f : Team → Team) : (s.modTeam h f).notices = s.notices := by
  unfold State.modTeam; split <;> rfl
@[simp] theorem State.modTeam_era (h : Nat) (f : Team → Team) : (s.modTeam h f).era = s.era := by
  unfold State.modTeam; split <;> rfl
@[simp] theorem State.modTeam_bumps (h : Nat) (f : Team → Team) : (s.modTeam h f).bumps = s.bumps := by
  unfold State.modTeam; split <;> rfl
@[simp] theorem State.modTeam_farSealed (h : Nat) (f : Team → Team) : (s.modTeam h f).farSealed = s.farSealed := by
  unfold State.modTeam; split <;> rfl
@[simp] theorem State.modTeam_decided (h : Nat) (f : Team → Team) : (s.modTeam h f).decided = s.decided := by
  unfold State.modTeam; split <;> rfl
@[simp] theorem State.modTeam_since (h : Nat) (f : Team → Team) : (s.modTeam h f).since = s.since := by
  unfold State.modTeam; split <;> rfl
@[simp] theorem State.modTeam_genNotices (h : Nat) (f : Team → Team) : (s.modTeam h f).genNotices = s.genNotices := by
  unfold State.modTeam; split <;> rfl
@[simp] theorem State.modTeam_topTide (h : Nat) (f : Team → Team) : (s.modTeam h f).topTide = s.topTide := by
  unfold State.modTeam; split <;> rfl
@[simp] theorem State.modTeam_poisoned (h : Nat) (f : Team → Team) : (s.modTeam h f).poisoned = s.poisoned := by
  unfold State.modTeam; split <;> rfl
@[simp] theorem State.modTeam_appends (h : Nat) (f : Team → Team) : (s.modTeam h f).appends = s.appends := by
  unfold State.modTeam; split <;> rfl
@[simp] theorem State.modTeam_steals (h : Nat) (f : Team → Team) : (s.modTeam h f).steals = s.steals := by
  unfold State.modTeam; split <;> rfl
@[simp] theorem State.modTeam_tlbis (h : Nat) (f : Team → Team) : (s.modTeam h f).tlbis = s.tlbis := by
  unfold State.modTeam; split <;> rfl
@[simp] theorem State.modTeam_dist (h : Nat) (f : Team → Team) : (s.modTeam h f).dist = s.dist := by
  unfold State.modTeam; split <;> rfl
@[simp] theorem State.modTeam_host (h : Nat) (f : Team → Team) : (s.modTeam h f).host = s.host := by
  unfold State.modTeam; split <;> rfl

/-! ## raiseTide -/

@[simp] theorem State.raiseTide_agenda (g t : Nat) : (s.raiseTide g t).agenda = s.agenda := by
  simp [State.raiseTide]
@[simp] theorem State.raiseTide_runs (g t : Nat) : (s.raiseTide g t).runs = s.runs := by
  simp [State.raiseTide]
@[simp] theorem State.raiseTide_cycle (g t : Nat) : (s.raiseTide g t).cycle = s.cycle := by
  simp [State.raiseTide]
@[simp] theorem State.raiseTide_free (g t : Nat) : (s.raiseTide g t).free = s.free := by
  simp [State.raiseTide]
@[simp] theorem State.raiseTide_nextId (g t : Nat) : (s.raiseTide g t).nextId = s.nextId := by
  simp [State.raiseTide]
@[simp] theorem State.raiseTide_mem (g t : Nat) : (s.raiseTide g t).mem = s.mem := by
  simp [State.raiseTide]
@[simp] theorem State.raiseTide_lines (g t : Nat) : (s.raiseTide g t).lines = s.lines := by
  simp [State.raiseTide]
@[simp] theorem State.raiseTide_slices (g t : Nat) : (s.raiseTide g t).slices = s.slices := by
  simp [State.raiseTide]
@[simp] theorem State.raiseTide_teams (g t : Nat) : (s.raiseTide g t).teams = s.teams := by
  simp [State.raiseTide]
@[simp] theorem State.raiseTide_cores (g t : Nat) : (s.raiseTide g t).cores = s.cores := by
  simp [State.raiseTide]
@[simp] theorem State.raiseTide_dies (g t : Nat) : (s.raiseTide g t).dies = s.dies := by
  simp [State.raiseTide]
@[simp] theorem State.raiseTide_walks (g t : Nat) : (s.raiseTide g t).walks = s.walks := by
  simp [State.raiseTide]
@[simp] theorem State.raiseTide_replies (g t : Nat) : (s.raiseTide g t).replies = s.replies := by
  simp [State.raiseTide]
@[simp] theorem State.raiseTide_reds (g t : Nat) : (s.raiseTide g t).reds = s.reds := by
  simp [State.raiseTide]
@[simp] theorem State.raiseTide_remotes (g t : Nat) : (s.raiseTide g t).remotes = s.remotes := by
  simp [State.raiseTide]
@[simp] theorem State.raiseTide_locks (g t : Nat) : (s.raiseTide g t).locks = s.locks := by
  simp [State.raiseTide]
@[simp] theorem State.raiseTide_ops (g t : Nat) : (s.raiseTide g t).ops = s.ops := by
  simp [State.raiseTide]
@[simp] theorem State.raiseTide_monitors (g t : Nat) : (s.raiseTide g t).monitors = s.monitors := by
  simp [State.raiseTide]
@[simp] theorem State.raiseTide_notices (g t : Nat) : (s.raiseTide g t).notices = s.notices := by
  simp [State.raiseTide]
@[simp] theorem State.raiseTide_era (g t : Nat) : (s.raiseTide g t).era = s.era := by
  simp [State.raiseTide]
@[simp] theorem State.raiseTide_bumps (g t : Nat) : (s.raiseTide g t).bumps = s.bumps := by
  simp [State.raiseTide]
@[simp] theorem State.raiseTide_farSealed (g t : Nat) : (s.raiseTide g t).farSealed = s.farSealed := by
  simp [State.raiseTide]
@[simp] theorem State.raiseTide_decided (g t : Nat) : (s.raiseTide g t).decided = s.decided := by
  simp [State.raiseTide]
@[simp] theorem State.raiseTide_since (g t : Nat) : (s.raiseTide g t).since = s.since := by
  simp [State.raiseTide]
@[simp] theorem State.raiseTide_genNotices (g t : Nat) : (s.raiseTide g t).genNotices = s.genNotices := by
  simp [State.raiseTide]
@[simp] theorem State.raiseTide_topTide (g t : Nat) : (s.raiseTide g t).topTide = s.topTide := by
  simp [State.raiseTide]
@[simp] theorem State.raiseTide_poisoned (g t : Nat) : (s.raiseTide g t).poisoned = s.poisoned := by
  simp [State.raiseTide]
@[simp] theorem State.raiseTide_appends (g t : Nat) : (s.raiseTide g t).appends = s.appends := by
  simp [State.raiseTide]
@[simp] theorem State.raiseTide_steals (g t : Nat) : (s.raiseTide g t).steals = s.steals := by
  simp [State.raiseTide]
@[simp] theorem State.raiseTide_tlbis (g t : Nat) : (s.raiseTide g t).tlbis = s.tlbis := by
  simp [State.raiseTide]
@[simp] theorem State.raiseTide_dist (g t : Nat) : (s.raiseTide g t).dist = s.dist := by
  simp [State.raiseTide]
@[simp] theorem State.raiseTide_host (g t : Nat) : (s.raiseTide g t).host = s.host := by
  simp [State.raiseTide]

/-! ## landTiles -/

@[simp] theorem State.landTiles_runs (g : Nat) : (s.landTiles g).runs = s.runs := by
  unfold State.landTiles; split <;> [rfl; (split <;> simp)]
@[simp] theorem State.landTiles_groups (g : Nat) : (s.landTiles g).groups = s.groups := by
  unfold State.landTiles; split <;> [rfl; (split <;> simp)]
/-- With no write to the group's team waiting, nothing lands. -/
theorem State.landTiles_none (g : Nat) (h : ∀ x t, s.group? g = some x → s.team? x.team = some t → t.tileIn = []) :
    s.landTiles g = s := by
  unfold State.landTiles
  split
  · rfl
  · rename_i x hx
    rw [if_pos]
    cases ht : s.team? x.team with
    | none => rfl
    | some t => simp [h x t hx ht]

@[simp] theorem State.landTiles_agenda (g : Nat) : (s.landTiles g).agenda = s.agenda := by
  unfold State.landTiles; split <;> [rfl; (split <;> simp)]
@[simp] theorem State.landTiles_cycle (g : Nat) : (s.landTiles g).cycle = s.cycle := by
  unfold State.landTiles; split <;> [rfl; (split <;> simp)]
@[simp] theorem State.landTiles_free (g : Nat) : (s.landTiles g).free = s.free := by
  unfold State.landTiles; split <;> [rfl; (split <;> simp)]
@[simp] theorem State.landTiles_nextId (g : Nat) : (s.landTiles g).nextId = s.nextId := by
  unfold State.landTiles; split <;> [rfl; (split <;> simp)]
@[simp] theorem State.landTiles_mem (g : Nat) : (s.landTiles g).mem = s.mem := by
  unfold State.landTiles; split <;> [rfl; (split <;> simp)]
@[simp] theorem State.landTiles_lines (g : Nat) : (s.landTiles g).lines = s.lines := by
  unfold State.landTiles; split <;> [rfl; (split <;> simp)]
@[simp] theorem State.landTiles_slices (g : Nat) : (s.landTiles g).slices = s.slices := by
  unfold State.landTiles; split <;> [rfl; (split <;> simp)]
@[simp] theorem State.landTiles_cores (g : Nat) : (s.landTiles g).cores = s.cores := by
  unfold State.landTiles; split <;> [rfl; (split <;> simp)]
@[simp] theorem State.landTiles_dies (g : Nat) : (s.landTiles g).dies = s.dies := by
  unfold State.landTiles; split <;> [rfl; (split <;> simp)]
@[simp] theorem State.landTiles_walks (g : Nat) : (s.landTiles g).walks = s.walks := by
  unfold State.landTiles; split <;> [rfl; (split <;> simp)]
@[simp] theorem State.landTiles_replies (g : Nat) : (s.landTiles g).replies = s.replies := by
  unfold State.landTiles; split <;> [rfl; (split <;> simp)]
@[simp] theorem State.landTiles_reds (g : Nat) : (s.landTiles g).reds = s.reds := by
  unfold State.landTiles; split <;> [rfl; (split <;> simp)]
@[simp] theorem State.landTiles_remotes (g : Nat) : (s.landTiles g).remotes = s.remotes := by
  unfold State.landTiles; split <;> [rfl; (split <;> simp)]
@[simp] theorem State.landTiles_locks (g : Nat) : (s.landTiles g).locks = s.locks := by
  unfold State.landTiles; split <;> [rfl; (split <;> simp)]
@[simp] theorem State.landTiles_ops (g : Nat) : (s.landTiles g).ops = s.ops := by
  unfold State.landTiles; split <;> [rfl; (split <;> simp)]
@[simp] theorem State.landTiles_monitors (g : Nat) : (s.landTiles g).monitors = s.monitors := by
  unfold State.landTiles; split <;> [rfl; (split <;> simp)]
@[simp] theorem State.landTiles_notices (g : Nat) : (s.landTiles g).notices = s.notices := by
  unfold State.landTiles; split <;> [rfl; (split <;> simp)]
@[simp] theorem State.landTiles_era (g : Nat) : (s.landTiles g).era = s.era := by
  unfold State.landTiles; split <;> [rfl; (split <;> simp)]
@[simp] theorem State.landTiles_bumps (g : Nat) : (s.landTiles g).bumps = s.bumps := by
  unfold State.landTiles; split <;> [rfl; (split <;> simp)]
@[simp] theorem State.landTiles_farSealed (g : Nat) : (s.landTiles g).farSealed = s.farSealed := by
  unfold State.landTiles; split <;> [rfl; (split <;> simp)]
@[simp] theorem State.landTiles_decided (g : Nat) : (s.landTiles g).decided = s.decided := by
  unfold State.landTiles; split <;> [rfl; (split <;> simp)]
@[simp] theorem State.landTiles_since (g : Nat) : (s.landTiles g).since = s.since := by
  unfold State.landTiles; split <;> [rfl; (split <;> simp)]
@[simp] theorem State.landTiles_genNotices (g : Nat) : (s.landTiles g).genNotices = s.genNotices := by
  unfold State.landTiles; split <;> [rfl; (split <;> simp)]
@[simp] theorem State.landTiles_topTide (g : Nat) : (s.landTiles g).topTide = s.topTide := by
  unfold State.landTiles; split <;> [rfl; (split <;> simp)]
@[simp] theorem State.landTiles_poisoned (g : Nat) : (s.landTiles g).poisoned = s.poisoned := by
  unfold State.landTiles; split <;> [rfl; (split <;> simp)]
@[simp] theorem State.landTiles_appends (g : Nat) : (s.landTiles g).appends = s.appends := by
  unfold State.landTiles; split <;> [rfl; (split <;> simp)]
@[simp] theorem State.landTiles_steals (g : Nat) : (s.landTiles g).steals = s.steals := by
  unfold State.landTiles; split <;> [rfl; (split <;> simp)]
@[simp] theorem State.landTiles_tlbis (g : Nat) : (s.landTiles g).tlbis = s.tlbis := by
  unfold State.landTiles; split <;> [rfl; (split <;> simp)]
@[simp] theorem State.landTiles_dist (g : Nat) : (s.landTiles g).dist = s.dist := by
  unfold State.landTiles; split <;> [rfl; (split <;> simp)]
@[simp] theorem State.landTiles_host (g : Nat) : (s.landTiles g).host = s.host := by
  unfold State.landTiles; split <;> [rfl; (split <;> simp)]

/-! ## endRun -/

@[simp] theorem State.endRun_agenda (g : Nat) : (s.endRun g).agenda = s.agenda := by
  simp [State.endRun]
@[simp] theorem State.endRun_cycle (g : Nat) : (s.endRun g).cycle = s.cycle := by
  simp [State.endRun]
@[simp] theorem State.endRun_free (g : Nat) : (s.endRun g).free = s.free := by
  simp [State.endRun]
@[simp] theorem State.endRun_nextId (g : Nat) : (s.endRun g).nextId = s.nextId := by
  simp [State.endRun]
@[simp] theorem State.endRun_mem (g : Nat) : (s.endRun g).mem = s.mem := by
  simp [State.endRun]
@[simp] theorem State.endRun_lines (g : Nat) : (s.endRun g).lines = s.lines := by
  simp [State.endRun]
@[simp] theorem State.endRun_slices (g : Nat) : (s.endRun g).slices = s.slices := by
  simp [State.endRun]
@[simp] theorem State.endRun_cores (g : Nat) : (s.endRun g).cores = s.cores := by
  simp [State.endRun]
@[simp] theorem State.endRun_dies (g : Nat) : (s.endRun g).dies = s.dies := by
  simp [State.endRun]
@[simp] theorem State.endRun_walks (g : Nat) : (s.endRun g).walks = s.walks := by
  simp [State.endRun]
@[simp] theorem State.endRun_replies (g : Nat) : (s.endRun g).replies = s.replies := by
  simp [State.endRun]
@[simp] theorem State.endRun_reds (g : Nat) : (s.endRun g).reds = s.reds := by
  simp [State.endRun]
@[simp] theorem State.endRun_remotes (g : Nat) : (s.endRun g).remotes = s.remotes := by
  simp [State.endRun]
@[simp] theorem State.endRun_locks (g : Nat) : (s.endRun g).locks = s.locks := by
  simp [State.endRun]
@[simp] theorem State.endRun_ops (g : Nat) : (s.endRun g).ops = s.ops := by
  simp [State.endRun]
@[simp] theorem State.endRun_monitors (g : Nat) : (s.endRun g).monitors = s.monitors := by
  simp [State.endRun]
@[simp] theorem State.endRun_notices (g : Nat) : (s.endRun g).notices = s.notices := by
  simp [State.endRun]
@[simp] theorem State.endRun_era (g : Nat) : (s.endRun g).era = s.era := by
  simp [State.endRun]
@[simp] theorem State.endRun_bumps (g : Nat) : (s.endRun g).bumps = s.bumps := by
  simp [State.endRun]
@[simp] theorem State.endRun_farSealed (g : Nat) : (s.endRun g).farSealed = s.farSealed := by
  simp [State.endRun]
@[simp] theorem State.endRun_decided (g : Nat) : (s.endRun g).decided = s.decided := by
  simp [State.endRun]
@[simp] theorem State.endRun_since (g : Nat) : (s.endRun g).since = s.since := by
  simp [State.endRun]
@[simp] theorem State.endRun_genNotices (g : Nat) : (s.endRun g).genNotices = s.genNotices := by
  simp [State.endRun]
@[simp] theorem State.endRun_topTide (g : Nat) : (s.endRun g).topTide = s.topTide := by
  simp [State.endRun]
@[simp] theorem State.endRun_poisoned (g : Nat) : (s.endRun g).poisoned = s.poisoned := by
  simp [State.endRun]
@[simp] theorem State.endRun_appends (g : Nat) : (s.endRun g).appends = s.appends := by
  simp [State.endRun]
@[simp] theorem State.endRun_steals (g : Nat) : (s.endRun g).steals = s.steals := by
  simp [State.endRun]
@[simp] theorem State.endRun_tlbis (g : Nat) : (s.endRun g).tlbis = s.tlbis := by
  simp [State.endRun]
@[simp] theorem State.endRun_dist (g : Nat) : (s.endRun g).dist = s.dist := by
  simp [State.endRun]
@[simp] theorem State.endRun_host (g : Nat) : (s.endRun g).host = s.host := by
  simp [State.endRun]

/-! ## stallAt -/

@[simp] theorem State.stallAt_agenda (g : Nat) (w : Stall) : (s.stallAt g w).agenda = s.agenda := by
  simp [State.stallAt]
@[simp] theorem State.stallAt_cycle (g : Nat) (w : Stall) : (s.stallAt g w).cycle = s.cycle := by
  simp [State.stallAt]
@[simp] theorem State.stallAt_free (g : Nat) (w : Stall) : (s.stallAt g w).free = s.free := by
  simp [State.stallAt]
@[simp] theorem State.stallAt_nextId (g : Nat) (w : Stall) : (s.stallAt g w).nextId = s.nextId := by
  simp [State.stallAt]
@[simp] theorem State.stallAt_mem (g : Nat) (w : Stall) : (s.stallAt g w).mem = s.mem := by
  simp [State.stallAt]
@[simp] theorem State.stallAt_lines (g : Nat) (w : Stall) : (s.stallAt g w).lines = s.lines := by
  simp [State.stallAt]
@[simp] theorem State.stallAt_slices (g : Nat) (w : Stall) : (s.stallAt g w).slices = s.slices := by
  simp [State.stallAt]
@[simp] theorem State.stallAt_cores (g : Nat) (w : Stall) : (s.stallAt g w).cores = s.cores := by
  simp [State.stallAt]
@[simp] theorem State.stallAt_dies (g : Nat) (w : Stall) : (s.stallAt g w).dies = s.dies := by
  simp [State.stallAt]
@[simp] theorem State.stallAt_walks (g : Nat) (w : Stall) : (s.stallAt g w).walks = s.walks := by
  simp [State.stallAt]
@[simp] theorem State.stallAt_replies (g : Nat) (w : Stall) : (s.stallAt g w).replies = s.replies := by
  simp [State.stallAt]
@[simp] theorem State.stallAt_reds (g : Nat) (w : Stall) : (s.stallAt g w).reds = s.reds := by
  simp [State.stallAt]
@[simp] theorem State.stallAt_remotes (g : Nat) (w : Stall) : (s.stallAt g w).remotes = s.remotes := by
  simp [State.stallAt]
@[simp] theorem State.stallAt_locks (g : Nat) (w : Stall) : (s.stallAt g w).locks = s.locks := by
  simp [State.stallAt]
@[simp] theorem State.stallAt_ops (g : Nat) (w : Stall) : (s.stallAt g w).ops = s.ops := by
  simp [State.stallAt]
@[simp] theorem State.stallAt_monitors (g : Nat) (w : Stall) : (s.stallAt g w).monitors = s.monitors := by
  simp [State.stallAt]
@[simp] theorem State.stallAt_notices (g : Nat) (w : Stall) : (s.stallAt g w).notices = s.notices := by
  simp [State.stallAt]
@[simp] theorem State.stallAt_era (g : Nat) (w : Stall) : (s.stallAt g w).era = s.era := by
  simp [State.stallAt]
@[simp] theorem State.stallAt_bumps (g : Nat) (w : Stall) : (s.stallAt g w).bumps = s.bumps := by
  simp [State.stallAt]
@[simp] theorem State.stallAt_farSealed (g : Nat) (w : Stall) : (s.stallAt g w).farSealed = s.farSealed := by
  simp [State.stallAt]
@[simp] theorem State.stallAt_decided (g : Nat) (w : Stall) : (s.stallAt g w).decided = s.decided := by
  simp [State.stallAt]
@[simp] theorem State.stallAt_since (g : Nat) (w : Stall) : (s.stallAt g w).since = s.since := by
  simp [State.stallAt]
@[simp] theorem State.stallAt_genNotices (g : Nat) (w : Stall) : (s.stallAt g w).genNotices = s.genNotices := by
  simp [State.stallAt]
@[simp] theorem State.stallAt_topTide (g : Nat) (w : Stall) : (s.stallAt g w).topTide = s.topTide := by
  simp [State.stallAt]
@[simp] theorem State.stallAt_poisoned (g : Nat) (w : Stall) : (s.stallAt g w).poisoned = s.poisoned := by
  simp [State.stallAt]
@[simp] theorem State.stallAt_appends (g : Nat) (w : Stall) : (s.stallAt g w).appends = s.appends := by
  simp [State.stallAt]
@[simp] theorem State.stallAt_steals (g : Nat) (w : Stall) : (s.stallAt g w).steals = s.steals := by
  simp [State.stallAt]
@[simp] theorem State.stallAt_tlbis (g : Nat) (w : Stall) : (s.stallAt g w).tlbis = s.tlbis := by
  simp [State.stallAt]
@[simp] theorem State.stallAt_dist (g : Nat) (w : Stall) : (s.stallAt g w).dist = s.dist := by
  simp [State.stallAt]
@[simp] theorem State.stallAt_host (g : Nat) (w : Stall) : (s.stallAt g w).host = s.host := by
  simp [State.stallAt]

/-! ## setTag -/

@[simp] theorem State.setTag_agenda (h n : Nat) (x : Tag) : (s.setTag h n x).agenda = s.agenda := by
  simp [State.setTag]
@[simp] theorem State.setTag_runs (h n : Nat) (x : Tag) : (s.setTag h n x).runs = s.runs := by
  simp [State.setTag]
@[simp] theorem State.setTag_cycle (h n : Nat) (x : Tag) : (s.setTag h n x).cycle = s.cycle := by
  simp [State.setTag]
@[simp] theorem State.setTag_free (h n : Nat) (x : Tag) : (s.setTag h n x).free = s.free := by
  simp [State.setTag]
@[simp] theorem State.setTag_nextId (h n : Nat) (x : Tag) : (s.setTag h n x).nextId = s.nextId := by
  simp [State.setTag]
@[simp] theorem State.setTag_mem (h n : Nat) (x : Tag) : (s.setTag h n x).mem = s.mem := by
  simp [State.setTag]
@[simp] theorem State.setTag_lines (h n : Nat) (x : Tag) : (s.setTag h n x).lines = s.lines := by
  simp [State.setTag]
@[simp] theorem State.setTag_slices (h n : Nat) (x : Tag) : (s.setTag h n x).slices = s.slices := by
  simp [State.setTag]
@[simp] theorem State.setTag_groups (h n : Nat) (x : Tag) : (s.setTag h n x).groups = s.groups := by
  simp [State.setTag]
@[simp] theorem State.setTag_cores (h n : Nat) (x : Tag) : (s.setTag h n x).cores = s.cores := by
  simp [State.setTag]
@[simp] theorem State.setTag_dies (h n : Nat) (x : Tag) : (s.setTag h n x).dies = s.dies := by
  simp [State.setTag]
@[simp] theorem State.setTag_walks (h n : Nat) (x : Tag) : (s.setTag h n x).walks = s.walks := by
  simp [State.setTag]
@[simp] theorem State.setTag_replies (h n : Nat) (x : Tag) : (s.setTag h n x).replies = s.replies := by
  simp [State.setTag]
@[simp] theorem State.setTag_reds (h n : Nat) (x : Tag) : (s.setTag h n x).reds = s.reds := by
  simp [State.setTag]
@[simp] theorem State.setTag_remotes (h n : Nat) (x : Tag) : (s.setTag h n x).remotes = s.remotes := by
  simp [State.setTag]
@[simp] theorem State.setTag_locks (h n : Nat) (x : Tag) : (s.setTag h n x).locks = s.locks := by
  simp [State.setTag]
@[simp] theorem State.setTag_ops (h n : Nat) (x : Tag) : (s.setTag h n x).ops = s.ops := by
  simp [State.setTag]
@[simp] theorem State.setTag_monitors (h n : Nat) (x : Tag) : (s.setTag h n x).monitors = s.monitors := by
  simp [State.setTag]
@[simp] theorem State.setTag_notices (h n : Nat) (x : Tag) : (s.setTag h n x).notices = s.notices := by
  simp [State.setTag]
@[simp] theorem State.setTag_era (h n : Nat) (x : Tag) : (s.setTag h n x).era = s.era := by
  simp [State.setTag]
@[simp] theorem State.setTag_bumps (h n : Nat) (x : Tag) : (s.setTag h n x).bumps = s.bumps := by
  simp [State.setTag]
@[simp] theorem State.setTag_farSealed (h n : Nat) (x : Tag) : (s.setTag h n x).farSealed = s.farSealed := by
  simp [State.setTag]
@[simp] theorem State.setTag_decided (h n : Nat) (x : Tag) : (s.setTag h n x).decided = s.decided := by
  simp [State.setTag]
@[simp] theorem State.setTag_since (h n : Nat) (x : Tag) : (s.setTag h n x).since = s.since := by
  simp [State.setTag]
@[simp] theorem State.setTag_genNotices (h n : Nat) (x : Tag) : (s.setTag h n x).genNotices = s.genNotices := by
  simp [State.setTag]
@[simp] theorem State.setTag_topTide (h n : Nat) (x : Tag) : (s.setTag h n x).topTide = s.topTide := by
  simp [State.setTag]
@[simp] theorem State.setTag_poisoned (h n : Nat) (x : Tag) : (s.setTag h n x).poisoned = s.poisoned := by
  simp [State.setTag]
@[simp] theorem State.setTag_appends (h n : Nat) (x : Tag) : (s.setTag h n x).appends = s.appends := by
  simp [State.setTag]
@[simp] theorem State.setTag_steals (h n : Nat) (x : Tag) : (s.setTag h n x).steals = s.steals := by
  simp [State.setTag]
@[simp] theorem State.setTag_tlbis (h n : Nat) (x : Tag) : (s.setTag h n x).tlbis = s.tlbis := by
  simp [State.setTag]
@[simp] theorem State.setTag_dist (h n : Nat) (x : Tag) : (s.setTag h n x).dist = s.dist := by
  simp [State.setTag]
@[simp] theorem State.setTag_host (h n : Nat) (x : Tag) : (s.setTag h n x).host = s.host := by
  simp [State.setTag]

/-! ## What the updates write -/

@[simp] theorem State.setGroup_groups (g : Nat) (x : Group) : (s.setGroup g x).groups = sins s.groups g x := rfl
@[simp] theorem State.setTeam_teams (h : Nat) (x : Team) : (s.setTeam h x).teams = sins s.teams h x := rfl
@[simp] theorem State.setLine_lines (k : Nat) (l : Line) : (s.setLine k l).lines = sins s.lines k l := rfl
@[simp] theorem State.poke_mem (l : Nat) (bs : List Byte) : (s.poke l bs).mem = sputs 0 s.mem (pokes l bs) := rfl
@[simp] theorem State.modDist_dist (f : Dist → Dist) : (s.modDist f).dist = f s.dist := rfl
@[simp] theorem State.modHost_host (f : HostPort → HostPort) : (s.modHost f).host = f s.host := rfl
@[simp] theorem State.newId_nextId : s.newId.2.nextId = s.nextId + 1 := rfl
@[simp] theorem State.fresh_free : s.fresh.2.free = s.free + 1 := rfl

end Sys2Proof.Machine
end

