-- ==== Sys2Proof/Laws/Store.lean ====
section
/-!
SUPPORT. Sparse tables: what a lookup gives after each write, and that every write keeps the canonical form.
-/
namespace Sys2Proof.Machine

variable {α : Type}

/-! ## Lookups -/

theorem sfind_filter (p : Nat × α → Bool) (st : Store α) (n : Nat) (h : ∀ x, p (n, x) = true) :
    sfind (st.filter p) n = sfind st n := by
  induction st with
  | nil => rfl
  | cons e r ih =>
    obtain ⟨k, x⟩ := e
    by_cases hk : k = n
    · subst hk; simp [h, sfind]
    · by_cases hp : p (k, x) <;> simp [hp, sfind, hk, ih]

theorem sfind_sdel (st : Store α) (n m : Nat) : sfind (sdel st n) m = if m = n then none else sfind st m := by
  split
  case isTrue h =>
    subst h
    induction st with
    | nil => rfl
    | cons e r ih =>
      obtain ⟨k, x⟩ := e
      by_cases hk : k = m
      · simpa [sdel, List.filter_cons, hk] using ih
      · simpa [sdel, List.filter_cons, hk, sfind] using ih
  case isFalse h => exact sfind_filter _ _ _ fun _ => by simpa using h

theorem sfind_sinsAt (n : Nat) (x : α) (st : Store α) (m : Nat) (h : sfind st n = none) :
    sfind (sinsAt n x st) m = if m = n then some x else sfind st m := by
  induction st with
  | nil => simp [sinsAt, sfind, eq_comm]
  | cons e r ih =>
    obtain ⟨k, y⟩ := e
    have hk : k ≠ n := by rintro rfl; simp [sfind] at h
    have hr : sfind r n = none := by simpa [sfind, hk] using h
    by_cases hn : n < k
    · by_cases hm : m = n
      · simp [sinsAt, hn, sfind, hm]
      · simp [sinsAt, hn, sfind, hm, Ne.symm hm]
    · by_cases hm : k = m
      · subst hm; simp [sinsAt, hn, sfind, hk]
      · simp [sinsAt, hn, sfind, hm, ih hr]

theorem sfind_sins (st : Store α) (n : Nat) (x : α) (m : Nat) :
    sfind (sins st n x) m = if m = n then some x else sfind st m := by
  unfold sins
  rw [sfind_sinsAt _ _ _ _ (by simp [sfind_sdel]), sfind_sdel]
  split <;> simp_all
@[simp] theorem sfind_sins_self (st : Store α) (n : Nat) (x : α) : sfind (sins st n x) n = some x := by
  simp [sfind_sins]
theorem sfind_sins_ne (st : Store α) {n m : Nat} (x : α) (h : m ≠ n) : sfind (sins st n x) m = sfind st m := by
  simp [sfind_sins, h]

@[simp] theorem sget_nil (d : α) (n : Nat) : sget d [] n = d := rfl
theorem sget_sput [DecidableEq α] (d : α) (st : Store α) (n : Nat) (x : α) (m : Nat) :
    sget d (sput d st n x) m = if m = n then x else sget d st m := by
  unfold sget sput
  split
  case isTrue h => subst h; rw [sfind_sdel]; split <;> simp
  case isFalse h => rw [sfind_sins]; split <;> simp

/-- After several writes a key holds the last value written to it. -/
theorem sget_sputs [DecidableEq α] (d : α) (l : List (Nat × α)) (st : Store α) (m : Nat) :
    sget d (sputs d st l) m = ((l.reverse.find? fun e => e.1 == m).map Prod.snd).getD (sget d st m) := by
  induction l generalizing st with
  | nil => simp [sputs]
  | cons e r ih =>
    rw [show sputs d st (e :: r) = sputs d (sput d st e.1 e.2) r from rfl, ih, List.reverse_cons, List.find?_append]
    cases h : r.reverse.find? fun e => e.1 == m with
    | some y => simp
    | none =>
      by_cases hm : e.1 = m
      · simp [sget_sput, hm]
      · simp [sget_sput, hm, Ne.symm hm]
theorem sget_sputs_ne [DecidableEq α] (d : α) (l : List (Nat × α)) (st : Store α) (m : Nat)
    (h : ∀ e ∈ l, e.1 ≠ m) : sget d (sputs d st l) m = sget d st m := by
  rw [sget_sputs]
  rw [List.find?_eq_none.mpr (by simpa using h)]; rfl
/-- Writes whose value depends on the key alone. -/
theorem sget_sputs_of [DecidableEq α] (d : α) (l : List (Nat × α)) (st : Store α) (m : Nat) (f : Nat → α)
    (h : ∀ e ∈ l, e.1 = m → e.2 = f m) :
    sget d (sputs d st l) m = if m ∈ l.map Prod.fst then f m else sget d st m := by
  rw [sget_sputs]
  cases hf : l.reverse.find? fun e => e.1 == m with
  | none =>
    have : ¬ m ∈ l.map Prod.fst := by
      rw [List.find?_eq_none] at hf
      simp only [List.mem_map, not_exists, not_and]
      intro e he
      simpa using hf e (List.mem_reverse.mpr he)
    simp [this]
  | some e =>
    have he := List.mem_reverse.mp (List.mem_of_find?_eq_some hf)
    have hk : e.1 = m := by simpa using List.find?_some hf
    have : m ∈ l.map Prod.fst := hk ▸ List.mem_map_of_mem he
    simp [this, h e he hk]

/-! ## The canonical form -/

theorem keysUp_cons (e : Nat × α) (st : Store α) :
    keysUp (e :: st) = true ↔ (∀ x ∈ st, e.1 < x.1) ∧ keysUp st = true := by
  obtain ⟨k, v⟩ := e
  simp [keysUp]

theorem keysUp_filter (p : Nat × α → Bool) (st : Store α) (h : keysUp st = true) : keysUp (st.filter p) = true := by
  induction st with
  | nil => rfl
  | cons e r ih =>
    rw [keysUp_cons] at h
    by_cases hp : p e
    · rw [List.filter_cons_of_pos hp, keysUp_cons]
      exact ⟨fun x hx => h.1 x (List.mem_of_mem_filter hx), ih h.2⟩
    · rw [List.filter_cons_of_neg hp]; exact ih h.2

theorem mem_sinsAt (n : Nat) (x : α) (st : Store α) (e : Nat × α) : e ∈ sinsAt n x st ↔ e = (n, x) ∨ e ∈ st := by
  induction st with
  | nil => simp [sinsAt]
  | cons y r ih =>
    obtain ⟨k, v⟩ := y
    unfold sinsAt
    split
    · simp
    · simp only [List.mem_cons, ih]; tauto

theorem keysUp_sinsAt (n : Nat) (x : α) (st : Store α) (h : keysUp st = true) (hn : ∀ e ∈ st, e.1 ≠ n) :
    keysUp (sinsAt n x st) = true := by
  induction st with
  | nil => rfl
  | cons y r ih =>
    obtain ⟨k, v⟩ := y
    have h' := (keysUp_cons _ _).mp h
    unfold sinsAt
    split
    case isTrue hk =>
      refine (keysUp_cons _ _).mpr ⟨fun e he => ?_, h⟩
      rcases List.mem_cons.mp he with rfl | he
      · exact hk
      · exact lt_trans hk (h'.1 e he)
    case isFalse hk =>
      refine (keysUp_cons _ _).mpr ⟨fun e he => ?_, ih h'.2 fun e he => hn e (List.mem_cons_of_mem _ he)⟩
      rcases (mem_sinsAt _ _ _ _).mp he with rfl | he
      · have : k ≠ n := hn (k, v) List.mem_cons_self
        show k < n; omega
      · exact h'.1 e he

theorem keysUp_sins (st : Store α) (n : Nat) (x : α) (h : keysUp st = true) : keysUp (sins st n x) = true :=
  keysUp_sinsAt _ _ _ (keysUp_filter _ _ h) fun e he => by
    have := (List.mem_filter.mp he).2
    simpa using this

theorem wf_iff [DecidableEq α] (d : α) (st : Store α) :
    Store.wf d st = true ↔ keysUp st = true ∧ ∀ e ∈ st, e.2 ≠ d := by
  simp [Store.wf]

theorem wf_filter [DecidableEq α] (d : α) (p : Nat × α → Bool) (st : Store α) (h : Store.wf d st = true) :
    Store.wf d (st.filter p) = true := by
  rw [wf_iff] at h ⊢
  exact ⟨keysUp_filter _ _ h.1, fun e he => h.2 e (List.mem_of_mem_filter he)⟩

theorem wf_sput [DecidableEq α] (d : α) (st : Store α) (n : Nat) (x : α) (h : Store.wf d st = true) :
    Store.wf d (sput d st n x) = true := by
  unfold sput
  split
  · exact wf_filter d _ st h
  case isFalse hx =>
    rw [wf_iff] at h ⊢
    refine ⟨keysUp_sins _ _ _ h.1, fun e he => ?_⟩
    rcases (mem_sinsAt _ _ _ _).mp he with rfl | he
    · exact hx
    · exact h.2 e (List.mem_of_mem_filter he)

/-- Any number of writes keeps the canonical form. -/
theorem wf_sputs [DecidableEq α] (d : α) (l : List (Nat × α)) (st : Store α) (h : Store.wf d st = true) :
    Store.wf d (sputs d st l) = true := by
  induction l generalizing st with
  | nil => exact h
  | cons e r ih => exact ih _ (wf_sput d st e.1 e.2 h)

end Sys2Proof.Machine
end

