-- ==== Sys2Proof/Laws/Memory.lean ====
section
/-!
SUPPORT. Memory: what leaves it as it is, and that every operation on it keeps its canonical form (`Memory.wf`): strictly
rising addresses, no byte listed that an unlisted address reads as.
-/
namespace Sys2Proof.Machine

variable (s : State)

/-- A property that every step of a fold keeps. -/
theorem foldl_keeps {α β : Type} (p : β → Prop) (f : β → α → β) (hf : ∀ b x, p b → p (f b x)) (l : List α) (b : β) (h : p b) :
    p (l.foldl f b) := by
  induction l generalizing b with
  | nil => exact h
  | cons x r ih => exact ih _ (hf _ _ h)

/-! ## What changes no byte -/

@[simp] theorem State.raiseVector_mem (v : Nat) : (s.raiseVector v).mem = s.mem := rfl
@[simp] theorem State.pushFifo_mem (e : DWord) (w : Option (Nat × Nat)) (c : Option Nat) : (s.pushFifo e w c).mem = s.mem := rfl
@[simp] theorem State.noticeMonitors_mem (l t : Nat) : (s.noticeMonitors l t).mem = s.mem := rfl
@[simp] theorem State.noticeWatches_mem (l : Nat) : (s.noticeWatches l).mem = s.mem := by
  unfold State.noticeWatches
  exact foldl_keeps (fun x : State => x.mem = s.mem) _ (fun b _ h => by simpa using h) _ _ rfl
@[simp] theorem State.noticeRing_mem (l : List (Nat × Nat)) : (s.noticeRing l).mem = s.mem := by
  unfold State.noticeRing; split
  · split <;> rfl
  · rfl
@[simp] theorem State.noticeQueues_mem (l : Nat) : (s.noticeQueues l).mem = s.mem := by
  unfold State.noticeQueues
  exact foldl_keeps (fun x : State => x.mem = s.mem) _ (fun b _ h => by simpa using h) _ _ rfl
@[simp] theorem State.noteCell_mem (k t : Nat) : (s.noteCell k t).mem = s.mem := by
  unfold State.noteCell
  dsimp only
  split
  · rfl
  · split <;> rfl
@[simp] theorem State.noteCells_mem (l t : Nat) : (s.noteCells l t).mem = s.mem := by
  unfold State.noteCells
  split
  · rfl
  · exact foldl_keeps (fun x : State => x.mem = s.mem) _ (fun b _ h => by simpa using h) _ _ rfl
@[simp] theorem State.heal_mem (l : List (Nat × Nat)) (k : Nat) : (s.heal l k).mem = s.mem := by
  unfold State.heal; split <;> rfl
/-- What a write sets off reaches no memory. -/
@[simp] theorem State.wrote_mem (l : List (Nat × Nat)) (t : Nat) : (s.wrote l t).mem = s.mem := by
  unfold State.wrote; split <;> simp
@[simp] theorem State.wakeCheck_mem (k : Nat) : (s.wakeCheck k).mem = s.mem := rfl
@[simp] theorem State.dropEra_mem (k : Nat) (e : BitVec 8) : (s.dropEra k e).mem = s.mem := by
  unfold State.dropEra; split <;> simp
@[simp] theorem State.bumpDone_mem (b : EraBump) : (s.bumpDone b).mem = s.mem := by
  unfold State.bumpDone; split <;> simp
/-- The end of era bumps reaches no memory. -/
@[simp] theorem State.endBump_mem (b : EraBump) : (s.endBump b).mem = s.mem := by
  unfold State.endBump
  simpa using foldl_keeps (fun x : State => x.mem = s.mem) (fun (x : State) core => x.dropEra core b.era)
    (fun b _ h => by simpa using h) b.cores s rfl
@[simp] theorem State.endBumps_mem (p : EraBump → Bool) : (s.endBumps p).mem = s.mem := by
  unfold State.endBumps
  exact foldl_keeps (fun x : State => x.mem = s.mem) _ (fun b _ h => by simpa using h) _ _ rfl
@[simp] theorem State.hearNotice_mem (k : Nat) : (s.hearNotice k).mem = s.mem := by
  unfold State.hearNotice
  exact foldl_keeps (fun x : State => x.mem = s.mem) _ (fun b _ h => by split <;> simpa using h) _ _ rfl
@[simp] theorem State.hear_mem (core loc : Nat) : (s.hear core loc).mem = s.mem := by
  unfold State.hear; split <;> simp
@[simp] theorem State.machineCheck_mem (g : Nat) (d : BitVec 4) (i a : DWord) : (s.machineCheck g d i a).mem = s.mem := by
  simp [State.machineCheck]
@[simp] theorem State.poisonCheck_mem (c : Ctx) (loc : Nat) : (s.poisonCheck c loc).mem = s.mem := by
  unfold State.poisonCheck; split <;> simp
@[simp] theorem State.inbound_mem (g : Nat) (w : Inbound) : (s.inbound g w).mem = s.mem := by simp [State.inbound]
@[simp] theorem State.tileWrite_mem (h : Nat) (w : Nat × Nat × List Byte) : (s.tileWrite h w).mem = s.mem := by
  simp [State.tileWrite]
@[simp] theorem State.chipWrite_mem (core win off : Nat) (bs : List Byte) : (s.chipWrite core win off bs).mem = s.mem := by
  unfold State.chipWrite
  repeat' split
  all_goals first
    | rfl
    | exact foldl_keeps (fun x : State => x.mem = s.mem) _ (fun b x h => by split <;> simp [h]) _ _ rfl

/-! ## The canonical form -/

/-- The empty memory. -/
theorem wf_nil : Memory.wf [] = true := rfl
/-- Bytes written. -/
theorem State.poke_wf (loc : Nat) (bs : List Byte) (h : Memory.wf s.mem = true) : Memory.wf (s.poke loc bs).mem = true :=
  wf_sputs _ _ _ h
/-- Bytes written at a checked place, those beyond a carve-out dropped. -/
theorem State.put_wf (p : Place) (bs : List Byte) (h : Memory.wf s.mem = true) : Memory.wf (s.put p bs).mem = true := by
  unfold State.put
  split
  · exact wf_sputs _ _ _ h
  · simpa using h
/-- Granules zeroed at a placement. -/
theorem State.zeroRun_wf (core first n : Nat) (h : Memory.wf s.mem = true) : Memory.wf (s.zeroRun core first n).mem = true :=
  wf_filter _ _ _ h
/-- What a filter of a memory leaves, as a warm reset leaves it. -/
theorem Memory.wf_filter (p : Host.Cell → Bool) (m : List Host.Cell) (h : Memory.wf m = true) : Memory.wf (m.filter p) = true :=
  Sys2Proof.Machine.wf_filter _ _ _ h
theorem State.applyParts_wf (op : RedOp) (parts : List (Nat × Nat × Nat)) (h : Memory.wf s.mem = true) :
    Memory.wf (s.applyParts op parts).mem = true :=
  foldl_keeps (fun x : State => Memory.wf x.mem = true) _ (fun b _ h => b.poke_wf _ _ h) _ _ h
theorem State.merge_wf (key tide : Nat) (h : Memory.wf s.mem = true) : Memory.wf (s.merge key tide).mem = true := by
  unfold State.merge
  dsimp only
  split
  · exact h
  · simpa using s.applyParts_wf _ _ h
theorem State.settle_wf (key tide : Nat) (h : Memory.wf s.mem = true) : Memory.wf (s.settle key tide).mem = true :=
  State.merge_wf _ _ _ (by simpa using h)
theorem State.readHome_wf (loc len tide : Nat) (h : Memory.wf s.mem = true) :
    Memory.wf (s.readHome loc len tide).1.mem = true := s.settle_wf _ _ h
theorem State.claim_wf (loc tide : Nat) (o : Option Nat) (h : Memory.wf s.mem = true) :
    Memory.wf (s.claim loc tide o).1.mem = true := s.settle_wf _ _ h
theorem State.writeHome_wf (loc : Nat) (bs : List Byte) (tide : Nat) (h : Memory.wf s.mem = true) :
    Memory.wf (s.writeHome loc bs tide).1.mem = true := by
  simp only [State.writeHome, State.wrote_mem]
  exact State.poke_wf _ _ _ (s.claim_wf loc tide none h)
theorem State.writeSpan_wf (loc : Nat) (bs : List Byte) (tide : Nat) (h : Memory.wf s.mem = true) :
    Memory.wf (s.writeSpan loc bs tide).1.mem = true :=
  foldl_keeps (fun x : State × Nat => Memory.wf x.1.mem = true) _ (fun b _ h => b.1.writeHome_wf _ _ _ h) _ _ h
theorem State.readSpan_wf (loc n tide : Nat) (h : Memory.wf s.mem = true) : Memory.wf (s.readSpan loc n tide).1.mem = true :=
  foldl_keeps (fun x : State × Nat => Memory.wf x.1.mem = true) _ (fun b _ h => b.1.readHome_wf _ _ _ h) _ (s, tide) h
theorem State.hwWrite_wf (pa : Nat) (bs : List Byte) (h : Memory.wf s.mem = true) : Memory.wf (s.hwWrite pa bs).mem = true :=
  s.writeSpan_wf _ _ _ h
/-- A walk of the page tables, and a hardware access's translation. -/
theorem State.walkFrom_wf (die : Nat) (va : Nat) (l : List Nat) (tide base : Nat) (seen : List (Nat × Nat × DWord))
    (h : Memory.wf s.mem = true) : Memory.wf (s.walkFrom die tide va l base seen).1.mem = true := by
  induction l generalizing s tide base seen with
  | nil => exact h
  | cons level rest ih =>
    have hr := s.readHome_wf (base + 8 * levelIndex va level) 0 tide h
    unfold State.walkFrom
    dsimp only
    repeat' split
    all_goals first
      | exact h
      | exact hr
      | exact ih _ _ _ _ h
      | exact ih _ _ _ _ hr
theorem State.hwTr_wf {a : BitVec 2} {va tide : Nat} {r : State × Nat × Nat} (e : s.hwTr a va tide = .ok r)
    (h : Memory.wf s.mem = true) : Memory.wf r.1.mem = true := by
  unfold State.hwTr at e
  dsimp only at e
  split at e
  · cases e; exact s.walkFrom_wf _ _ _ _ _ _ h
  · cases e

/-! ## A group's accesses -/

@[simp] theorem State.rebase_mem (k w r t : Nat) : (s.rebase k w r t).mem = s.mem := by
  unfold State.rebase
  dsimp only
  repeat' split
  all_goals simp
theorem State.loadLine_wf (c : Ctx) (p : Place) (tide : Nat) (pend : Option Nat) (h : Memory.wf s.mem = true) :
    Memory.wf (s.loadLine c p tide pend).1.mem = true := by
  cases p with
  | chip core win off => exact h
  | mem loc t =>
    have hr := s.readHome_wf loc c.g.lease.toNat tide h
    unfold State.loadLine
    dsimp only
    repeat' split
    all_goals first
      | exact h
      | simpa using hr
theorem State.readLines_wf (c : Ctx) (l : List (Nat × Nat × Place)) (pend : Option Nat) (h : Memory.wf s.mem = true) :
    Memory.wf (s.readLines c l pend).1.mem = true := by
  unfold State.readLines
  dsimp only
  refine foldl_keeps (fun x : State => Memory.wf x.mem = true) _
    (fun b _ h => by split <;> simpa using h) _ _ ?_
  exact foldl_keeps (fun x : State × Nat × Nat × List (Nat × Source) => Memory.wf x.1.mem = true) _
    (fun b _ h => b.1.loadLine_wf _ _ _ _ h) _ (s, c.g.tide, 0, []) h
theorem State.loadLines_wf (c : Ctx) (l : List (Nat × Nat × Place)) (pend : Option Nat) (h : Memory.wf s.mem = true) :
    Memory.wf (s.loadLines c l pend).1.mem = true :=
  foldl_keeps (fun x : State => Memory.wf x.mem = true) _ (fun b _ h => by simpa using h) _ _ (s.readLines_wf c l pend h)
/-- The accesses of a load. -/
theorem State.loadPlaces_wf (c : Ctx) (size : Nat) (l : List (Nat × Nat × Place)) (h : Memory.wf s.mem = true) :
    Memory.wf (s.loadPlaces c size l).1.mem = true := by
  simpa [State.loadPlaces] using s.newId.2.loadLines_wf c l _ h
@[simp] theorem State.l1Drop_mem (core line : Nat) : (s.l1Drop core line).mem = s.mem := by
  unfold State.l1Drop
  dsimp only
  split <;> simp
@[simp] theorem State.l1Room_mem (core line : Nat) : (s.l1Room core line).mem = s.mem := by
  unfold State.l1Room
  dsimp only
  split
  · rfl
  · simp
theorem State.claimLine_wf (c : Ctx) (p : Place) (tide : Nat) (h : Memory.wf s.mem = true) :
    Memory.wf (s.claimLine c p tide).1.mem = true := by
  cases p with
  | chip core win off => exact h
  | mem loc t =>
    unfold State.claimLine
    dsimp only
    have hr : Memory.wf (s.l1Room c.t.core (s.fwd loc / 128)).mem = true := by simpa using h
    have h1 := State.claim_wf _ loc tide ((Place.mem loc t).owner c.t.core) hr
    have h2 := s.claim_wf loc tide ((Place.mem loc t).owner c.t.core) h
    repeat' split
    all_goals first
      | exact h1
      | exact h2
theorem State.claimLines_wf (c : Ctx) (l : List (Nat × Nat × Place)) (h : Memory.wf s.mem = true) :
    Memory.wf (s.claimLines c l).1.mem = true :=
  foldl_keeps (fun x : State × Nat × List (Nat × Nat) => Memory.wf x.1.mem = true) _
    (fun b _ h => by
      dsimp only
      split
      · exact b.1.claimLine_wf _ _ _ h
      · rw [State.hear_mem]; exact b.1.claimLine_wf _ _ _ h) _ _ h
@[simp] theorem State.wroteAll_mem (l sp : List (Nat × Nat)) : (s.wroteAll l sp).mem = s.mem := by
  unfold State.wroteAll
  exact foldl_keeps (fun x : State => x.mem = s.mem) _ (fun b _ h => by split <;> simpa using h) _ _ rfl
/-- The accesses of a store. -/
theorem State.storePlaces_wf (c : Ctx) (l : List (Nat × Nat × Place)) (data : Nat → List Byte) (h : Memory.wf s.mem = true) :
    Memory.wf (s.storePlaces c l data).mem = true := by
  have := foldl_keeps (fun x : State => Memory.wf x.mem = true) (fun (b : State) (e : Nat × Nat × Place) => b.put e.2.2 (data e.1))
    (fun b _ h => b.put_wf _ _ h) l _ (s.claimLines_wf c l h)
  simpa [State.storePlaces] using this
/-- One lane of an atomic. -/
theorem State.doElem_wf (op : ElemOp) (a : LaneAct) (h : Memory.wf s.mem = true) : Memory.wf (s.doElem op a).1.mem = true := by
  unfold State.doElem
  dsimp only
  split
  · exact s.put_wf _ _ h
  · exact h
/-- The lanes of an atomic, one after another. -/
theorem State.doElems_wf (op : ElemOp) (l : List LaneAct) (h : Memory.wf s.mem = true) :
    Memory.wf (s.doElems op l).1.mem = true :=
  foldl_keeps (fun x : State × List (Nat × Nat) × List Nat => Memory.wf x.1.mem = true) _
    (fun b _ h => b.1.doElem_wf _ _ h) _ _ h
/-- A line evicted from its shelf. -/
theorem State.evict_wf (line : Nat) (h : Memory.wf s.mem = true) : Memory.wf (s.evict line).mem = true := by
  unfold State.evict
  split
  · exact s.settle_wf _ _ h
  · exact h
/-- Bytes written and read by an engine, line by line. -/
theorem State.writeAt_wf (loc : Nat) (bs : List Byte) (tide : Nat) (h : Memory.wf s.mem = true) :
    Memory.wf (s.writeAt loc bs tide).1.mem = true := by
  unfold State.writeAt
  split
  · exact s.put_wf _ _ h
  · exact foldl_keeps (fun x : State × Nat => Memory.wf x.1.mem = true) _
      (fun b e h => by simpa using State.put_wf _ _ _ (b.1.claim_wf e.1 b.2 none h)) _ _ h
theorem State.readAt_wf (loc n tide : Nat) (h : Memory.wf s.mem = true) : Memory.wf (s.readAt loc n tide).1.mem = true := by
  unfold State.readAt
  split
  · exact h
  · exact foldl_keeps (fun x : State × Nat × List Byte => Memory.wf x.1.mem = true) _
      (fun b e h => b.1.readHome_wf _ _ _ h) _ _ h
/-- One line transfer of an engine. -/
theorem State.moveOne_wf (t : Transfer) (time : Nat) (h : Memory.wf s.mem = true) :
    Memory.wf (s.moveOne t time).1.mem = true := by
  unfold State.moveOne
  split
  · exact State.writeAt_wf _ _ _ _ (s.readAt_wf _ _ _ h)
  · exact s.writeAt_wf _ _ _ h

end Sys2Proof.Machine
end

