-- ==== Sys2Proof/Laws/Ops.lean ====
section
/-!
SUPPORT. What the shared operations do: lookups of groups, teams and packets after an update, the shared path of an
instruction word once it begins, and the group and the state after it has performed.
-/
namespace Sys2Proof.Machine

variable (s : State)

/-! ## Lookups -/

@[simp] theorem State.setGroup_self (g : Nat) (x : Group) : (s.setGroup g x).group? g = some x := sfind_sins_self _ _ _
theorem State.setGroup_group? (g k : Nat) (x : Group) :
    (s.setGroup g x).group? k = if k = g then some x else s.group? k := sfind_sins _ _ _ _
@[simp] theorem State.setGroup_ne {g k : Nat} (x : Group) (h : k ≠ g) : (s.setGroup g x).group? k = s.group? k :=
  sfind_sins_ne _ _ h
theorem State.modGroup_group? (g k : Nat) (f : Group → Group) :
    (s.modGroup g f).group? k = if k = g then (s.group? g).map f else s.group? k := by
  unfold State.modGroup
  split
  case h_1 x h => rw [State.setGroup_group?, h]; rfl
  case h_2 h => split <;> simp_all
@[simp] theorem State.modGroup_self (g : Nat) (f : Group → Group) : (s.modGroup g f).group? g = (s.group? g).map f := by
  simp [State.modGroup_group?]
@[simp] theorem State.modGroup_ne {g k : Nat} (f : Group → Group) (h : k ≠ g) :
    (s.modGroup g f).group? k = s.group? k := by simp [State.modGroup_group?, h]
/-- A group's update is its record's, where the group exists. -/
theorem State.modGroup_some {g : Nat} {x : Group} (f : Group → Group) (h : s.group? g = some x) :
    s.modGroup g f = s.setGroup g (f x) := by simp [State.modGroup, h]
@[simp] theorem State.setGroup_team? (g h : Nat) (x : Group) : (s.setGroup g x).team? h = s.team? h := rfl
@[simp] theorem State.setTeam_self (h : Nat) (x : Team) : (s.setTeam h x).team? h = some x := sfind_sins_self _ _ _
theorem State.setTeam_team? (h k : Nat) (x : Team) :
    (s.setTeam h x).team? k = if k = h then some x else s.team? k := sfind_sins _ _ _ _
@[simp] theorem State.setTeam_group? (h g : Nat) (x : Team) : (s.setTeam h x).group? g = s.group? g := rfl
@[simp] theorem State.modTeam_group? (h g : Nat) (f : Team → Team) : (s.modTeam h f).group? g = s.group? g := by
  unfold State.modTeam; split <;> rfl

/-- The parts of a context. -/
theorem State.ctx?_eq {gid : Nat} {c : Ctx} (h : s.ctx? gid = some c) :
    c.gid = gid ∧ s.group? gid = some c.g ∧ s.team? c.g.team = some c.t ∧ s.packet? c.t.pid = some c.pk := by
  unfold State.ctx? at h
  split at h
  · cases h
  · split at h
    · cases h
    · obtain ⟨pk, hpk, rfl⟩ := Option.map_eq_some_iff.mp h
      exact ⟨rfl, ‹_›, ‹_›, hpk⟩

/-! ## The end of a run (R36, R37) -/

theorem Group.landAll_none (g : Group) (h : g.inbound = []) : g.landAll = g := by
  unfold Group.landAll; simp only [h, List.filter_nil, List.foldl_nil]; rw [← h]
/-- A run's end with no write from outside waiting. -/
theorem Group.endRun_none (g : Group) (h : g.inbound = []) :
    g.endRun = { g with latches := [], lptr := 0, pos := 0, ibuf := none } :=
  Group.landAll_none _ h

/-- A run's end with no write to its group or its team's tiles waiting. -/
theorem State.endRun_none {gid : Nat} {g : Group} (hg : s.group? gid = some g) (hi : g.inbound = [])
    (ht : ∀ u, s.team? g.team = some u → u.tileIn = []) :
    s.endRun gid = ({ s with runs := s.runs.filter fun x => x != gid } : State).setGroup gid
      { g with latches := [], lptr := 0, pos := 0, ibuf := none } := by
  have h : ({ s with runs := s.runs.filter fun x => x != gid } : State).group? gid = some g := hg
  unfold State.endRun
  rw [State.modGroup_some _ _ h, g.endRun_none hi]
  refine State.landTiles_none _ _ fun x u hx hu => ht u ?_
  rw [State.setGroup_self] at hx
  cases hx
  exact hu

/-! ## The shared path (R102) -/

variable {s}

theorem Starts.group {i : Gate} {c : Ctx} {ws : List Word} (h : Starts i s c ws) : s.group? c.gid = some c.g :=
  (s.ctx?_eq h.2.1).2.1
theorem Starts.tiles {i : Gate} {c : Ctx} {ws : List Word} (h : Starts i s c ws) :
    ∀ u, s.team? c.g.team = some u → u.tileIn = [] := by
  intro u hu
  rw [(s.ctx?_eq h.2.1).2.2.1] at hu
  cases hu
  exact h.2.2.2.1

/-- An instruction that may begin comes to its own checks and effect. -/
theorem issue_starts {i : Gate} {c : Ctx} {ws : List Word} (h : Starts i s c ws) (body : Body) :
    issue i body s = match body s c (c.g.active i.hd.g) ws with
      | .trap t s' => .next (s'.takeTrap c.gid t)
      | .stall w s' =>
        .next (if w.accesses && c.g.memBusy then s.stallAt c.gid (.memorder (min 12 w.reason)) else s'.stallAt c.gid w)
      | .ok p => .next (State.finish c.gid c.g i (c.g.active i.hd.g) p) := by
  obtain ⟨h1, h2, -, -, h4, h5, h6, h7, h8, h9, h10, h11⟩ := h
  obtain ⟨hf, ht⟩ : i.fieldsOk c = true ∧ i.targetOk c = true := by simpa [Gate.operandsOk] using h5
  have hm : (i.memory && decide (c.g.active i.hd.g ≠ 0) && c.g.memBusy) = false := by
    cases hm : i.memory <;> simp_all
  have hd : (i.drains && c.g.pending) = false := by
    cases hd : i.drains <;> simp_all
  simp only [issue, h1, h2, Gate.check, h4, hf, ht, h6, h7, h9, hm, hd, h11, Gate.answer, Bool.not_true, Bool.and_false,
    Bool.false_eq_true, if_false] <;>
    (cases body s c (c.g.active i.hd.g) ws <;> dsimp only <;> (try split) <;> rfl)
theorem issue_ok {i : Gate} {c : Ctx} {ws : List Word} (h : Starts i s c ws) {body : Body} {p : Perf}
    (hb : body s c (c.g.active i.hd.g) ws = .ok p) :
    issue i body s = .next (State.finish c.gid c.g i (c.g.active i.hd.g) p) := by
  rw [issue_starts h, hb]

/-! ## After an instruction (R36, R87 to R95) -/

theorem Group.setS_eq (g : Group) (n : Nat) (x : Word) :
    g.setS n x = { g with s := (g.setS n x).s, hs := (g.setS n x).hs } := by
  unfold Group.setS; split <;> rfl
theorem Group.setSs_eq (l : List (Nat × Word)) (g : Group) :
    ∃ a b, l.foldl (fun (x : Group) (e : Nat × Word) => x.setS e.1 e.2) g = { g with s := a, hs := b } := by
  induction l generalizing g with
  | nil => exact ⟨_, _, rfl⟩
  | cons e r ih =>
    obtain ⟨a, b, h⟩ := ih (g.setS e.1 e.2)
    rw [List.foldl_cons, h, Group.setS_eq]
    exact ⟨a, b, rfl⟩
/-- Register writes reach register cells only. -/
theorem Group.apply_eq (g : Group) (w : Writes) :
    ∃ v a b p hp, g.apply w = { g with v := v, s := a, hs := b, p := p, hp := hp } := by
  unfold Group.apply
  obtain ⟨a, b, h⟩ := Group.setSs_eq w.s { g with v := sputs 0 g.v w.v }
  rw [h]
  unfold Group.setPs
  split <;> exact ⟨_, _, _, _, _, rfl⟩
@[simp] theorem Group.apply_rest (g : Group) (w : Writes) : (g.apply w).rest = g.rest := by
  obtain ⟨v, a, b, p, hp, h⟩ := g.apply_eq w; rw [h]; rfl
@[simp] theorem Group.apply_hmode (g : Group) (w : Writes) : (g.apply w).hmode = g.hmode := by
  obtain ⟨v, a, b, p, hp, h⟩ := g.apply_eq w; rw [h]
@[simp] theorem Group.apply_inbound (g : Group) (w : Writes) : (g.apply w).inbound = g.inbound := by
  obtain ⟨v, a, b, p, hp, h⟩ := g.apply_eq w; rw [h]

theorem Group.setSs_pends (l : List (Nat × Word)) (g : Group) (x : List Pend) :
    l.foldl (fun (x : Group) (e : Nat × Word) => x.setS e.1 e.2) { g with pends := x } =
      { l.foldl (fun (x : Group) (e : Nat × Word) => x.setS e.1 e.2) g with pends := x } := by
  induction l generalizing g with
  | nil => rfl
  | cons e r ih =>
    rw [List.foldl_cons, List.foldl_cons, ← ih]
    congr 1
    unfold Group.setS
    split <;> rfl
theorem Group.apply_pends (g : Group) (x : List Pend) (w : Writes) :
    ({ g with pends := x } : Group).apply w = { g.apply w with pends := x } := by
  unfold Group.apply
  rw [show ({ ({ g with pends := x } : Group) with v := sputs 0 g.v w.v } : Group) =
    { ({ g with v := sputs 0 g.v w.v } : Group) with pends := x } from rfl, Group.setSs_pends]
  unfold Group.setPs
  split <;> rfl

/-- What an instruction leaves of its group's registers: its writes, or nothing yet. -/
theorem Group.after_regs (g old : Group) (i : Gate) (act : Word) (p : Perf) :
    (g.after old i act p).regs = (match i.long with
      | some _ => g
      | none => g.apply p.w).regs := by
  unfold Group.after Group.deposit
  cases i.long with
  | none => cases i.hold <;> simp only [Group.apply_pends] <;> rfl
  | some la => cases i.hold <;> dsimp only <;> split <;> rfl
/-- What an instruction leaves of its group beside register cells. -/
theorem Group.after_rest (g old : Group) (i : Gate) (act : Word) (p : Perf) : (g.after old i act p).rest = g.rest := by
  unfold Group.after Group.deposit
  cases i.long with
  | none =>
    cases i.hold <;> simp only [Group.apply_pends] <;> exact g.apply_rest p.w
  | some la => cases i.hold <;> dsimp only <;> split <;> rfl
theorem Group.after_pc (g old : Group) (i : Gate) (act : Word) (p : Perf) :
    (g.after old i act p).pc = p.jump.getD (g.pc + 8) := by
  unfold Group.after Group.deposit
  cases i.long with
  | none =>
    have : (g.apply p.w).pc = g.pc := by obtain ⟨v, a, b, q, hp, h⟩ := g.apply_eq p.w; rw [h]
    cases i.hold <;> simp only [Group.apply_pends] <;> rw [← this]
  | some la => cases i.hold <;> dsimp only <;> split <;> rfl
theorem Group.after_stall (g old : Group) (i : Gate) (act : Word) (p : Perf) : (g.after old i act p).stall = p.wait := rfl
theorem Group.after_inbound (g old : Group) (i : Gate) (act : Word) (p : Perf) :
    (g.after old i act p).inbound = g.inbound := by
  have := congrArg Group.inbound (Group.after_rest g old i act p)
  have e : ∀ x : Group, x.rest.inbound = x.inbound := fun _ => rfl
  rwa [e, e] at this

/-- The end of a run, or the next scheduler's turn, leaves a group but for its run. -/
theorem State.turn_group {t : State} {gid : Nat} {g : Group} (hg : t.group? gid = some g) (hi : g.inbound = [])
    (ht : ∀ u, t.team? g.team = some u → u.tileIn = []) (e : Bool) :
    ∃ g', (if e then t.endRun gid else t.rotate).group? gid = some g' ∧ g'.rest = g.rest ∧ g'.regs = g.regs ∧
      g'.pc = g.pc ∧ g'.pends = g.pends ∧ g'.stall = g.stall := by
  cases e with
  | false => exact ⟨g, hg, rfl, rfl, rfl, rfl, rfl⟩
  | true =>
    rw [if_pos rfl, State.endRun_none t hg hi ht]
    exact ⟨_, State.setGroup_self _ _ _, rfl, rfl, rfl, rfl, rfl⟩
theorem Elsewhere.turn {x t : State} {gid : Nat} {g : Group} (h : Elsewhere x t gid) (hg : t.group? gid = some g)
    (hi : g.inbound = []) (ht : ∀ u, t.team? g.team = some u → u.tileIn = []) (e : Bool) :
    Elsewhere x (if e then t.endRun gid else t.rotate) gid := by
  cases e with
  | false => exact ⟨h.1, fun k hk => h.2 k hk⟩
  | true =>
    rw [if_pos rfl, State.endRun_none t hg hi ht]
    refine ⟨?_, fun k hk => ?_⟩
    · rw [← h.1]; rfl
    · rw [State.setGroup_ne _ _ hk]
      exact h.2 k hk

/-- The state an instruction leaves, from the state its effect leaves. -/
theorem State.finish_spec {gid : Nat} {old g : Group} {i : Gate} {act : Word} {p : Perf} (hg : p.s.group? gid = some g)
    (hi : g.inbound = []) (ht : ∀ u, p.s.team? g.team = some u → u.tileIn = []) :
    Elsewhere p.s (State.finish gid old i act p) gid ∧ ∃ g', (State.finish gid old i act p).group? gid = some g' ∧
      g'.rest = g.rest ∧ g'.pc = p.jump.getD (g.pc + 8) ∧ g'.stall = p.wait ∧
      g'.regs = (match i.long with
        | some _ => g
        | none => g.apply p.w).regs ∧
      g'.pends = (g.after old i act (p.numbered i)).pends := by
  have hn : (p.numbered i).s.group? gid = some g := by
    unfold Perf.numbered; split
    · exact hg
    · exact hg
  have hw : (p.numbered i).w = p.w ∧ (p.numbered i).jump = p.jump ∧ (p.numbered i).wait = p.wait := by
    unfold Perf.numbered; split <;> exact ⟨rfl, rfl, rfl⟩
  have hs : { (p.numbered i).s with nextId := p.s.nextId } = p.s := by
    unfold Perf.numbered; split <;> rfl
  set q := p.numbered i with hq
  have e : State.finish gid old i act p =
      (if runEnds i q (g.after old i act q) then
        (({ q.s with cycle := q.s.cycle + i.cost } : State).setGroup gid (g.after old i act q)).endRun gid
       else (({ q.s with cycle := q.s.cycle + i.cost } : State).setGroup gid (g.after old i act q)).rotate) := by
    unfold State.finish
    simp only [← hq]
    rw [show ({ q.s with cycle := q.s.cycle + i.cost } : State).group? gid = some g from hn]
  have e1 : Elsewhere p.s (({ q.s with cycle := q.s.cycle + i.cost } : State).setGroup gid (g.after old i act q)) gid := by
    refine ⟨?_, fun k hk => ?_⟩
    · have hs' := hs
      rw [← hs]
      unfold State.setGroup
      have hgr : q.s.groups = p.s.groups := by rw [hq]; unfold Perf.numbered; split <;> rfl
      have hru : q.s.runs = p.s.runs := by rw [hq]; unfold Perf.numbered; split <;> rfl
      rfl
    · rw [State.setGroup_ne _ _ hk]
      show q.s.group? k = p.s.group? k
      rw [hq]; unfold Perf.numbered; split <;> rfl
  have hin : (g.after old i act q).inbound = [] := by rw [Group.after_inbound]; exact hi
  rw [e]
  have htm : (g.after old i act q).team = g.team := by
    have e : ∀ x : Group, x.rest.team = x.team := fun _ => rfl
    rw [← e, Group.after_rest, e]
  have hte : q.s.teams = p.s.teams := by rw [hq]; unfold Perf.numbered; split <;> rfl
  have ht' : ∀ u, (({ q.s with cycle := q.s.cycle + i.cost } : State).setGroup gid (g.after old i act q)).team?
      (g.after old i act q).team = some u → u.tileIn = [] := fun u hu => ht u (by
    rw [htm] at hu
    unfold State.team? at hu ⊢
    rw [← hte]
    exact hu)
  refine ⟨e1.turn (State.setGroup_self _ _ _) hin ht' _, ?_⟩
  obtain ⟨g', h1, h2, h3, h4, h5, h6⟩ :=
    State.turn_group (State.setGroup_self _ gid (g.after old i act q)) hin ht' (runEnds i q (g.after old i act q))
  refine ⟨g', h1, ?_, ?_, ?_, ?_, h5⟩
  · rw [h2, Group.after_rest]
  · rw [h4, Group.after_pc, hw.2.1]
  · rw [h6, Group.after_stall, hw.2.2]
  · rw [h3, Group.after_regs, hw.1]

end Sys2Proof.Machine
end

