-- ==== Sys2Proof/Laws/RoundTrip.lean ====
section
/-!
SUPPORT. What the parsers read from the fields the encoder lays out: the lemmas the round trip of each constructor cites.
-/
namespace Sys2Proof

@[simp] theorem withB_bnd (F : Fields) (b : SrcB) : (F.withB b).bnd = F.bnd := by cases b <;> rfl
@[simp] theorem withB_maj (F : Fields) (b : SrcB) : (F.withB b).maj = F.maj := by cases b <;> rfl
@[simp] theorem withB_min (F : Fields) (b : SrcB) : (F.withB b).min = F.min := by cases b <;> rfl
@[simp] theorem withB_la (F : Fields) (b : SrcB) : (F.withB b).la = F.la := by cases b <;> rfl
@[simp] theorem withB_hold (F : Fields) (b : SrcB) : (F.withB b).hold = F.hold := by cases b <;> rfl
@[simp] theorem withB_gp (F : Fields) (b : SrcB) : (F.withB b).gp = F.gp := by cases b <;> rfl
@[simp] theorem withB_gs (F : Fields) (b : SrcB) : (F.withB b).gs = F.gs := by cases b <;> rfl
@[simp] theorem withB_dst (F : Fields) (b : SrcB) : (F.withB b).dst = F.dst := by cases b <;> rfl
@[simp] theorem withB_a (F : Fields) (b : SrcB) : (F.withB b).a = F.a := by cases b <;> rfl

/-- A window's two fields (R83). -/
theorem window_fields (k : BitVec 3) (off : BitVec 17) :
    (k ++ off.extractLsb' 10 7 : BitVec 10).extractLsb' 7 3 = k ∧
    ((k ++ off.extractLsb' 10 7 : BitVec 10).extractLsb' 0 7 ++ off.extractLsb' 0 10 : BitVec 17) = off := by
  constructor
  · exact (field_above _ _ (by decide)).trans (field_all _)
  · rw [show (k ++ off.extractLsb' 10 7 : BitVec 10).extractLsb' 0 7 = off.extractLsb' 10 7 from
      (field_inside _ _ (by decide)).trans (field_all _)]
    apply BitVec.eq_of_getLsbD_eq
    intro i hi
    simp only [BitVec.getLsbD_append, BitVec.getLsbD_extractLsb']
    split
    · simp [*]
    · rw [show 10 + (i - 10) = i by omega]; simp; omega

@[simp] theorem srcBK_withB (F : Fields) (b : SrcB) (hk : F.k = false) (hb : b.wf = true) : (F.withB b).srcBK = b := by
  cases b with
  | reg a => simp [Fields.srcBK, Fields.withB, hk, Src.dec_enc a hb]
  | win k off => simp only [Fields.srcBK, Fields.withB, if_true, SrcB.win.injEq]; exact window_fields k off

theorem srcB_wf_of_srcs (b : SrcB) (h : b.srcs.all Src.wf = true) : b.wf = true := by
  cases b with
  | reg a => simpa [SrcB.srcs, SrcB.wf] using h
  | win _ _ => rfl

/-- Two halves of a field (R85, R86). -/
@[simp] theorem imm_halves (x : BitVec 20) : (x.extractLsb' 10 10 ++ x.extractLsb' 0 10 : BitVec 20) = x := by
  apply BitVec.eq_of_getLsbD_eq
  intro i hi
  simp only [BitVec.getLsbD_append, BitVec.getLsbD_extractLsb']
  split
  · simp [*]
  · rw [show 10 + (i - 10) = i by omega]; simp; omega
@[simp] theorem off_parts (x : BitVec 38) :
    (x.extractLsb' 30 8 ++ (x.extractLsb' 20 10 ++ (x.extractLsb' 10 10 ++ x.extractLsb' 0 10)) : BitVec 38) = x := by
  apply BitVec.eq_of_getLsbD_eq
  intro i hi
  simp only [BitVec.getLsbD_append, BitVec.getLsbD_extractLsb']
  split
  · split
    · split
      · simp [*]
      · rw [show 10 + (i - 10) = i by omega]; simp; omega
    · rw [show 20 + (i - (10 + 10)) = i by omega]; simp; omega
  · rw [show 30 + (i - (10 + (10 + 10))) = i by omega]; simp; omega
@[simp] theorem targets (t f : BitVec 19) :
    (t ++ f : BitVec 38).extractLsb' 19 19 = t ∧ (t ++ f : BitVec 38).extractLsb' 0 19 = f :=
  ⟨(field_above _ _ (by decide)).trans (field_all _), (field_inside _ _ (by decide)).trans (field_all _)⟩

@[simp] theorem low4 (x : BitVec 6) (y : BitVec 4) : (x ++ y : BitVec 10).extractLsb' 0 4 = y :=
  (field_inside _ _ (by decide)).trans (field_all _)
@[simp] theorem high6 (x : BitVec 6) (y : BitVec 4) : (x ++ y : BitVec 10).extractLsb' 4 6 = x :=
  (field_above _ _ (by decide)).trans (field_all _)

@[simp] theorem srcs_all (b : SrcB) : b.srcs.all Src.wf = b.wf := by cases b <;> simp [SrcB.srcs, SrcB.wf]
@[simp] theorem width_bit (w : FW) : (if decide (w = .d) = true then FW.d else FW.s) = w := by cases w <;> rfl

@[simp] theorem width_ite (w : FW) : (if w = .d then FW.d else FW.s) = w := by cases w <;> rfl
@[simp] theorem off38_withOff (F : Fields) (o : BitVec 38) : (F.withOff o).off38 = o := off_parts o
@[simp] theorem width_encF (w : FW) (d : Dst) (h : d.num % 2 = 0) : (encF w d)[0] = decide (w = .d) := wBit_encF w d h

/-! Codes that share a field with a modifier bit. -/
@[simp] theorem Cond.enc_low (c : Cond) : c.enc &&& 0x3F7#10 = c.enc ∧ c.enc[3] = false := by cases c <;> decide
@[simp] theorem LaneOp.enc_low (o : LaneOp) : o.enc &&& 0x3EF#10 = o.enc ∧ o.enc[4] = false := by cases o <;> decide
@[simp] theorem CvtMode.enc_low (m : CvtMode) : m.enc &&& 0x3EF#10 = m.enc ∧ m.enc[4] = false := by cases m <;> decide
@[simp] theorem FW.enc_low (w : FW) : w.enc &&& 0x3FD#10 = w.enc ∧ w.enc[1] = false := by cases w <;> decide
@[simp] theorem AtomOp.enc_low (o : AtomOp) : o.enc &&& 0x3EF#10 = o.enc ∧ o.enc[4] = false := by
  cases o with
  | int o => cases o <;> decide
  | _ => decide
@[simp] theorem FAtomOp.enc_low (o : FAtomOp) : o.enc &&& 0x3EF#10 = o.enc ∧ o.enc[4] = false := by cases o <;> decide
@[simp] theorem encX_bit (b : Bool) : (encX b)[4] = b ∧ encX b &&& 0x3EF#10 = 0#10 := by cases b <;> decide
@[simp] theorem encN_bit4 (q : BitVec 4) : (encN q)[4] = false := by revert q; decide
@[simp] theorem flag3 (b : Bool) :
    (if b = true then 8#10 else 0#10)[3] = b ∧ (if b = true then 8#10 else 0#10) &&& 0x3F7#10 = 0#10 := by
  cases b <;> decide
@[simp] theorem flag3w (w : FW) :
    (if w = .d then 8#10 else 0#10)[3] = decide (w = .d) ∧ (if w = .d then 8#10 else 0#10) &&& 0x3F7#10 = 0#10 := by
  cases w <;> decide
@[simp] theorem flag4 (b : Bool) :
    (if b = true then 0x10#10 else 0#10)[4] = b ∧ (if b = true then 0x10#10 else 0#10) &&& 0x3EF#10 = 0#10 := by
  cases b <;> decide
@[simp] theorem flag4w (w : FW) :
    (if w = .d then 0x10#10 else 0#10)[4] = decide (w = .d) ∧ (if w = .d then 0x10#10 else 0#10) &&& 0x3EF#10 = 0#10 := by
  cases w <;> decide
@[simp] theorem flag1 (b : Bool) :
    (if b = true then 2#10 else 0#10)[1] = b ∧ (if b = true then 2#10 else 0#10) &&& 0x3FD#10 = 0#10 := by
  cases b <;> decide
@[simp] theorem cond_flag (c : Cond) (b : Bool) :
    (c.enc ||| (if b = true then 8#10 else 0#10)) &&& 0x3F7#10 = c.enc := by cases c <;> cases b <;> decide
@[simp] theorem cond_width (c : Cond) (w : FW) :
    (c.enc ||| (if w = .d then 8#10 else 0#10)) &&& 0x3F7#10 = c.enc := by cases c <;> cases w <;> decide
@[simp] theorem laneOp_flag (o : LaneOp) (b : Bool) :
    (o.enc ||| (if b = true then 0x10#10 else 0#10)) &&& 0x3EF#10 = o.enc := by cases o <;> cases b <;> decide
@[simp] theorem cvtMode_width (m : CvtMode) (w : FW) :
    (m.enc ||| (if w = .d then 0x10#10 else 0#10)) &&& 0x3EF#10 = m.enc := by cases m <;> cases w <;> decide
@[simp] theorem width_flag (w : FW) (u : Bool) :
    (w.enc ||| (if u = true then 2#10 else 0#10)) &&& 0x3FD#10 = w.enc := by cases w <;> cases u <;> decide
@[simp] theorem atomOp_flag (o : AtomOp) (b : Bool) : (o.enc ||| encX b) &&& 0x3EF#10 = o.enc := by
  cases o with
  | int o => cases o <;> cases b <;> decide
  | _ => cases b <;> decide
@[simp] theorem fatomOp_flag (o : FAtomOp) (b : Bool) : (o.enc ||| encX b) &&& 0x3EF#10 = o.enc := by
  cases o <;> cases b <;> decide
@[simp] theorem redOp_flag (o : LaneOp) (b : Bool) : (o.enc ||| encX b) &&& 0x3EF#10 = o.enc := by
  cases o <;> cases b <;> decide
@[simp] theorem slot_code (s : BitVec 3) : (encN8 s).setWidth 3 = s := by revert s; decide
@[simp] theorem queue_flag (q : BitVec 4) (b : Bool) :
    (encN q ||| encX b) &&& 0x3E0#10 = 0#10 ∧ lowN 4 (encN q ||| encX b) = q := by
  revert q; cases b <;> decide
@[simp] theorem queue_kind (k : QKind) (q : BitVec 4) :
    (k.enc ||| encN q) &&& 0x3F0#10 = k.enc ∧ lowN 4 (k.enc ||| encN q) = q := by revert q; cases k <;> decide
@[simp] theorem queue_push (q : BitVec 4) :
    ¬(0x100#10 ||| encN q = 0) ∧ (0x100#10 ||| encN q) &&& 0x3F0#10 = 0x100#10 ∧ lowN 4 (0x100#10 ||| encN q) = q := by
  revert q; decide
@[simp] theorem queue_pop (q : BitVec 4) :
    ¬(0x200#10 ||| encN q = 0) ∧ (0x200#10 ||| encN q) &&& 0x3F0#10 = 0x200#10 ∧ lowN 4 (0x200#10 ||| encN q) = q := by
  revert q; decide
@[simp] theorem mma_fields (s : BitVec 3) (d : MDep) (f : MFmt) :
    (0#1 ++ s ++ d.enc ++ f.enc : BitVec 10).extractLsb' 4 2 = d.enc ∧
    (0#1 ++ s ++ d.enc ++ f.enc : BitVec 10).extractLsb' 0 4 = f.enc ∧
    (0#1 ++ s ++ d.enc ++ f.enc : BitVec 10).extractLsb' 6 3 = s :=
  ⟨(field_inside _ _ (by decide)).trans (field_all _) |> fun h => (field_above _ _ (by decide)).trans h,
    (field_inside _ _ (by decide)).trans (field_all _),
    (field_above _ _ (by decide)).trans ((field_above _ _ (by decide)).trans ((field_inside _ _ (by decide)).trans (field_all _)))⟩
@[simp] theorem stp_fields (x : BitVec 6) (f : StpFmt) (m : PtMode) :
    (x ++ f.enc ++ m.enc2 : BitVec 10).extractLsb' 0 2 = m.enc2 ∧
    (x ++ f.enc ++ m.enc2 : BitVec 10).extractLsb' 2 2 = f.enc ∧
    (x ++ f.enc ++ m.enc2 : BitVec 10).extractLsb' 4 6 = x :=
  ⟨(field_inside _ _ (by decide)).trans (field_all _),
    (field_above _ _ (by decide)).trans ((field_inside _ _ (by decide)).trans (field_all _)),
    (field_above _ _ (by decide)).trans ((field_above _ _ (by decide)).trans (field_all _))⟩
theorem lowN_field (n : Nat) (x : BitVec 10) : lowN n x = x.extractLsb' 0 n := by
  apply BitVec.eq_of_getLsbD_eq
  intro i hi
  simp [lowN, hi]
@[simp] theorem gather_fields (s : BitVec 2) (t : BitVec 6) :
    (0#2 ++ s ++ t : BitVec 10).extractLsb' 6 2 = s ∧ lowN 6 (0#2 ++ s ++ t : BitVec 10) = t := by
  refine ⟨(field_above _ _ (by decide)).trans ((field_inside _ _ (by decide)).trans (field_all _)), ?_⟩
  rw [lowN_field]
  exact (field_inside _ _ (by decide)).trans (field_all _)
@[simp] theorem cove_fields (l s : BitVec 2) (t : BitVec 6) :
    (l ++ s ++ t : BitVec 10).extractLsb' 8 2 = l ∧ (l ++ s ++ t : BitVec 10).extractLsb' 6 2 = s ∧
    lowN 6 (l ++ s ++ t : BitVec 10) = t := by
  refine ⟨(field_above _ _ (by decide)).trans ((field_above _ _ (by decide)).trans (field_all _)),
    (field_above _ _ (by decide)).trans ((field_inside _ _ (by decide)).trans (field_all _)), ?_⟩
  rw [lowN_field]
  exact (field_inside _ _ (by decide)).trans (field_all _)

/-! What the reading functions and the forms are, for `simp`. -/
@[simp] theorem bare_eq (b : Bool) (x y : BitVec 6) : bare b x y = { bnd := b, maj := x, min := y } := rfl
@[simp] theorem guarded_eq (h : Hd) (x y : BitVec 6) :
    guarded h x y = { bnd := h.b, maj := x, min := y, gp := h.g.pred, gs := h.g.sense } := rfl
@[simp] theorem hd_eq (F : Fields) : F.hd = ⟨F.bnd, Guard.dec F.gp F.gs⟩ := rfl
@[simp] theorem holdV_eq (F : Fields) : F.holdV = Hold.dec F.hold := rfl
@[simp] theorem srcA_eq (F : Fields) : F.srcA = Src.dec F.a := rfl
@[simp] theorem srcB_eq (F : Fields) : F.srcB = Src.dec F.b := rfl
@[simp] theorem srcC_eq (F : Fields) : F.srcC = Src.dec F.c := rfl
@[simp] theorem sa_eq (F : Fields) : F.sa = F.a := rfl
@[simp] theorem sb_eq (F : Fields) : F.sb = F.b := rfl
@[simp] theorem sc_eq (F : Fields) : F.sc = F.c := rfl
@[simp] theorem dstG_eq (F : Fields) (u : Bool) : F.dstG u = Dst.dec u F.dst := rfl
@[simp] theorem dstF_eq (F : Fields) (u : Bool) : F.dstF u = Dst.dec u (F.dst &&& 0xFE#8) := rfl
@[simp] theorem dstP_eq (F : Fields) : F.dstP = F.dst.setWidth 3 := rfl
@[simp] theorem dstS_eq (F : Fields) : F.dstS = F.dst.setWidth 6 := rfl
@[simp] theorem dstZ_eq (F : Fields) : F.dstZ = F.dst.setWidth 6 := rfl
@[simp] theorem wBit_eq (F : Fields) : F.wBit = if F.dst[0] then .d else .s := rfl
@[simp] theorem mod4_eq (F : Fields) : F.mod4 = F.c.extractLsb' 0 4 := rfl
@[simp] theorem disp_eq (F : Fields) : F.disp = F.c.extractLsb' 4 6 := rfl
@[simp] theorem imm_eq (F : Fields) : F.imm = F.b ++ F.c := rfl
@[simp] theorem withImm_eq (F : Fields) (i : BitVec 20) :
    F.withImm i = { F with b := i.extractLsb' 10 10, c := i.extractLsb' 0 10 } := rfl
@[simp] theorem withOff_kept (F : Fields) (o : BitVec 38) :
    (F.withOff o).bnd = F.bnd ∧ (F.withOff o).maj = F.maj ∧ (F.withOff o).min = F.min ∧ (F.withOff o).gp = F.gp :=
  ⟨rfl, rfl, rfl, rfl⟩
@[simp] theorem form_ok (f : Form) : f.ok = (f.okHold && f.okSrcs && f.dst.ok && f.other) := rfl
@[simp] theorem form_okSrcs (f : Form) : f.okSrcs = f.srcs.all Src.wf := rfl
@[simp] theorem dstForm_g (u : Bool) (d : Dst) : (DstForm.g u d).ok = d.okG u := rfl
@[simp] theorem dstForm_gEven (u : Bool) (d : Dst) :
    (DstForm.gEven u d).ok = (d.okG u && decide (d.num % 2 = 0)) := rfl
@[simp] theorem dstForm_vs (d : Dst) : (DstForm.vs d).ok = d.okVS := rfl

end Sys2Proof
end

