-- ==== Sys2Proof/Laws/PerInstr.lean ====
section
/-!
SUPPORT. The encoder's words decode to what they encode, instruction by instruction (R74 to R101). The events of the table
have no word.
-/
namespace Sys2Proof.Laws

/-- The word of an instruction decodes to it. -/
def RoundTrip.Statement (i : Instr) : Prop := ∀ w, encode i = some w → decode w = .ok i

def RoundTrip.isPair : Instr → Bool
  | .pairWord _ _ _ => true
  | _ => false
theorem RoundTrip.encode_full {i : Instr} (e : isPair i = false) :
    encode i = if i.wf then (encodeFields i).map Fields.word else none := by
  unfold encode
  split
  · split
    · cases e
    · rfl
  · rfl
theorem RoundTrip.word_bit62 (F : Fields) : F.word.getLsbD 62 = false := by
  have h : F.word.extractLsb' 62 1 = 0#1 :=
    (field_inside _ _ (by decide)).trans ((field_above _ _ (by decide)).trans (field_all _))
  rw [bit_field, h]; rfl

/-- A full word's round trip, from what its parser reads. -/
theorem RoundTrip.of_parse {i : Instr} (e : isPair i = false) {F : Fields} {f : Form}
    (hF : encodeFields i = some F) (hf : i.form = some f) (h : f.ok = true → parseWord F = some i) : Statement i := by
  intro w hw
  rw [encode_full e, hF] at hw
  have hwf : i.wf = f.ok := by rw [Instr.wf, hf]
  rw [hwf] at hw
  split at hw
  case isFalse => cases hw
  case isTrue ok =>
    obtain rfl : F.word = w := by simpa using hw
    simp only [decode, word_bit62, decodeFields, h ok, hwf, ok, hF, Fields.ofWord_word, if_true, Bool.false_eq_true, if_false]

/-- An event has no word. -/
theorem RoundTrip.of_event {i : Instr} (e : isPair i = false) (hf : i.form = none) : Statement i := by
  intro w hw
  rw [encode_full e, Instr.wf, hf] at hw
  cases hw

/-! ## The pair word (R97 to R99) -/

theorem RoundTrip.pairOp (x : PairOp) : PairOp.dec x.enc = some x := by cases x <;> rfl
theorem RoundTrip.pairSrc (x : PairSrc) : PairSrc.dec x.enc = some x := by
  cases x with
  | v n => revert n; decide +kernel
  | s n => revert n; decide +kernel
theorem RoundTrip.half (x : Half) : Half.dec x.enc = some x := by
  obtain ⟨op, d, src, g⟩ := x
  have h1 : (Half.enc ⟨op, d, src, g⟩).extractLsb' 24 7 = op.enc := (field_above _ _ (by decide)).trans (field_all _)
  have h2 : (Half.enc ⟨op, d, src, g⟩).extractLsb' 7 9 = src.enc :=
    (field_inside _ _ (by decide)).trans ((field_inside _ _ (by decide)).trans
      ((field_above _ _ (by decide)).trans (field_all _)))
  have h3 : (Half.enc ⟨op, d, src, g⟩).extractLsb' 16 8 = d :=
    (field_inside _ _ (by decide)).trans ((field_above _ _ (by decide)).trans (field_all _))
  have h4 : (Half.enc ⟨op, d, src, g⟩).extractLsb' 4 3 = g.pred :=
    (field_inside _ _ (by decide)).trans ((field_inside _ _ (by decide)).trans ((field_inside _ _ (by decide)).trans
      ((field_above _ _ (by decide)).trans (field_all _))))
  have h5 : (Half.enc ⟨op, d, src, g⟩).extractLsb' 2 2 = g.sense :=
    (field_inside _ _ (by decide)).trans ((field_inside _ _ (by decide)).trans ((field_inside _ _ (by decide)).trans
      ((field_inside _ _ (by decide)).trans ((field_above _ _ (by decide)).trans (field_all _)))))
  simp [Half.dec, h1, h2, h3, h4, h5, pairOp, pairSrc]
theorem RoundTrip.pair (b : Bool) (hi lo : Half) : Statement (.pairWord b hi lo) := by
  intro w hw
  have e : encode (.pairWord b hi lo) = if (Instr.pairWord b hi lo).wf then
      some (bit1 b ++ (1#1 ++ (hi.enc ++ lo.enc))) else none := rfl
  rw [e] at hw
  split at hw
  case isFalse => cases hw
  case isTrue ok =>
    obtain rfl := Option.some.inj hw
    have h62 : (bit1 b ++ (1#1 ++ (hi.enc ++ lo.enc)) : DWord).getLsbD 62 = true := by
      rw [bit_field, show (bit1 b ++ (1#1 ++ (hi.enc ++ lo.enc)) : DWord).extractLsb' 62 1 = 1#1 from
        (field_inside _ _ (by decide)).trans ((field_above _ _ (by decide)).trans (field_all _))]; rfl
    have h63 : (bit1 b ++ (1#1 ++ (hi.enc ++ lo.enc)) : DWord).getLsbD 63 = b := by
      rw [bit_field, show (bit1 b ++ (1#1 ++ (hi.enc ++ lo.enc)) : DWord).extractLsb' 63 1 = bit1 b from
        (field_above _ _ (by decide)).trans (field_all _)]; cases b <;> rfl
    have hh : (bit1 b ++ (1#1 ++ (hi.enc ++ lo.enc)) : DWord).extractLsb' 31 31 = hi.enc :=
      (field_inside _ _ (by decide)).trans ((field_inside _ _ (by decide)).trans
        ((field_above _ _ (by decide)).trans (field_all _)))
    have hl : (bit1 b ++ (1#1 ++ (hi.enc ++ lo.enc)) : DWord).extractLsb' 0 31 = lo.enc :=
      (field_inside _ _ (by decide)).trans ((field_inside _ _ (by decide)).trans
        ((field_inside _ _ (by decide)).trans (field_all _)))
    simp only [decode, h62, decodePair, hh, hl, half, h63, ok, if_true]

/-! ## One lemma for each row of the table -/

theorem RoundTrip.bra (b : Bool) (off : BitVec 38) : RoundTrip.Statement (.bra b off) := by
  exact RoundTrip.of_parse rfl rfl rfl fun h => by simp at h; simp [parseWord, parseControl]
theorem RoundTrip.brp (b : Bool) (p : BitVec 3) (t f : BitVec 19) : RoundTrip.Statement (.brp b p t f) := by
  exact RoundTrip.of_parse rfl rfl rfl fun h => by simp at h; simp [parseWord, parseControl]
theorem RoundTrip.brx (b : Bool) (a : Src) : RoundTrip.Statement (.brx b a) := by
  exact RoundTrip.of_parse rfl rfl rfl fun h => by simp at h; simp [parseWord, parseControl, h]
theorem RoundTrip.call (b : Bool) (off : BitVec 38) : RoundTrip.Statement (.call b off) := by
  exact RoundTrip.of_parse rfl rfl rfl fun h => by simp at h; simp [parseWord, parseControl]
theorem RoundTrip.ret (b : Bool) : RoundTrip.Statement (.ret b) := by
  exact RoundTrip.of_parse rfl rfl rfl fun h => by simp at h; simp [parseWord, parseControl]
theorem RoundTrip.div (b : Bool) (off : BitVec 38) : RoundTrip.Statement (.div b off) := by
  exact RoundTrip.of_parse rfl rfl rfl fun h => by simp at h; simp [parseWord, parseControl]
theorem RoundTrip.join (b : Bool) : RoundTrip.Statement (.join b) := by
  exact RoundTrip.of_parse rfl rfl rfl fun h => by simp at h; simp [parseWord, parseControl]
theorem RoundTrip.loop (b : Bool) (c : Src) (off : BitVec 20) : RoundTrip.Statement (.loop b c off) := by
  exact RoundTrip.of_parse rfl rfl rfl fun h => by simp at h; simp [parseWord, parseControl, h]
theorem RoundTrip.exit (h : Hd) : RoundTrip.Statement (.exit h) := by
  exact RoundTrip.of_parse rfl rfl rfl fun h => by simp at h; simp [parseWord, parseControl]
theorem RoundTrip.yield (h : Hd) : RoundTrip.Statement (.yield h) := by
  exact RoundTrip.of_parse rfl rfl rfl fun h => by simp at h; simp [parseWord, parseControl]
theorem RoundTrip.trap (h : Hd) (imm : BitVec 20) : RoundTrip.Statement (.trap h imm) := by
  exact RoundTrip.of_parse rfl rfl rfl fun h => by simp at h; simp [parseWord, parseControl]
theorem RoundTrip.brk (h : Hd) (imm : BitVec 20) : RoundTrip.Statement (.brk h imm) := by
  exact RoundTrip.of_parse rfl rfl rfl fun h => by simp at h; simp [parseWord, parseControl]
theorem RoundTrip.pand (o : OpP2) : RoundTrip.Statement (.pand o) := by
  cases o
  exact RoundTrip.of_parse rfl rfl rfl fun h => by simp at h; simp [parseWord, parsePredicate]
theorem RoundTrip.por (o : OpP2) : RoundTrip.Statement (.por o) := by
  cases o
  exact RoundTrip.of_parse rfl rfl rfl fun h => by simp at h; simp [parseWord, parsePredicate]
theorem RoundTrip.pxor (o : OpP2) : RoundTrip.Statement (.pxor o) := by
  cases o
  exact RoundTrip.of_parse rfl rfl rfl fun h => by simp at h; simp [parseWord, parsePredicate]
theorem RoundTrip.pnot (o : OpP1) : RoundTrip.Statement (.pnot o) := by
  cases o
  exact RoundTrip.of_parse rfl rfl rfl fun h => by simp at h; simp [parseWord, parsePredicate]
theorem RoundTrip.pknown (o : OpP1) : RoundTrip.Statement (.pknown o) := by
  cases o
  exact RoundTrip.of_parse rfl rfl rfl fun h => by simp at h; simp [parseWord, parsePredicate]
theorem RoundTrip.presolve (o : OpP1) (t : Bool) : RoundTrip.Statement (.presolve o t) := by
  cases o
  exact RoundTrip.of_parse rfl rfl rfl fun h => by simp at h; simp [parseWord, parsePredicate]
theorem RoundTrip.pset (h : Hd) (d : BitVec 3) (v : Tri) : RoundTrip.Statement (.pset h d v) := by
  exact RoundTrip.of_parse rfl rfl rfl fun h => by simp at h; simp [parseWord, parsePredicate]
theorem RoundTrip.pmovv (h : Hd) (d : BitVec 8) (a : BitVec 3) : RoundTrip.Statement (.pmovv h d a) := by
  exact RoundTrip.of_parse rfl rfl rfl fun h => by simp at h; simp [parseWord, parsePredicate]
theorem RoundTrip.pmovp (h : Hd) (hold : Hold) (d : BitVec 3) (a : Src) : RoundTrip.Statement (.pmovp h hold d a) := by
  exact RoundTrip.of_parse rfl rfl rfl fun h => by simp at h; simp [parseWord, parsePredicate, h]
theorem RoundTrip.pany (o : OpP1) : RoundTrip.Statement (.pany o) := by
  cases o
  exact RoundTrip.of_parse rfl rfl rfl fun h => by simp at h; simp [parseWord, parsePredicate]
theorem RoundTrip.pall (o : OpP1) : RoundTrip.Statement (.pall o) := by
  cases o
  exact RoundTrip.of_parse rfl rfl rfl fun h => by simp at h; simp [parseWord, parsePredicate]
theorem RoundTrip.pcount (o : OpPC) : RoundTrip.Statement (.pcount o) := by
  cases o
  exact RoundTrip.of_parse rfl rfl rfl fun h => by simp at h; simp [parseWord, parsePredicate, h]
theorem RoundTrip.pmask (o : OpPC) : RoundTrip.Statement (.pmask o) := by
  cases o
  exact RoundTrip.of_parse rfl rfl rfl fun h => by simp at h; simp [parseWord, parsePredicate, h]
theorem RoundTrip.iadd (o : Op2) : RoundTrip.Statement (.iadd o) := by
  cases o
  exact RoundTrip.of_parse rfl rfl rfl fun h => by simp [Op2.form] at h; simp [parseWord, parseInteger, h]
theorem RoundTrip.isub (o : Op2) : RoundTrip.Statement (.isub o) := by
  cases o
  exact RoundTrip.of_parse rfl rfl rfl fun h => by simp [Op2.form] at h; simp [parseWord, parseInteger, h]
theorem RoundTrip.iaddc (o : Op3) : RoundTrip.Statement (.iaddc o) := by
  cases o
  exact RoundTrip.of_parse rfl rfl rfl fun h => by simp [Op3.form] at h; simp [parseWord, parseInteger, h]
theorem RoundTrip.isubb (o : Op3) : RoundTrip.Statement (.isubb o) := by
  cases o
  exact RoundTrip.of_parse rfl rfl rfl fun h => by simp [Op3.form] at h; simp [parseWord, parseInteger, h]
theorem RoundTrip.ineg (o : Op1) : RoundTrip.Statement (.ineg o) := by
  cases o
  exact RoundTrip.of_parse rfl rfl rfl fun h => by simp [Op1.form] at h; simp [parseWord, parseInteger, h]
theorem RoundTrip.iabs (o : Op1) : RoundTrip.Statement (.iabs o) := by
  cases o
  exact RoundTrip.of_parse rfl rfl rfl fun h => by simp [Op1.form] at h; simp [parseWord, parseInteger, h]
theorem RoundTrip.imin (o : Op2) : RoundTrip.Statement (.imin o) := by
  cases o
  exact RoundTrip.of_parse rfl rfl rfl fun h => by simp [Op2.form] at h; simp [parseWord, parseInteger, h]
theorem RoundTrip.imax (o : Op2) : RoundTrip.Statement (.imax o) := by
  cases o
  exact RoundTrip.of_parse rfl rfl rfl fun h => by simp [Op2.form] at h; simp [parseWord, parseInteger, h]
theorem RoundTrip.iminu (o : Op2) : RoundTrip.Statement (.iminu o) := by
  cases o
  exact RoundTrip.of_parse rfl rfl rfl fun h => by simp [Op2.form] at h; simp [parseWord, parseInteger, h]
theorem RoundTrip.imaxu (o : Op2) : RoundTrip.Statement (.imaxu o) := by
  cases o
  exact RoundTrip.of_parse rfl rfl rfl fun h => by simp [Op2.form] at h; simp [parseWord, parseInteger, h]
theorem RoundTrip.and (o : Op2) : RoundTrip.Statement (.and o) := by
  cases o
  exact RoundTrip.of_parse rfl rfl rfl fun h => by simp [Op2.form] at h; simp [parseWord, parseInteger, h]
theorem RoundTrip.or (o : Op2) : RoundTrip.Statement (.or o) := by
  cases o
  exact RoundTrip.of_parse rfl rfl rfl fun h => by simp [Op2.form] at h; simp [parseWord, parseInteger, h]
theorem RoundTrip.xor (o : Op2) : RoundTrip.Statement (.xor o) := by
  cases o
  exact RoundTrip.of_parse rfl rfl rfl fun h => by simp [Op2.form] at h; simp [parseWord, parseInteger, h]
theorem RoundTrip.andn (o : Op2) : RoundTrip.Statement (.andn o) := by
  cases o
  exact RoundTrip.of_parse rfl rfl rfl fun h => by simp [Op2.form] at h; simp [parseWord, parseInteger, h]
theorem RoundTrip.not (o : Op1) : RoundTrip.Statement (.not o) := by
  cases o
  exact RoundTrip.of_parse rfl rfl rfl fun h => by simp [Op1.form] at h; simp [parseWord, parseInteger, h]
theorem RoundTrip.sel (o : Op3) : RoundTrip.Statement (.sel o) := by
  cases o
  exact RoundTrip.of_parse rfl rfl rfl fun h => by simp [Op3.form] at h; simp [parseWord, parseInteger, h]
theorem RoundTrip.imul (o : Op2) : RoundTrip.Statement (.imul o) := by
  cases o
  exact RoundTrip.of_parse rfl rfl rfl fun h => by simp [Op2.form] at h; simp [parseWord, parseInteger, h]
theorem RoundTrip.imulhi (o : Op2) : RoundTrip.Statement (.imulhi o) := by
  cases o
  exact RoundTrip.of_parse rfl rfl rfl fun h => by simp [Op2.form] at h; simp [parseWord, parseInteger, h]
theorem RoundTrip.imulhiu (o : Op2) : RoundTrip.Statement (.imulhiu o) := by
  cases o
  exact RoundTrip.of_parse rfl rfl rfl fun h => by simp [Op2.form] at h; simp [parseWord, parseInteger, h]
theorem RoundTrip.imad (o : Op3) : RoundTrip.Statement (.imad o) := by
  cases o
  exact RoundTrip.of_parse rfl rfl rfl fun h => by simp [Op3.form] at h; simp [parseWord, parseInteger, h]
theorem RoundTrip.imulw (o : Op2) : RoundTrip.Statement (.imulw o) := by
  cases o
  exact RoundTrip.of_parse rfl rfl rfl fun h => by simp [Op2.form] at h; simp [parseWord, parseInteger, h]
theorem RoundTrip.lea (o : OpLea) : RoundTrip.Statement (.lea o) := by
  cases o
  exact RoundTrip.of_parse rfl rfl rfl fun h => by simp at h; simp [parseWord, parseInteger, h]
theorem RoundTrip.iadd64 (o : Op2) : RoundTrip.Statement (.iadd64 o) := by
  cases o
  exact RoundTrip.of_parse rfl rfl rfl fun h => by simp [Op2.form] at h; simp [parseWord, parseInteger, h]
theorem RoundTrip.isub64 (o : Op2) : RoundTrip.Statement (.isub64 o) := by
  cases o
  exact RoundTrip.of_parse rfl rfl rfl fun h => by simp [Op2.form] at h; simp [parseWord, parseInteger, h]
theorem RoundTrip.iaddi (o : OpI) : RoundTrip.Statement (.iaddi o) := by
  cases o
  exact RoundTrip.of_parse rfl rfl rfl fun h => by simp [OpI.form] at h; simp [parseWord, parseImmediate, h]
theorem RoundTrip.andi (o : OpI) : RoundTrip.Statement (.andi o) := by
  cases o
  exact RoundTrip.of_parse rfl rfl rfl fun h => by simp [OpI.form] at h; simp [parseWord, parseImmediate, h]
theorem RoundTrip.ori (o : OpI) : RoundTrip.Statement (.ori o) := by
  cases o
  exact RoundTrip.of_parse rfl rfl rfl fun h => by simp [OpI.form] at h; simp [parseWord, parseImmediate, h]
theorem RoundTrip.xori (o : OpI) : RoundTrip.Statement (.xori o) := by
  cases o
  exact RoundTrip.of_parse rfl rfl rfl fun h => by simp [OpI.form] at h; simp [parseWord, parseImmediate, h]
theorem RoundTrip.movi (h : Hd) (d : Dst) (imm : BitVec 20) : RoundTrip.Statement (.movi h d imm) := by
  exact RoundTrip.of_parse rfl rfl rfl fun h => by simp at h; simp [parseWord, parseImmediate, h]
theorem RoundTrip.movhi (o : OpI) : RoundTrip.Statement (.movhi o) := by
  cases o
  exact RoundTrip.of_parse rfl rfl rfl fun h => by simp [OpI.form] at h; simp [parseWord, parseImmediate, h]
theorem RoundTrip.imini (o : OpI) : RoundTrip.Statement (.imini o) := by
  cases o
  exact RoundTrip.of_parse rfl rfl rfl fun h => by simp [OpI.form] at h; simp [parseWord, parseImmediate, h]
theorem RoundTrip.imaxi (o : OpI) : RoundTrip.Statement (.imaxi o) := by
  cases o
  exact RoundTrip.of_parse rfl rfl rfl fun h => by simp [OpI.form] at h; simp [parseWord, parseImmediate, h]
theorem RoundTrip.shl (o : Op2) : RoundTrip.Statement (.shl o) := by
  cases o
  exact RoundTrip.of_parse rfl rfl rfl fun h => by simp [Op2.form] at h; simp [parseWord, parseBit, h]
theorem RoundTrip.shr (o : Op2) : RoundTrip.Statement (.shr o) := by
  cases o
  exact RoundTrip.of_parse rfl rfl rfl fun h => by simp [Op2.form] at h; simp [parseWord, parseBit, h]
theorem RoundTrip.sar (o : Op2) : RoundTrip.Statement (.sar o) := by
  cases o
  exact RoundTrip.of_parse rfl rfl rfl fun h => by simp [Op2.form] at h; simp [parseWord, parseBit, h]
theorem RoundTrip.rot (o : Op2) : RoundTrip.Statement (.rot o) := by
  cases o
  exact RoundTrip.of_parse rfl rfl rfl fun h => by simp [Op2.form] at h; simp [parseWord, parseBit, h]
theorem RoundTrip.shf (o : Op3) : RoundTrip.Statement (.shf o) := by
  cases o
  exact RoundTrip.of_parse rfl rfl rfl fun h => by simp [Op3.form] at h; simp [parseWord, parseBit, h]
theorem RoundTrip.bfx (o : Op3) : RoundTrip.Statement (.bfx o) := by
  cases o
  exact RoundTrip.of_parse rfl rfl rfl fun h => by simp [Op3.form] at h; simp [parseWord, parseBit, h]
theorem RoundTrip.bfxu (o : Op3) : RoundTrip.Statement (.bfxu o) := by
  cases o
  exact RoundTrip.of_parse rfl rfl rfl fun h => by simp [Op3.form] at h; simp [parseWord, parseBit, h]
theorem RoundTrip.bfi (o : Op3) : RoundTrip.Statement (.bfi o) := by
  cases o
  exact RoundTrip.of_parse rfl rfl rfl fun h => by simp [Op3.form] at h; simp [parseWord, parseBit, h]
theorem RoundTrip.popc (o : Op1) : RoundTrip.Statement (.popc o) := by
  cases o
  exact RoundTrip.of_parse rfl rfl rfl fun h => by simp [Op1.form] at h; simp [parseWord, parseBit, h]
theorem RoundTrip.clz (o : Op1) : RoundTrip.Statement (.clz o) := by
  cases o
  exact RoundTrip.of_parse rfl rfl rfl fun h => by simp [Op1.form] at h; simp [parseWord, parseBit, h]
theorem RoundTrip.brev (o : Op1) : RoundTrip.Statement (.brev o) := by
  cases o
  exact RoundTrip.of_parse rfl rfl rfl fun h => by simp [Op1.form] at h; simp [parseWord, parseBit, h]
theorem RoundTrip.mov (o : Op1) : RoundTrip.Statement (.mov o) := by
  cases o
  exact RoundTrip.of_parse rfl rfl rfl fun h => by simp [Op1.form] at h; simp [parseWord, parseMove, parseMov, h]
theorem RoundTrip.movQueuePush (h : Hd) (q : BitVec 4) (a : Src) : RoundTrip.Statement (.movQueuePush h q a) := by
  exact RoundTrip.of_parse rfl rfl rfl fun h => by simp at h; simp [parseWord, parseMove, parseMov, h]
theorem RoundTrip.movQueuePop (h : Hd) (d : Dst) (q : BitVec 4) : RoundTrip.Statement (.movQueuePop h d q) := by
  exact RoundTrip.of_parse rfl rfl rfl fun h => by simp at h; simp [parseWord, parseMove, parseMov, h]
theorem RoundTrip.mov64 (o : Op1) : RoundTrip.Statement (.mov64 o) := by
  cases o
  exact RoundTrip.of_parse rfl rfl rfl fun h => by simp [Op1.form] at h; simp [parseWord, parseMove, h]
theorem RoundTrip.movs (h : Hd) (hold : Hold) (d : BitVec 6) (a : Src) : RoundTrip.Statement (.movs h hold d a) := by
  exact RoundTrip.of_parse rfl rfl rfl fun h => by simp at h; simp [parseWord, parseMove, h]
theorem RoundTrip.bcast (o : OpVU) : RoundTrip.Statement (.bcast o) := by
  cases o
  exact RoundTrip.of_parse rfl rfl rfl fun h => by simp [OpVU.form] at h; simp [parseWord, parseMove, h]
theorem RoundTrip.rdlane (h : Hd) (la : BitVec 4) (hold : Hold) (d : BitVec 6) (a : Src) (b : SrcB) : RoundTrip.Statement (.rdlane h la hold d a b) := by
  exact RoundTrip.of_parse rfl rfl rfl fun h => by simp at h; simp [parseWord, parseMove, h]
theorem RoundTrip.wrlane (o : OpVU) : RoundTrip.Statement (.wrlane o) := by
  cases o
  exact RoundTrip.of_parse rfl rfl rfl fun h => by simp [OpVU.form] at h; simp [parseWord, parseMove, h]
theorem RoundTrip.shfl (h : Hd) (la : BitVec 4) (hold : Hold) (d : BitVec 8) (a b : Src) (m : ShflMode) : RoundTrip.Statement (.shfl h la hold d a b m) := by
  exact RoundTrip.of_parse rfl rfl rfl fun h => by simp at h; simp [parseWord, parseMove, h]
theorem RoundTrip.nmov (o : OpVU) : RoundTrip.Statement (.nmov o) := by
  cases o
  exact RoundTrip.of_parse rfl rfl rfl fun h => by simp [OpVU.form] at h; simp [parseWord, parseMove, h]
theorem RoundTrip.movm (h : Hd) (hold : Hold) (a : Src) : RoundTrip.Statement (.movm h hold a) := by
  exact RoundTrip.of_parse rfl rfl rfl fun h => by simp at h; simp [parseWord, parseMove, h]
theorem RoundTrip.rdsp (h : Hd) (d : Dst) (c : Special) : RoundTrip.Statement (.rdsp h d c) := by
  exact RoundTrip.of_parse rfl rfl rfl fun h => by simp at h; simp [parseWord, parseMove, h]
theorem RoundTrip.icmp (o : OpCmp) : RoundTrip.Statement (.icmp o) := by
  cases o
  exact RoundTrip.of_parse rfl rfl rfl fun h => by simp [OpCmp.form] at h; simp [parseWord, parseCompare, h]
theorem RoundTrip.icmpu (o : OpCmp) : RoundTrip.Statement (.icmpu o) := by
  cases o
  exact RoundTrip.of_parse rfl rfl rfl fun h => by simp [OpCmp.form] at h; simp [parseWord, parseCompare, h]
theorem RoundTrip.icmp64 (o : OpCmp) (u : Bool) : RoundTrip.Statement (.icmp64 o u) := by
  cases o
  exact RoundTrip.of_parse rfl rfl rfl fun h => by simp [OpCmp.form] at h; simp [parseWord, parseCompare, h]
theorem RoundTrip.scan (h : Hd) (hold : Hold) (d : BitVec 8) (a : Src) (op : LaneOp) (excl : Bool) : RoundTrip.Statement (.scan h hold d a op excl) := by
  exact RoundTrip.of_parse rfl rfl rfl fun h => by simp at h; simp [parseWord, parseLane, h]
theorem RoundTrip.gred (h : Hd) (hold : Hold) (d : Dst) (a : Src) (op : GredOp) : RoundTrip.Statement (.gred h hold d a op) := by
  exact RoundTrip.of_parse rfl rfl rfl fun h => by simp at h; simp [parseWord, parseLane, h]
theorem RoundTrip.compact (h : Hd) (hold : Hold) (d : BitVec 8) (a : Src) (p : BitVec 3) : RoundTrip.Statement (.compact h hold d a p) := by
  exact RoundTrip.of_parse rfl rfl rfl fun h => by simp at h; simp [parseWord, parseLane, h]
theorem RoundTrip.isect (h : Hd) (hold : Hold) (d : BitVec 8) (a b : Src) : RoundTrip.Statement (.isect h hold d a b) := by
  exact RoundTrip.of_parse rfl rfl rfl fun h => by simp at h; simp [parseWord, parseLane, h]
theorem RoundTrip.mpath (h : Hd) (hold : Hold) (d : BitVec 8) (a b c : Src) : RoundTrip.Statement (.mpath h hold d a b c) := by
  exact RoundTrip.of_parse rfl rfl rfl fun h => by simp at h; simp [parseWord, parseLane, h]
theorem RoundTrip.fadd (o : FOp2) : RoundTrip.Statement (.fadd o) := by
  cases o
  exact RoundTrip.of_parse rfl rfl rfl fun h => by simp [FOp2.form] at h; simp [parseWord, parseIntervalArith, h]
theorem RoundTrip.fsub (o : FOp2) : RoundTrip.Statement (.fsub o) := by
  cases o
  exact RoundTrip.of_parse rfl rfl rfl fun h => by simp [FOp2.form] at h; simp [parseWord, parseIntervalArith, h]
theorem RoundTrip.fmul (o : FOp2) : RoundTrip.Statement (.fmul o) := by
  cases o
  exact RoundTrip.of_parse rfl rfl rfl fun h => by simp [FOp2.form] at h; simp [parseWord, parseIntervalArith, h]
theorem RoundTrip.fdiv (la : BitVec 4) (o : FOp2) : RoundTrip.Statement (.fdiv la o) := by
  cases o
  exact RoundTrip.of_parse rfl rfl rfl fun h => by simp [FOp2.form] at h; simp [parseWord, parseIntervalArith, h]
theorem RoundTrip.fdivx (la : BitVec 4) (o : FOpX) : RoundTrip.Statement (.fdivx la o) := by
  cases o
  exact RoundTrip.of_parse rfl rfl rfl fun h => by simp at h; simp [parseWord, parseIntervalArith, h]
theorem RoundTrip.ffma (o : FOp3) : RoundTrip.Statement (.ffma o) := by
  cases o
  exact RoundTrip.of_parse rfl rfl rfl fun h => by simp at h; simp [parseWord, parseIntervalArith, h]
theorem RoundTrip.fsqr (o : FOp1) : RoundTrip.Statement (.fsqr o) := by
  cases o
  exact RoundTrip.of_parse rfl rfl rfl fun h => by simp [FOp1.form] at h; simp [parseWord, parseIntervalArith, h]
theorem RoundTrip.fsqrt (la : BitVec 4) (o : FOp1) : RoundTrip.Statement (.fsqrt la o) := by
  cases o
  exact RoundTrip.of_parse rfl rfl rfl fun h => by simp [FOp1.form] at h; simp [parseWord, parseIntervalArith, h]
theorem RoundTrip.fmin (o : FOp2) : RoundTrip.Statement (.fmin o) := by
  cases o
  exact RoundTrip.of_parse rfl rfl rfl fun h => by simp [FOp2.form] at h; simp [parseWord, parseIntervalArith, h]
theorem RoundTrip.fmax (o : FOp2) : RoundTrip.Statement (.fmax o) := by
  cases o
  exact RoundTrip.of_parse rfl rfl rfl fun h => by simp [FOp2.form] at h; simp [parseWord, parseIntervalArith, h]
theorem RoundTrip.fabs (o : FOp1) : RoundTrip.Statement (.fabs o) := by
  cases o
  exact RoundTrip.of_parse rfl rfl rfl fun h => by simp [FOp1.form] at h; simp [parseWord, parseIntervalArith, h]
theorem RoundTrip.fneg (o : FOp1) : RoundTrip.Statement (.fneg o) := by
  cases o
  exact RoundTrip.of_parse rfl rfl rfl fun h => by simp [FOp1.form] at h; simp [parseWord, parseIntervalArith, h]
theorem RoundTrip.fpown (o : FOp1) (n : BitVec 10) : RoundTrip.Statement (.fpown o n) := by
  cases o
  exact RoundTrip.of_parse rfl rfl rfl fun h => by simp [FOp1.form] at h; simp [parseWord, parseIntervalArith, h]
theorem RoundTrip.fexp2 (la : BitVec 4) (o : FOp1) : RoundTrip.Statement (.fexp2 la o) := by
  cases o
  exact RoundTrip.of_parse rfl rfl rfl fun h => by simp [FOp1.form] at h; simp [parseWord, parseIntervalArith, h]
theorem RoundTrip.flog2 (la : BitVec 4) (o : FOp1) : RoundTrip.Statement (.flog2 la o) := by
  cases o
  exact RoundTrip.of_parse rfl rfl rfl fun h => by simp [FOp1.form] at h; simp [parseWord, parseIntervalArith, h]
theorem RoundTrip.fhull (o : FOp2) : RoundTrip.Statement (.fhull o) := by
  cases o
  exact RoundTrip.of_parse rfl rfl rfl fun h => by simp [FOp2.form] at h; simp [parseWord, parseIntervalSet, h]
theorem RoundTrip.fisect (o : FOp2) : RoundTrip.Statement (.fisect o) := by
  cases o
  exact RoundTrip.of_parse rfl rfl rfl fun h => by simp [FOp2.form] at h; simp [parseWord, parseIntervalSet, h]
theorem RoundTrip.fmid (o : FOp1) : RoundTrip.Statement (.fmid o) := by
  cases o
  exact RoundTrip.of_parse rfl rfl rfl fun h => by simp [FOp1.form] at h; simp [parseWord, parseIntervalSet, h]
theorem RoundTrip.frad (o : FOp1) : RoundTrip.Statement (.frad o) := by
  cases o
  exact RoundTrip.of_parse rfl rfl rfl fun h => by simp [FOp1.form] at h; simp [parseWord, parseIntervalSet, h]
theorem RoundTrip.fwid (o : FOp1) : RoundTrip.Statement (.fwid o) := by
  cases o
  exact RoundTrip.of_parse rfl rfl rfl fun h => by simp [FOp1.form] at h; simp [parseWord, parseIntervalSet, h]
theorem RoundTrip.fmag (o : FOp1) : RoundTrip.Statement (.fmag o) := by
  cases o
  exact RoundTrip.of_parse rfl rfl rfl fun h => by simp [FOp1.form] at h; simp [parseWord, parseIntervalSet, h]
theorem RoundTrip.fmig (o : FOp1) : RoundTrip.Statement (.fmig o) := by
  cases o
  exact RoundTrip.of_parse rfl rfl rfl fun h => by simp [FOp1.form] at h; simp [parseWord, parseIntervalSet, h]
theorem RoundTrip.finf (o : FOp1) : RoundTrip.Statement (.finf o) := by
  cases o
  exact RoundTrip.of_parse rfl rfl rfl fun h => by simp [FOp1.form] at h; simp [parseWord, parseIntervalSet, h]
theorem RoundTrip.fsup (o : FOp1) : RoundTrip.Statement (.fsup o) := by
  cases o
  exact RoundTrip.of_parse rfl rfl rfl fun h => by simp [FOp1.form] at h; simp [parseWord, parseIntervalSet, h]
theorem RoundTrip.fmake (o : FOpM) : RoundTrip.Statement (.fmake o) := by
  cases o
  exact RoundTrip.of_parse rfl rfl rfl fun h => by simp at h; simp [parseWord, parseIntervalSet, h]
theorem RoundTrip.fpoint (o : FOpP) : RoundTrip.Statement (.fpoint o) := by
  cases o
  exact RoundTrip.of_parse rfl rfl rfl fun h => by simp at h; simp [parseWord, parseIntervalSet, h]
theorem RoundTrip.fcmp (h : Hd) (d : BitVec 3) (a b : Src) (cc : Cond) (w : FW) : RoundTrip.Statement (.fcmp h d a b cc w) := by
  exact RoundTrip.of_parse rfl rfl rfl fun h => by simp at h; simp [parseWord, parseIntervalCompare, h]
theorem RoundTrip.fsubset (o : FOpR) : RoundTrip.Statement (.fsubset o) := by
  cases o
  exact RoundTrip.of_parse rfl rfl rfl fun h => by simp [FOpR.form] at h; simp [parseWord, parseIntervalCompare, h]
theorem RoundTrip.finterior (o : FOpR) : RoundTrip.Statement (.finterior o) := by
  cases o
  exact RoundTrip.of_parse rfl rfl rfl fun h => by simp [FOpR.form] at h; simp [parseWord, parseIntervalCompare, h]
theorem RoundTrip.fdisj (o : FOpR) : RoundTrip.Statement (.fdisj o) := by
  cases o
  exact RoundTrip.of_parse rfl rfl rfl fun h => by simp [FOpR.form] at h; simp [parseWord, parseIntervalCompare, h]
theorem RoundTrip.fcontains (o : FOpR) : RoundTrip.Statement (.fcontains o) := by
  cases o
  exact RoundTrip.of_parse rfl rfl rfl fun h => by simp [FOpR.form] at h; simp [parseWord, parseIntervalCompare, h]
theorem RoundTrip.fclass (h : Hd) (d : Dst) (a : Src) (w : FW) : RoundTrip.Statement (.fclass h d a w) := by
  exact RoundTrip.of_parse rfl rfl rfl fun h => by simp at h; simp [parseWord, parseIntervalCompare, h]
theorem RoundTrip.fwiden (h : Hd) (d : Dst) (a : Src) : RoundTrip.Statement (.fwiden h d a) := by
  exact RoundTrip.of_parse rfl rfl rfl fun h => by simp at h; simp [parseWord, parseConversion, h]
theorem RoundTrip.fnarrow (h : Hd) (d : Dst) (a : Src) : RoundTrip.Statement (.fnarrow h d a) := by
  exact RoundTrip.of_parse rfl rfl rfl fun h => by simp at h; simp [parseWord, parseConversion, h]
theorem RoundTrip.fcvti (h : Hd) (d : Dst) (a : Src) (m : CvtMode) (w : FW) : RoundTrip.Statement (.fcvti h d a m w) := by
  exact RoundTrip.of_parse rfl rfl rfl fun h => by simp at h; simp [parseWord, parseConversion, h]
theorem RoundTrip.icvtf (h : Hd) (hold : Hold) (d : Dst) (a : Src) (u : Bool) (w : FW) : RoundTrip.Statement (.icvtf h hold d a u w) := by
  exact RoundTrip.of_parse rfl rfl rfl fun h => by simp at h; simp [parseWord, parseConversion, h]
theorem RoundTrip.fcvtbf (h : Hd) (d : Dst) (a b : Src) (m : PtMode) : RoundTrip.Statement (.fcvtbf h d a b m) := by
  exact RoundTrip.of_parse rfl rfl rfl fun h => by simp at h; simp [parseWord, parseConversion, h]
theorem RoundTrip.fpack (h : Hd) (hold : Hold) (d : BitVec 8) (a : Src) (k : Fin 7) : RoundTrip.Statement (.fpack h hold d a k) := by
  exact RoundTrip.of_parse rfl rfl rfl fun h => by simp at h; simp [parseWord, parseConversion, h]
theorem RoundTrip.funpack (h : Hd) (hold : Hold) (d : BitVec 8) (a b : Src) (k : Fin 7) : RoundTrip.Statement (.funpack h hold d a b k) := by
  exact RoundTrip.of_parse rfl rfl rfl fun h => by simp at h; simp [parseWord, parseConversion, h]
theorem RoundTrip.ftomrad (h : Hd) (d : Dst) (a : Src) (w : FW) : RoundTrip.Statement (.ftomrad h d a w) := by
  exact RoundTrip.of_parse rfl rfl rfl fun h => by simp at h; simp [parseWord, parseConversion, h]
theorem RoundTrip.ffrommrad (h : Hd) (hold : Hold) (d : Dst) (a : Src) (w : FW) : RoundTrip.Statement (.ffrommrad h hold d a w) := by
  exact RoundTrip.of_parse rfl rfl rfl fun h => by simp at h; simp [parseWord, parseConversion, h]
theorem RoundTrip.ftrunc (h : Hd) (hold : Hold) (d : Dst) (a : Src) (bfh : Bool) : RoundTrip.Statement (.ftrunc h hold d a bfh) := by
  exact RoundTrip.of_parse rfl rfl rfl fun h => by simp at h; simp [parseWord, parseConversion, h]
theorem RoundTrip.split (h : Hd) (d : BitVec 3) (site : BitVec 3) : RoundTrip.Statement (.split h d site) := by
  exact RoundTrip.of_parse rfl rfl rfl fun h => by simp at h; simp [parseWord, parseFork]
theorem RoundTrip.spawn (h : Hd) (d : BitVec 3) (a : Src) (site : BitVec 3) : RoundTrip.Statement (.spawn h d a site) := by
  exact RoundTrip.of_parse rfl rfl rfl fun h => by simp at h; simp [parseWord, parseFork, h]
theorem RoundTrip.take (h : Hd) (d : BitVec 3) (site : BitVec 3) : RoundTrip.Statement (.take h d site) := by
  exact RoundTrip.of_parse rfl rfl rfl fun h => by simp at h; simp [parseWord, parseFork]
theorem RoundTrip.tend (h : Hd) : RoundTrip.Statement (.tend h) := by
  exact RoundTrip.of_parse rfl rfl rfl fun h => by simp at h; simp [parseWord, parseFork]
theorem RoundTrip.poolq (h : Hd) (d : Dst) (sel : PoolSel) : RoundTrip.Statement (.poolq h d sel) := by
  exact RoundTrip.of_parse rfl rfl rfl fun h => by simp at h; simp [parseWord, parseFork, h]
theorem RoundTrip.ld (o : OpLd) : RoundTrip.Statement (.ld o) := by
  cases o
  exact RoundTrip.of_parse rfl rfl rfl fun h => by simp [OpLd.form] at h; simp [parseWord, parseLoadStore, h]
theorem RoundTrip.st (o : OpSt) : RoundTrip.Statement (.st o) := by
  cases o
  exact RoundTrip.of_parse rfl rfl rfl fun h => by simp [OpSt.form] at h; simp [parseWord, parseLoadStore, h]
theorem RoundTrip.lds (o : OpLd) : RoundTrip.Statement (.lds o) := by
  cases o
  exact RoundTrip.of_parse rfl rfl rfl fun h => by simp [OpLd.form] at h; simp [parseWord, parseLoadStore, h]
theorem RoundTrip.sts (o : OpSt) : RoundTrip.Statement (.sts o) := by
  cases o
  exact RoundTrip.of_parse rfl rfl rfl fun h => by simp [OpSt.form] at h; simp [parseWord, parseLoadStore, h]
theorem RoundTrip.ldk (o : OpLd) : RoundTrip.Statement (.ldk o) := by
  cases o
  exact RoundTrip.of_parse rfl rfl rfl fun h => by simp [OpLd.form] at h; simp [parseWord, parseLoadStore, h]
theorem RoundTrip.ldmrad (o : OpLdMrad) : RoundTrip.Statement (.ldmrad o) := by
  cases o
  exact RoundTrip.of_parse rfl rfl rfl fun h => by simp at h; simp [parseWord, parseLoadStore, h]
theorem RoundTrip.stmrad (o : OpStMrad) : RoundTrip.Statement (.stmrad o) := by
  cases o
  exact RoundTrip.of_parse rfl rfl rfl fun h => by simp at h; simp [parseWord, parseLoadStore, h]
theorem RoundTrip.stp (o : OpStp) : RoundTrip.Statement (.stp o) := by
  cases o
  exact RoundTrip.of_parse rfl rfl rfl fun h => by simp at h; simp [parseWord, parseLoadStore, h]
theorem RoundTrip.pref (o : OpPref) : RoundTrip.Statement (.pref o) := by
  obtain ⟨_, _, _, _, sc, _⟩ := o
  cases sc <;>
  exact RoundTrip.of_parse rfl rfl rfl fun h => by simp at h; simp [parseWord, parseLoadStore, h]
theorem RoundTrip.atom (o : OpAtom) : RoundTrip.Statement (.atom o) := by
  cases o
  exact RoundTrip.of_parse rfl rfl rfl fun h => by simp at h; simp [parseWord, parseAtomic, h]
theorem RoundTrip.atomcas (o : OpCas) : RoundTrip.Statement (.atomcas o) := by
  cases o
  exact RoundTrip.of_parse rfl rfl rfl fun h => by simp at h; simp [parseWord, parseAtomic, h]
theorem RoundTrip.fatom (o : OpFAtom) : RoundTrip.Statement (.fatom o) := by
  cases o
  exact RoundTrip.of_parse rfl rfl rfl fun h => by simp at h; simp [parseWord, parseAtomic, h]
theorem RoundTrip.red (o : OpRed) : RoundTrip.Statement (.red o) := by
  cases o
  exact RoundTrip.of_parse rfl rfl rfl fun h => by simp at h; simp [parseWord, parseAtomic, h]
theorem RoundTrip.fred (o : OpFRed) : RoundTrip.Statement (.fred o) := by
  cases o
  exact RoundTrip.of_parse rfl rfl rfl fun h => by simp at h; simp [parseWord, parseAtomic, h]
theorem RoundTrip.xcopy (o : OpX) : RoundTrip.Statement (.xcopy o) := by
  cases o
  exact RoundTrip.of_parse rfl rfl rfl fun h => by simp at h; simp [parseWord, parseEngine, h]
theorem RoundTrip.xfill (o : OpX) : RoundTrip.Statement (.xfill o) := by
  cases o
  exact RoundTrip.of_parse rfl rfl rfl fun h => by simp at h; simp [parseWord, parseEngine, h]
theorem RoundTrip.xwait (h : Hd) (d : BitVec 3) (a : Src) (all : Bool) : RoundTrip.Statement (.xwait h d a all) := by
  exact RoundTrip.of_parse rfl rfl rfl fun h => by simp at h; simp [parseWord, parseEngine, h]
theorem RoundTrip.xtest (h : Hd) (d : Dst) (a : Src) : RoundTrip.Statement (.xtest h d a) := by
  exact RoundTrip.of_parse rfl rfl rfl fun h => by simp at h; simp [parseWord, parseEngine, h]
theorem RoundTrip.xclear (h : Hd) (a : Src) : RoundTrip.Statement (.xclear h a) := by
  exact RoundTrip.of_parse rfl rfl rfl fun h => by simp at h; simp [parseWord, parseEngine, h]
theorem RoundTrip.bar (h : Hd) (hold : Hold) (a : Src) (id : BitVec 4) : RoundTrip.Statement (.bar h hold a id) := by
  exact RoundTrip.of_parse rfl rfl rfl fun h => by simp at h; simp [parseWord, parseSync, h]
theorem RoundTrip.barc (h : Hd) (id : BitVec 2) : RoundTrip.Statement (.barc h id) := by
  exact RoundTrip.of_parse rfl rfl rfl fun h => by simp at h; simp [parseWord, parseSync]
theorem RoundTrip.bara (h : Hd) (hold : Hold) (d : Dst) (a : Src) (id : BitVec 4) : RoundTrip.Statement (.bara h hold d a id) := by
  exact RoundTrip.of_parse rfl rfl rfl fun h => by simp at h; simp [parseWord, parseSync, h]
theorem RoundTrip.barw (h : Hd) (hold : Hold) (a : Src) (id : BitVec 4) : RoundTrip.Statement (.barw h hold a id) := by
  exact RoundTrip.of_parse rfl rfl rfl fun h => by simp at h; simp [parseWord, parseSync, h]
theorem RoundTrip.qmap (h : Hd) (kind : QKind) (q : BitVec 4) (a b : Src) : RoundTrip.Statement (.qmap h kind q a b) := by
  exact RoundTrip.of_parse rfl rfl rfl fun h => by simp at h; simp [parseWord, parseSync, h]
theorem RoundTrip.qtry (h : Hd) (d : BitVec 3) (q : BitVec 4) (pop : Bool) : RoundTrip.Statement (.qtry h d q pop) := by
  exact RoundTrip.of_parse rfl rfl rfl fun h => by simp at h; simp [parseWord, parseSync]
theorem RoundTrip.waitv (h : Hd) (hold : Hold) (d : BitVec 3) (a : Src) (b : SrcB) : RoundTrip.Statement (.waitv h hold d a b) := by
  exact RoundTrip.of_parse rfl rfl rfl fun h => by simp at h; simp [parseWord, parseSync, h]
theorem RoundTrip.mma (o : OpMma) : RoundTrip.Statement (.mma o) := by
  cases o
  exact RoundTrip.of_parse rfl rfl rfl fun h => by simp at h; simp [parseWord, parseMatrix, h]
theorem RoundTrip.mmax (o : OpMma) : RoundTrip.Statement (.mmax o) := by
  cases o
  exact RoundTrip.of_parse rfl rfl rfl fun h => by simp at h; simp [parseWord, parseMatrix, h]
theorem RoundTrip.zclr (h : Hd) (z : BitVec 6) (w : FW) : RoundTrip.Statement (.zclr h z w) := by
  exact RoundTrip.of_parse rfl rfl rfl fun h => by simp at h; simp [parseWord, parseMatrix]
theorem RoundTrip.zld (h : Hd) (la : BitVec 4) (z : BitVec 6) (a : Src) (w : FW) : RoundTrip.Statement (.zld h la z a w) := by
  exact RoundTrip.of_parse rfl rfl rfl fun h => by simp at h; simp [parseWord, parseMatrix, h]
theorem RoundTrip.zst (h : Hd) (z : BitVec 6) (a : Src) (w : FW) : RoundTrip.Statement (.zst h z a w) := by
  exact RoundTrip.of_parse rfl rfl rfl fun h => by simp at h; simp [parseWord, parseMatrix, h]
theorem RoundTrip.zget (h : Hd) (la : BitVec 4) (d : BitVec 8) (z : BitVec 6) (w : FW) : RoundTrip.Statement (.zget h la d z w) := by
  exact RoundTrip.of_parse rfl rfl rfl fun h => by simp at h; simp [parseWord, parseMatrix]
theorem RoundTrip.zput (h : Hd) (z : BitVec 6) (a : Src) (w : FW) : RoundTrip.Statement (.zput h z a w) := by
  exact RoundTrip.of_parse rfl rfl rfl fun h => by simp at h; simp [parseWord, parseMatrix, h]
theorem RoundTrip.scld (h : Hd) (slot : BitVec 3) (part : ScldPart) : RoundTrip.Statement (.scld h slot part) := by
  cases part <;>
  exact RoundTrip.of_parse rfl rfl rfl fun h => by simp [ScldPart.form] at h; simp [parseWord, parseMatrix, Fields.withPart, Fields.scldPart, h]
theorem RoundTrip.seal (o : OpSeal) : RoundTrip.Statement (.seal o) := by
  cases o
  exact RoundTrip.of_parse rfl rfl rfl fun h => by simp [OpSeal.form] at h; simp [parseWord, parseSeal, h]
theorem RoundTrip.peek (o : OpSeal) : RoundTrip.Statement (.peek o) := by
  cases o
  exact RoundTrip.of_parse rfl rfl rfl fun h => by simp [OpSeal.form] at h; simp [parseWord, parseSeal, h]
theorem RoundTrip.reopen (h : Hd) (la : BitVec 4) (hold : Hold) (d : BitVec 3) (a c : Src) : RoundTrip.Statement (.reopen h la hold d a c) := by
  exact RoundTrip.of_parse rfl rfl rfl fun h => by simp at h; simp [parseWord, parseSeal, h]
theorem RoundTrip.cinit (h : Hd) (hold : Hold) (a c : Src) : RoundTrip.Statement (.cinit h hold a c) := by
  exact RoundTrip.of_parse rfl rfl rfl fun h => by simp at h; simp [parseWord, parseSeal, h]
theorem RoundTrip.ktable (h : Hd) (slot : BitVec 2) (a : Src) : RoundTrip.Statement (.ktable h slot a) := by
  exact RoundTrip.of_parse rfl rfl rfl fun h => by simp at h; simp [parseWord, parseCove, h]
theorem RoundTrip.kstore (h : Hd) (hold : Hold) (slot : BitVec 2) (a b : Src) : RoundTrip.Statement (.kstore h hold slot a b) := by
  exact RoundTrip.of_parse rfl rfl rfl fun h => by simp at h; simp [parseWord, parseCove, h]
theorem RoundTrip.ksign (h : Hd) (la : BitVec 4) (d : Dst) (a : Src) (slot : BitVec 2) : RoundTrip.Statement (.ksign h la d a slot) := by
  exact RoundTrip.of_parse rfl rfl rfl fun h => by simp at h; simp [parseWord, parseCove, h]
theorem RoundTrip.kgather (h : Hd) (d : BitVec 3) (a b : Src) (slot : BitVec 2) (tag : BitVec 6) : RoundTrip.Statement (.kgather h d a b slot tag) := by
  exact RoundTrip.of_parse rfl rfl rfl fun h => by simp at h; simp [parseWord, parseCove, h]
theorem RoundTrip.kclear (h : Hd) (hold : Hold) (b : Src) (table : BitVec 2) (slot : BitVec 2) (tag : BitVec 6) : RoundTrip.Statement (.kclear h hold b table slot tag) := by
  exact RoundTrip.of_parse rfl rfl rfl fun h => by simp at h; simp [parseWord, parseCove, h]
theorem RoundTrip.dqnext (h : Hd) (hold : Hold) (a : Src) (tag : BitVec 6) : RoundTrip.Statement (.dqnext h hold a tag) := by
  exact RoundTrip.of_parse rfl rfl rfl fun h => by simp at h; simp [parseWord, parseDistributor, h]
theorem RoundTrip.dqdone (h : Hd) (hold : Hold) (a : Src) : RoundTrip.Statement (.dqdone h hold a) := by
  exact RoundTrip.of_parse rfl rfl rfl fun h => by simp at h; simp [parseWord, parseDistributor, h]
theorem RoundTrip.devent (h : Hd) (hold : Hold) (a : Src) : RoundTrip.Statement (.devent h hold a) := by
  exact RoundTrip.of_parse rfl rfl rfl fun h => by simp at h; simp [parseWord, parseDistributor, h]
theorem RoundTrip.dwait (h : Hd) (hold : Hold) (d : BitVec 3) (a : Src) (b : SrcB) : RoundTrip.Statement (.dwait h hold d a b) := by
  exact RoundTrip.of_parse rfl rfl rfl fun h => by simp at h; simp [parseWord, parseDistributor, h]
theorem RoundTrip.tret (b : Bool) : RoundTrip.Statement (.tret b) := by
  exact RoundTrip.of_parse rfl rfl rfl fun h => by simp at h; simp [parseWord, parseSystem]
theorem RoundTrip.mfsr (h : Hd) (d : Dst) (r : SysReg) : RoundTrip.Statement (.mfsr h d r) := by
  exact RoundTrip.of_parse rfl rfl rfl fun h => by simp at h; simp [parseWord, parseSystem, h]
theorem RoundTrip.mtsr (h : Hd) (r : SysReg) (a : Src) : RoundTrip.Statement (.mtsr h r a) := by
  exact RoundTrip.of_parse rfl rfl rfl fun h => by simp at h; simp [parseWord, parseSystem, h]
theorem RoundTrip.tlbf (h : Hd) (a : Src) : RoundTrip.Statement (.tlbf h a) := by
  exact RoundTrip.of_parse rfl rfl rfl fun h => by simp at h; simp [parseWord, parseSystem, h]
theorem RoundTrip.tlbi (h : Hd) (hold : Hold) (a : Src) (b : SrcB) : RoundTrip.Statement (.tlbi h hold a b) := by
  exact RoundTrip.of_parse rfl rfl rfl fun h => by simp at h; simp [parseWord, parseSystem, h]
theorem RoundTrip.probe (h : Hd) (d : Dst) (a : Src) : RoundTrip.Statement (.probe h d a) := by
  exact RoundTrip.of_parse rfl rfl rfl fun h => by simp at h; simp [parseWord, parseSystem, h]
theorem RoundTrip.halt (h : Hd) (imm : BitVec 20) : RoundTrip.Statement (.halt h imm) := by
  exact RoundTrip.of_parse rfl rfl rfl fun h => by simp at h; simp [parseWord, parseSystem]
theorem RoundTrip.pairWord (b : Bool) (hi lo : Half) : RoundTrip.Statement (.pairWord b hi lo) := RoundTrip.pair b hi lo
theorem RoundTrip.instructionFetch (g : Nat) : RoundTrip.Statement (.instructionFetch g) := RoundTrip.of_event rfl rfl
theorem RoundTrip.teamStop (core team : Nat) (by' : StopTrigger) : RoundTrip.Statement (.teamStop core team by') := RoundTrip.of_event rfl rfl
theorem RoundTrip.debugCountWrap (core entry : Nat) : RoundTrip.Statement (.debugCountWrap core entry) := RoundTrip.of_event rfl rfl
theorem RoundTrip.migrationLineMove (e : Nat) : RoundTrip.Statement (.migrationLineMove e) := RoundTrip.of_event rfl rfl
theorem RoundTrip.vector0HoldoffExpiry : RoundTrip.Statement .vector0HoldoffExpiry := RoundTrip.of_event rfl rfl
theorem RoundTrip.runArbitration (core sched : Nat) : RoundTrip.Statement (.runArbitration core sched) := RoundTrip.of_event rfl rfl
theorem RoundTrip.resultWrite (g i : Nat) : RoundTrip.Statement (.resultWrite g i) := RoundTrip.of_event rfl rfl
theorem RoundTrip.trapEntry (g : Nat) (t : TrapInfo) : RoundTrip.Statement (.trapEntry g t) := RoundTrip.of_event rfl rfl
theorem RoundTrip.divergenceSpill (g : Nat) : RoundTrip.Statement (.divergenceSpill g) := RoundTrip.of_event rfl rfl
theorem RoundTrip.divergenceRefill (g : Nat) : RoundTrip.Statement (.divergenceRefill g) := RoundTrip.of_event rfl rfl
theorem RoundTrip.loadReply (i : Nat) : RoundTrip.Statement (.loadReply i) := RoundTrip.of_event rfl rfl
theorem RoundTrip.generationNotice (slice : Nat) : RoundTrip.Statement (.generationNotice slice) := RoundTrip.of_event rfl rfl
theorem RoundTrip.wakeCheck (core : Nat) : RoundTrip.Statement (.wakeCheck core) := RoundTrip.of_event rfl rfl
theorem RoundTrip.partialAccept (i : Nat) : RoundTrip.Statement (.partialAccept i) := RoundTrip.of_event rfl rfl
theorem RoundTrip.remoteAcknowledgement (i : Nat) : RoundTrip.Statement (.remoteAcknowledgement i) := RoundTrip.of_event rfl rfl
theorem RoundTrip.rangeLockRegistration (g : Nat) : RoundTrip.Statement (.rangeLockRegistration g) := RoundTrip.of_event rfl rfl
theorem RoundTrip.engineTransfer (i : Nat) : RoundTrip.Statement (.engineTransfer i) := RoundTrip.of_event rfl rfl
theorem RoundTrip.engineCompletion (i : Nat) : RoundTrip.Statement (.engineCompletion i) := RoundTrip.of_event rfl rfl
theorem RoundTrip.monitorNotice (i : Nat) : RoundTrip.Statement (.monitorNotice i) := RoundTrip.of_event rfl rfl
theorem RoundTrip.sealEraNotice (core : Nat) : RoundTrip.Statement (.sealEraNotice core) := RoundTrip.of_event rfl rfl
theorem RoundTrip.sealEraAcknowledgement (i : Nat) : RoundTrip.Statement (.sealEraAcknowledgement i) := RoundTrip.of_event rfl rfl
theorem RoundTrip.coveAppend (i : Nat) : RoundTrip.Statement (.coveAppend i) := RoundTrip.of_event rfl rfl
theorem RoundTrip.gatherCompletion (i : Nat) : RoundTrip.Statement (.gatherCompletion i) := RoundTrip.of_event rfl rfl
theorem RoundTrip.bucketClear (i : Nat) : RoundTrip.Statement (.bucketClear i) := RoundTrip.of_event rfl rfl
theorem RoundTrip.matrixOpStart (core : Nat) : RoundTrip.Statement (.matrixOpStart core) := RoundTrip.of_event rfl rfl
theorem RoundTrip.matrixOpFinish (core : Nat) : RoundTrip.Statement (.matrixOpFinish core) := RoundTrip.of_event rfl rfl
theorem RoundTrip.poolSpill (team : Nat) : RoundTrip.Statement (.poolSpill team) := RoundTrip.of_event rfl rfl
theorem RoundTrip.poolRefill (team : Nat) (site : BitVec 3) : RoundTrip.Statement (.poolRefill team site) := RoundTrip.of_event rfl rfl
theorem RoundTrip.stealRequest (i : Nat) : RoundTrip.Statement (.stealRequest i) := RoundTrip.of_event rfl rfl
theorem RoundTrip.stealShipment (i : Nat) : RoundTrip.Statement (.stealShipment i) := RoundTrip.of_event rfl rfl
theorem RoundTrip.stealEmpty (i : Nat) : RoundTrip.Statement (.stealEmpty i) := RoundTrip.of_event rfl rfl
theorem RoundTrip.pageWalk (i : Nat) : RoundTrip.Statement (.pageWalk i) := RoundTrip.of_event rfl rfl
theorem RoundTrip.tlbiAcknowledgement (i : Nat) : RoundTrip.Statement (.tlbiAcknowledgement i) := RoundTrip.of_event rfl rfl
theorem RoundTrip.completionEventWrite (team : Nat) : RoundTrip.Statement (.completionEventWrite team) := RoundTrip.of_event rfl rfl
theorem RoundTrip.compaction (core : Nat) : RoundTrip.Statement (.compaction core) := RoundTrip.of_event rfl rfl
theorem RoundTrip.contextSave (team : Nat) : RoundTrip.Statement (.contextSave team) := RoundTrip.of_event rfl rfl
theorem RoundTrip.abortEnd (team : Nat) : RoundTrip.Statement (.abortEnd team) := RoundTrip.of_event rfl rfl
theorem RoundTrip.deferredAnswer (hart : Nat) : RoundTrip.Statement (.deferredAnswer hart) := RoundTrip.of_event rfl rfl
theorem RoundTrip.fallbackPlacement : RoundTrip.Statement .fallbackPlacement := RoundTrip.of_event rfl rfl
theorem RoundTrip.quiescenceReached : RoundTrip.Statement .quiescenceReached := RoundTrip.of_event rfl rfl
theorem RoundTrip.machineCheck (r : McReport) : RoundTrip.Statement (.machineCheck r) := RoundTrip.of_event rfl rfl
theorem RoundTrip.tidemarkAdvance (g : Nat) : RoundTrip.Statement (.tidemarkAdvance g) := RoundTrip.of_event rfl rfl
theorem RoundTrip.homeLoad (g pa : Nat) : RoundTrip.Statement (.homeLoad g pa) := RoundTrip.of_event rfl rfl
theorem RoundTrip.homeWrite (g pa : Nat) (data : List Byte) : RoundTrip.Statement (.homeWrite g pa data) := RoundTrip.of_event rfl rfl
theorem RoundTrip.writeLeaseRecall (line : Nat) : RoundTrip.Statement (.writeLeaseRecall line) := RoundTrip.of_event rfl rfl
theorem RoundTrip.forwardedRead (g line : Nat) : RoundTrip.Statement (.forwardedRead g line) := RoundTrip.of_event rfl rfl
theorem RoundTrip.goneAnswer (line : Nat) : RoundTrip.Statement (.goneAnswer line) := RoundTrip.of_event rfl rfl
theorem RoundTrip.dirtyWriteback (core line : Nat) : RoundTrip.Statement (.dirtyWriteback core line) := RoundTrip.of_event rfl rfl
theorem RoundTrip.shelfEviction (line : Nat) : RoundTrip.Statement (.shelfEviction line) := RoundTrip.of_event rfl rfl
theorem RoundTrip.dramFill (line : Nat) : RoundTrip.Statement (.dramFill line) := RoundTrip.of_event rfl rfl
theorem RoundTrip.retentionSleep (core : Nat) : RoundTrip.Statement (.retentionSleep core) := RoundTrip.of_event rfl rfl
theorem RoundTrip.remoteTimeout (i : Nat) : RoundTrip.Statement (.remoteTimeout i) := RoundTrip.of_event rfl rfl
theorem RoundTrip.sealHomeOperation (r : SealReq) : RoundTrip.Statement (.sealHomeOperation r) := RoundTrip.of_event rfl rfl
theorem RoundTrip.fifoPop (hart : Nat) : RoundTrip.Statement (.fifoPop hart) := RoundTrip.of_event rfl rfl
theorem RoundTrip.fifoWatchdog : RoundTrip.Statement .fifoWatchdog := RoundTrip.of_event rfl rfl
theorem RoundTrip.place (hart : Nat) (a0 a1 a2 : DWord) : RoundTrip.Statement (.place hart a0 a1 a2) := RoundTrip.of_event rfl rfl
theorem RoundTrip.preempt (hart : Nat) (a0 a1 : DWord) : RoundTrip.Statement (.preempt hart a0 a1) := RoundTrip.of_event rfl rfl
theorem RoundTrip.resume (hart : Nat) (a0 a1 : DWord) : RoundTrip.Statement (.resume hart a0 a1) := RoundTrip.of_event rfl rfl
theorem RoundTrip.abort (hart : Nat) (a0 a1 : DWord) : RoundTrip.Statement (.abort hart a0 a1) := RoundTrip.of_event rfl rfl
theorem RoundTrip.query (hart : Nat) (a0 : DWord) : RoundTrip.Statement (.query hart a0) := RoundTrip.of_event rfl rfl
theorem RoundTrip.answer (hart : Nat) (a0 a1 : DWord) : RoundTrip.Statement (.answer hart a0 a1) := RoundTrip.of_event rfl rfl
theorem RoundTrip.invalidCommand (hart : Nat) (op : BitVec 4) : RoundTrip.Statement (.invalidCommand hart op) := RoundTrip.of_event rfl rfl
theorem RoundTrip.packetRead (q : Nat) : RoundTrip.Statement (.packetRead q) := RoundTrip.of_event rfl rfl
theorem RoundTrip.distRun : RoundTrip.Statement .distRun := RoundTrip.of_event rfl rfl
theorem RoundTrip.distQuiesce : RoundTrip.Statement .distQuiesce := RoundTrip.of_event rfl rfl
theorem RoundTrip.distLoad : RoundTrip.Statement .distLoad := RoundTrip.of_event rfl rfl
theorem RoundTrip.distHostreq (v : DWord) : RoundTrip.Statement (.distHostreq v) := RoundTrip.of_event rfl rfl
theorem RoundTrip.distLogrd (v : DWord) : RoundTrip.Statement (.distLogrd v) := RoundTrip.of_event rfl rfl
theorem RoundTrip.registerWrite (off : Nat) (wide : Bool) (v : DWord) : RoundTrip.Statement (.registerWrite off wide v) := RoundTrip.of_event rfl rfl
theorem RoundTrip.hostRead (off : HostBar) (len : Nat) : RoundTrip.Statement (.hostRead off len) := RoundTrip.of_event rfl rfl
theorem RoundTrip.hostWrite (off : HostBar) (data : List Byte) : RoundTrip.Statement (.hostWrite off data) := RoundTrip.of_event rfl rfl
theorem RoundTrip.hostAtomicop (off : HostBar) (wide : Bool) (op : HostAtomic) :
    RoundTrip.Statement (.hostAtomicop off wide op) := RoundTrip.of_event rfl rfl
theorem RoundTrip.pkgTlbinv (v : DWord) : RoundTrip.Statement (.pkgTlbinv v) := RoundTrip.of_event rfl rfl
theorem RoundTrip.warmReset : RoundTrip.Statement .warmReset := RoundTrip.of_event rfl rfl
theorem RoundTrip.coldReset : RoundTrip.Statement .coldReset := RoundTrip.of_event rfl rfl
theorem RoundTrip.clearFailedStarts : RoundTrip.Statement .clearFailedStarts := RoundTrip.of_event rfl rfl
theorem RoundTrip.firmwareCommit (accepted : Bool) : RoundTrip.Statement (.firmwareCommit accepted) := RoundTrip.of_event rfl rfl
theorem RoundTrip.start (r : StartResult) : RoundTrip.Statement (.start r) := RoundTrip.of_event rfl rfl
theorem RoundTrip.startWatchdog : RoundTrip.Statement .startWatchdog := RoundTrip.of_event rfl rfl
theorem RoundTrip.linkFlit (link : Nat) (crcOk : Bool) (dest : BitVec 12) (cls : BitVec 2) : RoundTrip.Statement (.linkFlit link crcOk dest cls) := RoundTrip.of_event rfl rfl
theorem RoundTrip.linkFailure (link : Nat) : RoundTrip.Statement (.linkFailure link) := RoundTrip.of_event rfl rfl
theorem RoundTrip.ringArbitration (arb : Nat) (heads : List Head) : RoundTrip.Statement (.ringArbitration arb heads) := RoundTrip.of_event rfl rfl
theorem RoundTrip.coreFence (core : Nat) : RoundTrip.Statement (.coreFence core) := RoundTrip.of_event rfl rfl
theorem RoundTrip.stopResume (core : Nat) : RoundTrip.Statement (.stopResume core) := RoundTrip.of_event rfl rfl
theorem RoundTrip.debugFlush (core : Nat) : RoundTrip.Statement (.debugFlush core) := RoundTrip.of_event rfl rfl
theorem RoundTrip.debugCharge : RoundTrip.Statement .debugCharge := RoundTrip.of_event rfl rfl
theorem RoundTrip.sample (core : Nat) : RoundTrip.Statement (.sample core) := RoundTrip.of_event rfl rfl
theorem RoundTrip.softErrorCorrected (core : Nat) : RoundTrip.Statement (.softErrorCorrected core) := RoundTrip.of_event rfl rfl
theorem RoundTrip.softErrorWindow (core : Nat) : RoundTrip.Statement (.softErrorWindow core) := RoundTrip.of_event rfl rfl
theorem RoundTrip.powerLimiting : RoundTrip.Statement .powerLimiting := RoundTrip.of_event rfl rfl
theorem RoundTrip.thermalTrip : RoundTrip.Statement .thermalTrip := RoundTrip.of_event rfl rfl
theorem RoundTrip.hartDeviceAccess (hart : Nat) (addr : DWord) (op : HartOp) : RoundTrip.Statement (.hartDeviceAccess hart addr op) := RoundTrip.of_event rfl rfl
theorem RoundTrip.limitingEnd : RoundTrip.Statement .limitingEnd := RoundTrip.of_event rfl rfl

end Sys2Proof.Laws
end

