-- ==== Sys2Proof/Laws/Regs.lean ====
section
/-!
SUPPORT. What register cells hold after the writes of an instruction (R17, R20, R325), and the instructions that only write
registers, at once or later (R87, R88).
-/
namespace Sys2Proof.Machine

/-! ## Lanes -/

@[simp] theorem mem_lanesOf (m : Word) (l : Nat) : l ∈ lanesOf m ↔ l < 32 ∧ m.getLsbD l = true := by
  simp [lanesOf, lanes]
theorem lanesOf_eq_nil (m : Word) : lanesOf m = [] ↔ m = 0 := by
  constructor
  · intro h
    apply BitVec.eq_of_getLsbD_eq
    intro i hi
    by_contra hc
    have : i ∈ lanesOf m := (mem_lanesOf m i).mpr ⟨hi, by simpa using hc⟩
    simp [h] at this
  · rintro rfl; simp [lanesOf]

/-! ## Cells -/

theorem Group.setS_sCell (g : Group) (n : Nat) (x : Word) (bank : Bool) (m : Nat) :
    (g.setS n x).sCell bank m = if m = n ∧ bank = g.sBank n then x else g.sCell bank m := by
  unfold Group.setS Group.sCell Group.sBank
  by_cases h : (g.hmode && decide (56 ≤ n)) = true
  · rw [if_pos h, h]; cases bank <;> simp [sget_sput]
  · rw [if_neg h, Bool.eq_false_iff.mpr h]; cases bank <;> simp [sget_sput]
@[simp] theorem Group.setS_hmode (g : Group) (n : Nat) (x : Word) : (g.setS n x).hmode = g.hmode := by
  unfold Group.setS; split <;> rfl
theorem Group.setS_range (f : Nat → Word) (n : Nat) (cnt : Nat) (g : Group) :
    (((List.range cnt).map fun k => (n + k, f k)).foldl (fun (x : Group) (e : Nat × Word) => x.setS e.1 e.2) g).hmode =
      g.hmode ∧
    ∀ bank m, (((List.range cnt).map fun k => (n + k, f k)).foldl (fun (x : Group) (e : Nat × Word) => x.setS e.1 e.2)
      g).sCell bank m = if n ≤ m ∧ m < n + cnt ∧ bank = g.sBank m then f (m - n) else g.sCell bank m := by
  induction cnt with
  | zero => refine ⟨rfl, fun bank m => ?_⟩; simp only [List.range_zero, List.map_nil, List.foldl_nil]; rw [if_neg]; omega
  | succ k ih =>
    rw [List.range_succ, List.map_append, List.foldl_append]
    refine ⟨by simp [ih.1], fun bank m => ?_⟩
    simp only [List.map_cons, List.map_nil, List.foldl_cons, List.foldl_nil, Group.setS_sCell, ih.2]
    have hb : ∀ x y : Group, x.hmode = y.hmode → x.sBank m = y.sBank m := fun x y h => by unfold Group.sBank; rw [h]
    by_cases hm : m = n + k
    · subst hm
      rw [hb _ g ih.1]
      by_cases hc : bank = g.sBank (n + k) <;> simp [hc]
    · rw [if_neg (by tauto)]
      have : (n ≤ m ∧ m < n + k ∧ bank = g.sBank m) ↔ (n ≤ m ∧ m < n + (k + 1) ∧ bank = g.sBank m) := by
        constructor <;> rintro ⟨a, b, c⟩ <;> exact ⟨a, by omega, c⟩
      simp only [this]

/-- The V, S and predicate cells of a group after some writes. -/
theorem Group.apply_v (g : Group) (w : Writes) : (g.apply w).v = sputs 0 g.v w.v := by
  unfold Group.apply
  obtain ⟨a, b, h⟩ := Group.setSs_eq w.s { g with v := sputs 0 g.v w.v }
  rw [h]; unfold Group.setPs; split <;> rfl
theorem Group.apply_sCell (g : Group) (w : Writes) (bank : Bool) (n : Nat) :
    (g.apply w).sCell bank n = (w.s.foldl (fun (x : Group) (e : Nat × Word) => x.setS e.1 e.2) g).sCell bank n := by
  unfold Group.apply
  have h : ∀ (l : List (Nat × Word)) (x : Group) (v : Store Word),
      (l.foldl (fun (x : Group) (e : Nat × Word) => x.setS e.1 e.2) { x with v := v }) =
        { l.foldl (fun (x : Group) (e : Nat × Word) => x.setS e.1 e.2) x with v := v } := by
    intro l
    induction l with
    | nil => intro x v; rfl
    | cons e r ih =>
      intro x v
      rw [List.foldl_cons, List.foldl_cons, ← ih]
      congr 1
      unfold Group.setS; split <;> rfl
  rw [h]
  unfold Group.setPs; split <;> rfl
theorem Group.apply_pCell (g : Group) (w : Writes) (bank : Bool) (k l : Nat) (hl : l < 32)
    (f : Nat → BitVec 2) (hw : ∀ e ∈ w.p, e.1 = 32 * k + l → e.2 = f (32 * k + l)) :
    (g.apply w).pCell bank k l =
      if 32 * k + l ∈ w.p.map Prod.fst ∧ bank = g.pBank k then f (32 * k + l) else g.pCell bank k l := by
  obtain ⟨a, b, h⟩ := Group.setSs_eq w.s { g with v := sputs 0 g.v w.v }
  unfold Group.apply
  rw [h]
  unfold Group.setPs Group.pCell Group.pBank
  have hmem : ∀ (q : Nat × BitVec 2 → Bool), (∀ x, q (32 * k + l, x) = true) →
      (32 * k + l ∈ (w.p.filter q).map Prod.fst ↔ 32 * k + l ∈ w.p.map Prod.fst) := by
    intro q hq
    simp only [List.mem_map, List.mem_filter]
    constructor
    · rintro ⟨e, ⟨he, -⟩, hk⟩; exact ⟨e, he, hk⟩
    · rintro ⟨e, he, hk⟩
      refine ⟨e, ⟨he, ?_⟩, hk⟩
      have := hq e.2
      rw [← hk] at this; exact this
  have hnot : ∀ (q : Nat × BitVec 2 → Bool), (∀ x, q (32 * k + l, x) = false) →
      ∀ e ∈ w.p.filter q, e.1 ≠ 32 * k + l := by
    intro q hq e he hk
    have h1 := (List.mem_filter.mp he).2
    have h2 := hq e.2
    rw [← hk] at h2
    have h3 : q e = false := h2
    rw [h3] at h1; cases h1
  cases hh : g.hmode with
  | false =>
    simp only [Bool.false_eq_true, if_false, Bool.false_and]
    cases bank with
    | true => simp
    | false => simp [sget_sputs_of _ _ _ _ f hw]
  | true =>
    simp only [if_true, Bool.true_and]
    by_cases hk : 6 ≤ k
    · have hk' : 192 ≤ 32 * k + l := by omega
      cases bank with
      | true =>
        rw [if_pos rfl, sget_sputs_of _ _ _ _ f (fun e he => hw e (List.mem_of_mem_filter he))]
        have := hmem (fun e => decide (192 ≤ e.1)) (by simpa using hk')
        simp only [this]; simp [hk]
      | false =>
        rw [if_neg (by simp), sget_sputs_ne _ _ _ _ (hnot _ (by simp; omega))]
        simp [hk]
    · have hk' : 32 * k + l < 192 := by omega
      cases bank with
      | true =>
        rw [if_pos rfl, sget_sputs_ne _ _ _ _ (hnot _ (by simp; omega))]
        simp [hk]
      | false =>
        rw [if_neg (by simp), sget_sputs_of _ _ _ _ f (fun e he => hw e (List.mem_of_mem_filter he))]
        have := hmem (fun e => decide (e.1 < 192)) (by simpa using hk')
        simp only [this]; simp [hk]

/-! ## A destination's writes -/

theorem mem_vCells (act : Word) (n cnt : Nat) (f : Nat → Nat → Word) (e : Nat × Word) :
    e ∈ vCells act n cnt f ↔ ∃ l k, l < 32 ∧ act.getLsbD l = true ∧ k < cnt ∧ e = (32 * (n + k) + l, f l k) := by
  simp only [vCells, List.mem_flatMap, mem_lanesOf, List.mem_map, List.mem_range]
  constructor
  · rintro ⟨l, ⟨h1, h2⟩, k, h3, rfl⟩; exact ⟨l, k, h1, h2, h3, rfl⟩
  · rintro ⟨l, k, h1, h2, h3, rfl⟩; exact ⟨l, ⟨h1, h2⟩, k, h3, rfl⟩
theorem sget_vCells (st : Store Word) (act : Word) (n cnt : Nat) (f : Nat → Nat → Word) (r l : Nat) (hl : l < 32) :
    sget 0 (sputs 0 st (vCells act n cnt f)) (32 * r + l) =
      if act.getLsbD l = true ∧ n ≤ r ∧ r < n + cnt then f l (r - n) else sget 0 st (32 * r + l) := by
  rw [sget_sputs_of 0 _ _ _ (fun k => f (k % 32) (k / 32 - n))]
  · have e1 : (32 * r + l) % 32 = l := by omega
    have e2 : (32 * r + l) / 32 = r := by omega
    rw [e1, e2]
    have : 32 * r + l ∈ (vCells act n cnt f).map Prod.fst ↔ (act.getLsbD l = true ∧ n ≤ r ∧ r < n + cnt) := by
      simp only [List.mem_map, mem_vCells]
      constructor
      · rintro ⟨e, ⟨l', k, h1, h2, h3, rfl⟩, h⟩
        have h : 32 * (n + k) + l' = 32 * r + l := h
        have : l' = l := by omega
        subst this
        exact ⟨h2, by omega, by omega⟩
      · rintro ⟨h1, h2, h3⟩
        exact ⟨_, ⟨l, r - n, hl, h1, by omega, rfl⟩, by show 32 * (n + (r - n)) + l = _; omega⟩
    simp only [this]
  · intro e he hk
    obtain ⟨l', k, h1, h2, h3, rfl⟩ := (mem_vCells _ _ _ _ _).mp he
    have hk : 32 * (n + k) + l' = 32 * r + l := hk
    show f l' k = f ((32 * r + l) % 32) ((32 * r + l) / 32 - n)
    rw [show (32 * r + l) % 32 = l' by omega, show (32 * r + l) / 32 - n = k by omega]

@[simp] theorem dstWrites_p (act : Word) (d : Dst) (cnt : Nat) (f : Nat → Nat → Word) : (dstWrites act d cnt f).p = [] := by
  unfold dstWrites
  cases d with
  | v n => rfl
  | s n => dsimp only; split <;> rfl
/-- A V or scalar destination once written. -/
theorem Group.apply_dst (g : Group) (act : Word) (d : Dst) (cnt : Nat) (f : Nat → Nat → Word) :
    (∀ r l, l < 32 → (g.apply (dstWrites act d cnt f)).getV r l = vAfter g act d cnt f r l) ∧
    (∀ bank n, (g.apply (dstWrites act d cnt f)).sCell bank n = sAfter g act d cnt f bank n) ∧
    (∀ bank k l, l < 32 → (g.apply (dstWrites act d cnt f)).pCell bank k l = g.pCell bank k l) := by
  refine ⟨fun r l hl => ?_, fun bank n => ?_, fun bank k l hl => ?_⟩
  · unfold Group.getV
    rw [Group.apply_v]
    cases d with
    | v n => exact sget_vCells g.v act n.toNat cnt f r l hl
    | s n => simp only [dstWrites, vAfter]; split <;> rfl
  · rw [Group.apply_sCell]
    cases d with
    | v m => rfl
    | s m =>
      simp only [dstWrites, sAfter, lowLane]
      by_cases ha : act = 0
      · rw [(lanesOf_eq_nil act).mpr ha]; simp [ha]
      · cases hl : lanesOf act with
        | nil => exact absurd ((lanesOf_eq_nil act).mp hl) ha
        | cons l r =>
          rw [(Group.setS_range (fun k => f l k) m.toNat cnt g).2 bank n]
          simp only [ne_eq, ha, not_false_eq_true, true_and, List.headD_cons]
  · rw [Group.apply_pCell g _ bank k l hl (fun _ => 0) (by simp)]; simp

theorem mem_pWrites (act : Word) (p : Nat) (f : Nat → BitVec 2) (e : Nat × BitVec 2) :
    e ∈ (pWrites act p f).p ↔ ∃ l, l < 32 ∧ act.getLsbD l = true ∧ e = (32 * p + l, f l) := by
  simp only [pWrites, List.mem_map, mem_lanesOf]
  constructor
  · rintro ⟨l, ⟨h1, h2⟩, rfl⟩; exact ⟨l, h1, h2, rfl⟩
  · rintro ⟨l, h1, h2, rfl⟩; exact ⟨l, ⟨h1, h2⟩, rfl⟩
/-- A predicate once written. -/
theorem Group.apply_pred (g : Group) (act : Word) (p : BitVec 3) (f : Nat → BitVec 2) :
    (∀ r l, l < 32 → (g.apply (pWrites act p.toNat f)).getV r l = g.getV r l) ∧
    (∀ bank n, (g.apply (pWrites act p.toNat f)).sCell bank n = g.sCell bank n) ∧
    (∀ bank k l, l < 32 → (g.apply (pWrites act p.toNat f)).pCell bank k l = pAfter g act p.toNat f bank k l) := by
  refine ⟨fun r l hl => ?_, fun bank n => ?_, fun bank k l hl => ?_⟩
  · unfold Group.getV; rw [Group.apply_v]; rfl
  · rw [Group.apply_sCell]; rfl
  · rw [Group.apply_pCell g _ bank k l hl (fun k => f (k % 32))]
    · unfold pAfter
      have : 32 * k + l ∈ (pWrites act p.toNat f).p.map Prod.fst ↔ (act.getLsbD l = true ∧ k = p.toNat) := by
        simp only [List.mem_map, mem_pWrites]
        constructor
        · rintro ⟨e, ⟨l', h1, h2, rfl⟩, h⟩
          have h : 32 * p.toNat + l' = 32 * k + l := h
          have : l' = l := by omega
          subst this
          exact ⟨h2, by omega⟩
        · rintro ⟨h1, h2⟩
          exact ⟨_, ⟨l, hl, h1, rfl⟩, by show 32 * p.toNat + l = _; omega⟩
      simp only [this, and_assoc, show (32 * k + l) % 32 = l by omega]
    · intro e he hk
      obtain ⟨l', h1, h2, rfl⟩ := (mem_pWrites _ _ _ _).mp he
      have hk : 32 * p.toNat + l' = 32 * k + l := hk
      show f l' = _
      rw [show (32 * k + l) % 32 = l' by omega]

/-! ## Instructions that only write registers -/

variable {s : State}

theorem getV_of_regs {a b : Group} (h : a.regs = b.regs) (r l : Nat) : a.getV r l = b.getV r l := by
  unfold Group.getV; rw [show a.v = b.v from congrArg (·.1) h]
theorem sCell_of_regs {a b : Group} (h : a.regs = b.regs) (bank : Bool) (n : Nat) : a.sCell bank n = b.sCell bank n := by
  unfold Group.sCell; rw [show a.s = b.s from congrArg (·.2.1) h, show a.hs = b.hs from congrArg (·.2.2.2.1) h]
theorem pCell_of_regs {a b : Group} (h : a.regs = b.regs) (bank : Bool) (k l : Nat) : a.pCell bank k l = b.pCell bank k l := by
  unfold Group.pCell; rw [show a.p = b.p from congrArg (·.2.2.1) h, show a.hp = b.hp from congrArg (·.2.2.2.2) h]

/-- The state after an effect that only writes registers. -/
theorem issue_pure {i : Gate} {c : Ctx} {ws : List Word} (h : Starts i s c ws) (f : Ctx → Word → List Word → Writes) :
    issue i (pureRes f) s =
      .next (State.finish c.gid c.g i (c.g.active i.hd.g) { s := s, w := f c (c.g.active i.hd.g) ws }) :=
  issue_ok h rfl

/-- An instruction whose effect is to write a destination. -/
theorem wrote_of_dst {i : Gate} {c : Ctx} {ws : List Word} (h : Starts i s c ws) (hl : i.long = none) (d : Dst) (cnt : Nat)
    (f : Nat → Nat → Word) {body : Body}
    (hb : body s c (c.g.active i.hd.g) ws = .ok { s := s, w := dstWrites (c.g.active i.hd.g) d cnt f }) :
    ∃ t, issue i body s = .next t ∧ Wrote s t c (c.g.active i.hd.g) d cnt f := by
  refine ⟨_, issue_ok h hb, ?_⟩
  obtain ⟨h1, g, h2, h3, h4, -, h6, -⟩ := State.finish_spec (old := c.g) (i := i) (act := c.g.active i.hd.g)
    (p := { s := s, w := dstWrites (c.g.active i.hd.g) d cnt f }) h.group h.2.2.1 h.tiles
  rw [hl] at h6
  obtain ⟨a1, a2, a3⟩ := Group.apply_dst c.g (c.g.active i.hd.g) d cnt f
  exact ⟨h1, g, h2, h3, h4, fun r l hr => (getV_of_regs h6 r l).trans (a1 r l hr),
    fun bank n => (sCell_of_regs h6 bank n).trans (a2 bank n),
    fun bank k l hr => (pCell_of_regs h6 bank k l).trans (a3 bank k l hr)⟩
/-- An instruction whose effect is to write a predicate. -/
theorem wrote_of_pred {i : Gate} {c : Ctx} {ws : List Word} (h : Starts i s c ws) (hl : i.long = none) (p : BitVec 3)
    (f : Nat → BitVec 2) {body : Body}
    (hb : body s c (c.g.active i.hd.g) ws = .ok { s := s, w := pWrites (c.g.active i.hd.g) p.toNat f }) :
    ∃ t, issue i body s = .next t ∧ WroteP s t c (c.g.active i.hd.g) p f := by
  refine ⟨_, issue_ok h hb, ?_⟩
  obtain ⟨h1, g, h2, h3, h4, -, h6, -⟩ := State.finish_spec (old := c.g) (i := i) (act := c.g.active i.hd.g)
    (p := { s := s, w := pWrites (c.g.active i.hd.g) p.toNat f }) h.group h.2.2.1 h.tiles
  rw [hl] at h6
  obtain ⟨a1, a2, a3⟩ := Group.apply_pred c.g (c.g.active i.hd.g) p f
  exact ⟨h1, g, h2, h3, h4, fun r l hr => (getV_of_regs h6 r l).trans (a1 r l hr),
    fun bank n => (sCell_of_regs h6 bank n).trans (a2 bank n),
    fun bank k l hr => (pCell_of_regs h6 bank k l).trans (a3 bank k l hr)⟩
/-- A long-latency instruction that has issued, with the state its effect leaves. -/
theorem pends_of_ok {i : Gate} {c : Ctx} {ws : List Word} (h : Starts i s c ws) {la : BitVec 4} (hl : i.long = some la)
    {w : Writes} {body : Body} {n id : Nat} {e r : Bool}
    (hb : body s c (c.g.active i.hd.g) ws = .ok { s := s, w := w, outstanding := n, pend := id, engine := e, remote := r }) :
    ∃ t, issue i body s = .next t ∧ Pends s t c i (c.g.active i.hd.g) la w n := by
  refine ⟨_, issue_ok h hb, ?_⟩
  obtain ⟨h1, g, h2, h3, h4, -, h6, h7⟩ := State.finish_spec (old := c.g) (i := i) (act := c.g.active i.hd.g)
    (p := { s := s, w := w, outstanding := n, pend := id, engine := e, remote := r }) h.group h.2.2.1 h.tiles
  rw [hl] at h6
  refine ⟨h1, g, h2, h3, h4, congrArg (·.1) h6, congrArg (·.2.1) h6, congrArg (·.2.2.1) h6, congrArg (·.2.2.2.1) h6,
    congrArg (·.2.2.2.2) h6, fun ha => ?_⟩
  rw [h7]
  have hq : ∀ q : Perf, (c.g.after c.g i (c.g.active i.hd.g) q).pends.getLast? = some (newPend i q la c.g.hmode) := by
    intro q
    unfold Group.after Group.deposit
    simp only [hl, ha, if_false]
    cases i.hold <;> simp
  refine ⟨_, hq _, rfl, rfl, ?_, rfl, ?_, rfl⟩ <;> unfold Perf.numbered <;> split <;> rfl

end Sys2Proof.Machine
end

