-- ==== Sys2Proof/Laws/Words.lean ====
section
/-!
SUPPORT. Every instruction word is issued with what it declares, and what follows from that for the checks of R102.
-/
namespace Sys2Proof.Machine

variable {s : State} {c : Ctx} {i : Instr} {g : Gate}

/-- An instruction word is issued with its declaration; its effect alone is its own. -/
theorem exec_declares (hd : declares s c i = some g) (hr : s.runs.head? = some c.gid) (hc : s.ctx? c.gid = some c) :
    ∃ b : Body, exec i s = issue g b s := by
  cases i
  case split h d st => cases hd; exact ⟨splitBody d st, by simp only [exec, execSplit, issueBy, hr, hc]⟩
  case spawn h d a st => cases hd; exact ⟨spawnBody d a st, by simp only [exec, execSpawn, issueBy, hr, hc]⟩
  case take h d st => cases hd; exact ⟨takeBody d st, by simp only [exec, execTake, issueBy, hr, hc]⟩
  case exit h => cases hd; exact ⟨exitBody, by simp only [exec, execExit, issueBy, hr, hc]⟩
  all_goals first
    | (have h0 : none = some g := hd; cases h0)
    | (cases hd; simp only [
      exec, execBra, execBrp, execBrx, execCall, execRet, execDiv, execJoin, execLoop, execYield,
      execTrap, execBrk, execPand, execPor, execPxor, execPnot, execPknown, execPresolve, execPset, execPmovv,
      execPmovp, execPany, execPall, execPcount, execPmask, execIadd, execIsub, execIaddc, execIsubb, execIneg,
      execIabs, execImin, execImax, execIminu, execImaxu, execAnd, execOr, execXor, execAndn, execNot, execSel,
      execImul, execImulhi, execImulhiu, execImad, execImulw, execLea, execIadd64, execIsub64, execIaddi, execAndi,
      execOri, execXori, execMovi, execMovhi, execImini, execImaxi, execShl, execShr, execSar, execRot, execShf,
      execBfx, execBfxu, execBfi, execPopc, execClz, execBrev, execMov, execMovQueuePush, execMovQueuePop,
      execMov64, execMovs, execBcast, execRdlane, execWrlane, execShfl, execNmov, execMovm, execRdsp, execIcmp,
      execIcmpu, execIcmp64, execScan, execGred, execCompact, execIsect, execMpath, execFadd, execFsub, execFmul,
      execFdiv, execFdivx, execFfma, execFsqr, execFsqrt, execFmin, execFmax, execFabs, execFneg, execFpown,
      execFexp2, execFlog2, execFhull, execFisect, execFmid, execFrad, execFwid, execFmag, execFmig, execFinf,
      execFsup, execFmake, execFpoint, execFcmp, execFsubset, execFinterior, execFdisj, execFcontains, execFclass,
      execFwiden, execFnarrow, execFcvti, execIcvtf, execFcvtbf, execFpack, execFunpack, execFtomrad, execFfrommrad,
      execFtrunc, execTend, execPoolq, execLd, execSt, execLds, execSts, execLdk, execLdmrad, execStmrad, execStp,
      execPref, execAtom, execAtomcas, execFatom, execRed, execFred, execXcopy, execXfill, execXwait, execXtest,
      execXclear, execBar, execBarc, execBara, execBarw, execQmap, execQtry, execWaitv, execMma, execMmax, execZclr,
      execZld, execZst, execZget, execZput, execScld, execSeal, execPeek, execReopen, execCinit, execKtable,
      execKstore, execKsign, execKgather, execKclear, execDqnext, execDqdone, execDevent, execDwait, execTret,
      execMfsr, execMtsr, execTlbf, execTlbi, execProbe, execHalt, execPairWord, alu1, alu2, alu3, aluI, alu64,
      pred1, pred2, predAll, cmp32, toPoint, relation
      ]; exact ⟨_, rfl⟩)

/-- An effect that performs. -/
theorem performs_of (hd : declares s c i = some g) {ws : List Word} (h : Starts g s c ws) {b : Body} {p : Perf}
    (he : exec i s = issue g b s) (hb : b s c (c.g.active g.hd.g) ws = .ok p) : Performs i s c p :=
  ⟨g, hd, by rw [he, issue_ok h hb]⟩

end Sys2Proof.Machine
end

