-- ==== Sys2Proof/Tests/Slice0.lean ====
section
/-!
SUPPORT. Tests: ill-formed terms, words written from the spec's field layout and tables, single steps whose results the spec
works out, and for each statement states that meet its hypotheses.
-/
namespace Sys2Proof.Tests
open Sys2Proof Sys2Proof.Machine

-- One theorem at a time: the kernel evaluations below would each take a thread of their own.
set_option Elab.async false

def hd : Hd := ⟨false, .always⟩

/-! ## WellFormed: each check refuses a term that breaks it, and takes its neighbour that does not -/

theorem test_wf_hold_field : (Instr.ineg ⟨hd, .b, .v 4, .v 8⟩).wf = false ∧ (Instr.ineg ⟨hd, .a, .v 4, .v 8⟩).wf = true := by
  decide +kernel
theorem test_wf_hold_64_bit : (Instr.iadd64 ⟨hd, .a, .v 4, .v 8, .reg (.v 6)⟩).wf = false := by decide +kernel
theorem test_wf_hold_window : (Instr.iadd ⟨hd, .b, .v 4, .v 8, .win 0 0⟩).wf = false := by decide +kernel
theorem test_wf_source_code : (Instr.mov ⟨hd, .none, .v 4, .reserved 5⟩).wf = false ∧
    (Instr.mov ⟨hd, .none, .v 4, .reserved 0x46⟩).wf = true := by decide +kernel
theorem test_wf_uniform_destination : (Instr.ineg ⟨hd, .none, .v 128, .s 8⟩).wf = false ∧
    (Instr.ineg ⟨hd, .none, .v 128, .v 8⟩).wf = true := by decide +kernel
theorem test_wf_lane_destination : (Instr.ineg ⟨hd, .none, .s 4, .v 8⟩).wf = false := by decide +kernel
theorem test_wf_interval_destination : (Instr.fadd ⟨hd, .s, .v 5, .v 8, .reg (.v 10)⟩).wf = false := by decide +kernel
theorem test_wf_vs_destination : (Instr.pcount ⟨hd, .v 128, 2, .t⟩).wf = false := by decide +kernel
theorem test_wf_mmax_format : (Instr.mmax ⟨hd, 0, 3, .v 0, .v 32, 0, .b128, .bfp 2⟩).wf = false := by decide +kernel
theorem test_wf_read_only_register : (Instr.mtsr hd .taddr (.s 8)).wf = false := by decide +kernel
theorem test_wf_pair_destinations :
    (Instr.pairWord false ⟨.mov, 0, .v 1, .always⟩ ⟨.mov, 0, .v 2, .always⟩).wf = false := by decide +kernel
/-- R99's table: `iadd v0, v4 || iadd v2, v3` reads two registers of bank 0. -/
theorem test_wf_pair_banks : (Instr.pairWord false ⟨.iadd, 0, .v 4, .always⟩ ⟨.iadd, 2, .v 3, .always⟩).wf = false ∧
    (Instr.pairWord false ⟨.iadd, 0, .v 1, .always⟩ ⟨.iadd, 2, .v 3, .always⟩).wf = true := by decide +kernel
theorem test_wf_event : (Instr.softErrorWindow 0).wf = false := by decide +kernel

/-! ## Decode: refusals, each by its name (R76, R78, R79, R82, R83, R87, R94, R100) -/

def refuses (e : DWord × DecodeError) : Bool := decide (decode e.1 = .error e.2)
theorem test_decode_refusals : ([(0x1600000000000000, .unassignedMajor), (0x0260000000000000, .unassignedMinor),
    (0x0500000100800300, .unassignedModifier), (0x06000000004C1C02, .badDestination), (0x02000030301C0800, .badDestination),
    (0x0200400100802400, .badLookahead), (0x0210000100801400, .unusedField), (0x0210200100800000, .badHold),
    (0x0200060100802400, .badGuard), (0x0300004100800000, .badWindow), (0x11000000C0008031, .unassignedModifier),
    (0x4000000000000001, .badPairHalf), (0x4000808000010180, .badPairWord)] : List (DWord × DecodeError)).all refuses =
    true := by decide +kernel

/-! ## Decode: words written from the spec's field layout and its tables -/

def reads (e : DWord × Instr) : Bool := decide (decode e.1 = .ok e.2)

def controlWords : List (DWord × Instr) := [
  (0x8000000000000005, .bra true 5),
  (0x00040600003FFFFE, .brp false 3 7 (-2)),
  (0x0008000030600000, .brx false (.s 6)),
  (0x000C003FFFFFFFFE, .call false (-2)),
  (0x0010000000000000, .ret false),
  (0x0014000000000009, .div false 9),
  (0x8018000000000000, .join true),
  (0x001C0000304FFFFD, .loop false (.s 4) (-3)),
  (0x0020048000000000, .exit ⟨false, .on 2 .t⟩),
  (0x0024030000000000, .yield ⟨false, .on 1 .f⟩),
  (0x0028000000012345, .trap hd 0x12345),
  (0x002C000000000007, .brk hd 7)]
theorem test_decode_control : (controlWords).all reads = true := by decide +kernel

def predicateWords : List (DWord × Instr) := [
  (0x010009B040200C00, .pand ⟨⟨false, .on 4 .u⟩, 1, 2, 3⟩),
  (0x010409B040200C00, .por ⟨⟨false, .on 4 .u⟩, 1, 2, 3⟩),
  (0x010809B040200C00, .pxor ⟨⟨false, .on 4 .u⟩, 1, 2, 3⟩),
  (0x010C003040200000, .pnot ⟨hd, 1, 2⟩),
  (0x0110003040200000, .pknown ⟨hd, 1, 2⟩),
  (0x0114003040200400, .presolve ⟨hd, 1, 2⟩ true),
  (0x0118003100200000, .pset hd 4 .u),
  (0x011C000240500000, .pmovv hd 9 5),
  (0x0120103040800000, .pmovp hd .a 1 (.v 8)),
  (0x0124003180200000, .pany ⟨hd, 6, 2⟩),
  (0x0128003180200000, .pall ⟨hd, 6, 2⟩),
  (0x012C002140200400, .pcount ⟨hd, .s 5, 2, .t⟩),
  (0x0130000140200800, .pmask ⟨hd, .v 5, 2, .u⟩)]
theorem test_decode_predicate : (predicateWords).all reads = true := by decide +kernel

def integerWords : List (DWord × Instr) := [
  (0x02002681008C1400, .iadd ⟨⟨false, .on 3 .t⟩, .b, .v 4, .v 8, .reg (.s 5)⟩),
  (0x02042681008C1400, .isub ⟨⟨false, .on 3 .t⟩, .b, .v 4, .v 8, .reg (.s 5)⟩),
  (0x02083001008C1C0A, .iaddc ⟨hd, .c, .v 4, .v 8, .s 7, .v 10⟩),
  (0x020C3001008C1C0A, .isubb ⟨hd, .c, .v 4, .v 8, .s 7, .v 10⟩),
  (0x0210002130800000, .ineg ⟨hd, .none, .s 4, .s 8⟩),
  (0x0214002130800000, .iabs ⟨hd, .none, .s 4, .s 8⟩),
  (0x0218000110881C00, .imin ⟨hd, .none, .v 4, .left 8, .reg (.right 7)⟩),
  (0x021C000110881C00, .imax ⟨hd, .none, .v 4, .left 8, .reg (.right 7)⟩),
  (0x02202681008C1400, .iminu ⟨⟨false, .on 3 .t⟩, .b, .v 4, .v 8, .reg (.s 5)⟩),
  (0x02242681008C1400, .imaxu ⟨⟨false, .on 3 .t⟩, .b, .v 4, .v 8, .reg (.s 5)⟩),
  (0x02282681008C1400, .and ⟨⟨false, .on 3 .t⟩, .b, .v 4, .v 8, .reg (.s 5)⟩),
  (0x022C2681008C1400, .or ⟨⟨false, .on 3 .t⟩, .b, .v 4, .v 8, .reg (.s 5)⟩),
  (0x02302681008C1400, .xor ⟨⟨false, .on 3 .t⟩, .b, .v 4, .v 8, .reg (.s 5)⟩),
  (0x02342681008C1400, .andn ⟨⟨false, .on 3 .t⟩, .b, .v 4, .v 8, .reg (.s 5)⟩),
  (0x0238002130800000, .not ⟨hd, .none, .s 4, .s 8⟩),
  (0x023C3001008C1C0A, .sel ⟨hd, .c, .v 4, .v 8, .s 7, .v 10⟩),
  (0x02402681008C1400, .imul ⟨⟨false, .on 3 .t⟩, .b, .v 4, .v 8, .reg (.s 5)⟩),
  (0x02442681008C1400, .imulhi ⟨⟨false, .on 3 .t⟩, .b, .v 4, .v 8, .reg (.s 5)⟩),
  (0x02482681008C1400, .imulhiu ⟨⟨false, .on 3 .t⟩, .b, .v 4, .v 8, .reg (.s 5)⟩),
  (0x024C3001008C1C0A, .imad ⟨hd, .c, .v 4, .v 8, .s 7, .v 10⟩),
  (0x0250000100802400, .imulw ⟨hd, .none, .v 4, .v 8, .reg (.v 9)⟩),
  (0x0254200100801C03, .lea ⟨hd, .b, .v 4, .v 8, .v 7, 3⟩),
  (0x02580001008C1800, .iadd64 ⟨hd, .none, .v 4, .v 8, .reg (.s 6)⟩),
  (0x025C0001008C1800, .isub64 ⟨hd, .none, .v 4, .v 8, .reg (.s 6)⟩)]
theorem test_decode_integer : (integerWords).all reads = true := by decide +kernel

def immediateWords : List (DWord × Instr) := [
  (0x0300000100912345, .iaddi ⟨hd, .none, .v 4, .v 9, 0x12345⟩),
  (0x0304000100912345, .andi ⟨hd, .none, .v 4, .v 9, 0x12345⟩),
  (0x0308000100912345, .ori ⟨hd, .none, .v 4, .v 9, 0x12345⟩),
  (0x030C000100912345, .xori ⟨hd, .none, .v 4, .v 9, 0x12345⟩),
  (0x0310002280000003, .movi hd (.s 10) 3),
  (0x0314000100912345, .movhi ⟨hd, .none, .v 4, .v 9, 0x12345⟩),
  (0x0318000100912345, .imini ⟨hd, .none, .v 4, .v 9, 0x12345⟩),
  (0x031C000100912345, .imaxi ⟨hd, .none, .v 4, .v 9, 0x12345⟩)]
theorem test_decode_immediate : (immediateWords).all reads = true := by decide +kernel

def bitsWords : List (DWord × Instr) := [
  (0x04000001008D0C00, .shl ⟨hd, .none, .v 4, .v 8, .reg .zero⟩),
  (0x04040001008D0C00, .shr ⟨hd, .none, .v 4, .v 8, .reg .zero⟩),
  (0x04080001008D0C00, .sar ⟨hd, .none, .v 4, .v 8, .reg .zero⟩),
  (0x040C0001008D0C00, .rot ⟨hd, .none, .v 4, .v 8, .reg .zero⟩),
  (0x041000010080270A, .shf ⟨hd, .none, .v 4, .v 8, .v 9, .s 10⟩),
  (0x041400010080270A, .bfx ⟨hd, .none, .v 4, .v 8, .v 9, .s 10⟩),
  (0x041800010080270A, .bfxu ⟨hd, .none, .v 4, .v 8, .v 9, .s 10⟩),
  (0x041C00010080270A, .bfi ⟨hd, .none, .v 4, .v 8, .v 9, .s 10⟩),
  (0x0420100134400000, .popc ⟨hd, .a, .v 4, .lane⟩),
  (0x0424100134400000, .clz ⟨hd, .a, .v 4, .lane⟩),
  (0x0428100134400000, .brev ⟨hd, .a, .v 4, .lane⟩)]
theorem test_decode_bits : (bitsWords).all reads = true := by decide +kernel

def moveWords : List (DWord × Instr) := [
  (0x05000020F4500000, .mov ⟨hd, .none, .s 3, .mask⟩),
  (0x0500000000800106, .movQueuePush hd 6 (.v 8)),
  (0x0500002240000206, .movQueuePop hd (.s 9) 6),
  (0x0504000100800000, .mov64 ⟨hd, .none, .v 4, .v 8⟩),
  (0x05080021C0800000, .movs hd .none 7 (.v 8)),
  (0x050C0001008C0800, .bcast ⟨hd, .none, 4, .v 8, .reg (.s 2)⟩),
  (0x0510C021C08C0800, .rdlane hd 3 .none 7 (.v 8) (.reg (.s 2))),
  (0x05140001308C0800, .wrlane ⟨hd, .none, 4, .s 8, .reg (.s 2)⟩),
  (0x0518400100802402, .shfl hd 1 .none 4 (.v 8) (.v 9) .down),
  (0x051C0001008C0800, .nmov ⟨hd, .none, 4, .v 8, .reg (.s 2)⟩),
  (0x0520000030200000, .movm hd .none (.s 2)),
  (0x0524002100E00000, .rdsp hd (.s 4) .cycle)]
theorem test_decode_move : (moveWords).all reads = true := by decide +kernel

def compareWords : List (DWord × Instr) := [
  (0x06000030804C1C02, .icmp ⟨hd, .none, 2, .v 4, .s 7, .lt⟩),
  (0x06041030804C1C05, .icmpu ⟨hd, .a, 2, .v 4, .s 7, .ge⟩),
  (0x06080030804C180B, .icmp64 ⟨hd, .none, 2, .v 4, .s 6, .le⟩ true)]
theorem test_decode_compare : (compareWords).all reads = true := by decide +kernel

def laneWords : List (DWord × Instr) := [
  (0x0700000100804C00, .scan hd .none 4 (.v 8) .minu true),
  (0x0704002100802400, .gred hd .none (.s 4) (.v 8) (.fadd .d)),
  (0x0708000280400400, .compact hd .none 10 (.v 4) 1),
  (0x070C000100802400, .isect hd .none 4 (.v 8) (.v 9)),
  (0x07100001C0501343, .mpath hd .none 7 (.v 5) (.v 4) .zero)]
theorem test_decode_lane : (laneWords).all reads = true := by decide +kernel

def intervalWords : List (DWord × Instr) := [
  (0x08000006008C1800, .fadd ⟨hd, .s, .v 24, .v 8, .reg (.s 6)⟩),
  (0x08040006008C1800, .fsub ⟨hd, .s, .v 24, .v 8, .reg (.s 6)⟩),
  (0x08080006008C1800, .fmul ⟨hd, .s, .v 24, .v 8, .reg (.s 6)⟩),
  (0x080C400640803000, .fdiv 1 ⟨hd, .d, .v 24, .v 8, .reg (.v 12)⟩),
  (0x0810800600802805, .fdivx 2 ⟨hd, .s, .v 24, 5, .v 8, .v 10⟩),
  (0x0814000640803010, .ffma ⟨hd, .d, .v 24, .v 8, .v 12, .v 16⟩),
  (0x0818000640800000, .fsqr ⟨hd, .d, .v 24, .v 8⟩),
  (0x081D002130600000, .fsqrt 4 ⟨hd, .s, .s 4, .s 6⟩),
  (0x08200006008C1800, .fmin ⟨hd, .s, .v 24, .v 8, .reg (.s 6)⟩),
  (0x08240006008C1800, .fmax ⟨hd, .s, .v 24, .v 8, .reg (.s 6)⟩),
  (0x0828000640800000, .fabs ⟨hd, .d, .v 24, .v 8⟩),
  (0x082C000640800000, .fneg ⟨hd, .d, .v 24, .v 8⟩),
  (0x08300006008003FD, .fpown ⟨hd, .s, .v 24, .v 8⟩ (-3)),
  (0x0835002130600000, .fexp2 4 ⟨hd, .s, .s 4, .s 6⟩),
  (0x0839002130600000, .flog2 4 ⟨hd, .s, .s 4, .s 6⟩)]
theorem test_decode_interval : (intervalWords).all reads = true := by decide +kernel

def setWords : List (DWord × Instr) := [
  (0x0900000640803000, .fhull ⟨hd, .d, .v 24, .v 8, .reg (.v 12)⟩),
  (0x0904000640803000, .fisect ⟨hd, .d, .v 24, .v 8, .reg (.v 12)⟩),
  (0x0908000600800000, .fmid ⟨hd, .s, .v 24, .v 8⟩),
  (0x090C000600800000, .frad ⟨hd, .s, .v 24, .v 8⟩),
  (0x0910000600800000, .fwid ⟨hd, .s, .v 24, .v 8⟩),
  (0x0914000600800000, .fmag ⟨hd, .s, .v 24, .v 8⟩),
  (0x0918000600800000, .fmig ⟨hd, .s, .v 24, .v 8⟩),
  (0x091C000600800000, .finf ⟨hd, .s, .v 24, .v 8⟩),
  (0x0920000600800000, .fsup ⟨hd, .s, .v 24, .v 8⟩),
  (0x0924000600802400, .fmake ⟨hd, .none, .s, .v 24, .v 8, .reg (.v 9)⟩),
  (0x0928000600800000, .fpoint ⟨hd, .none, .s, .v 24, .v 8⟩)]
theorem test_decode_set : (setWords).all reads = true := by decide +kernel

def relationWords : List (DWord × Instr) := [
  (0x0A00003040401802, .fcmp hd 1 (.v 4) (.v 6) .lt .s),
  (0x0A04003040402001, .fsubset ⟨hd, .none, 1, .v 4, .v 8, .d⟩),
  (0x0A08003040402001, .finterior ⟨hd, .none, 1, .v 4, .v 8, .d⟩),
  (0x0A0C003040402001, .fdisj ⟨hd, .none, 1, .v 4, .v 8, .d⟩),
  (0x0A10203040401C00, .fcontains ⟨hd, .b, 1, .v 4, .v 7, .s⟩),
  (0x0A14000240400001, .fclass hd (.v 9) (.v 4) .d)]
theorem test_decode_relation : (relationWords).all reads = true := by decide +kernel

def conversionWords : List (DWord × Instr) := [
  (0x0B00000600800000, .fwiden hd (.v 24) (.v 8)),
  (0x0B04000600800000, .fnarrow hd (.v 24) (.v 8)),
  (0x0B08000240800012, .fcvti hd (.v 9) (.v 8) .rn .d),
  (0x0B0C000600900003, .icvtf hd .none (.v 24) (.v 9) true .d),
  (0x0B10000240802801, .fcvtbf hd (.v 9) (.v 8) (.v 10) .hi),
  (0x0B14000240800004, .fpack hd .none 9 (.v 8) 2),
  (0x0B18000280802408, .funpack hd .none 10 (.v 8) (.v 9) 6),
  (0x0B1C000280800001, .ftomrad hd (.v 10) (.v 8) .d),
  (0x0B20000280900000, .ffrommrad hd .none (.v 10) (.v 9) .s),
  (0x0B24000240800001, .ftrunc hd .none (.v 9) (.v 8) true)]
theorem test_decode_conversion : (conversionWords).all reads = true := by decide +kernel

def forkWords : List (DWord × Instr) := [
  (0x0C00003080000001, .split hd 2 1),
  (0x0C04003080800003, .spawn hd 2 (.v 8) 3),
  (0x0C08003080000005, .take hd 2 5),
  (0x0C0C000000000000, .tend hd),
  (0x0C10002100000013, .poolq hd (.s 4) (.spillSite 3))]
theorem test_decode_fork : (forkWords).all reads = true := by decide +kernel

def memoryWords : List (DWord × Instr) := [
  (0x0D00C00100A01824, .ld ⟨hd, 3, .none, .v 4, .v 10, .v 6, .w, 2⟩),
  (0x0D04000000A013F4, .st ⟨hd, .none, .v 10, .v 4, .w, -1⟩),
  (0x0D082001009D0C06, .lds ⟨hd, 0, .b, .v 4, .v 9, .zero, .q, 0⟩),
  (0x0D0C000000901015, .sts ⟨hd, .none, .v 9, .v 4, .x, 1⟩),
  (0x0D100021308D0C01, .ldk ⟨hd, 0, .none, .s 4, .s 8, .zero, .s8, 0⟩),
  (0x0D14000100801C31, .ldmrad ⟨hd, 0, .none, .v 4, .v 8, .v 7, .d, 3⟩),
  (0x0D18000000801030, .stmrad ⟨hd, .v 8, .v 4, .s, 3⟩),
  (0x0D1C000000A0200E, .stp ⟨hd, .v 10, .v 8, .mid, .bf, 0⟩),
  (0x0D20000000A01811, .pref ⟨hd, .none, .v 10, .v 6, true, 1⟩)]
theorem test_decode_memory : (memoryWords).all reads = true := by decide +kernel

def atomicWords : List (DWord × Instr) := [
  (0x0E00600100801C0A, .atom ⟨hd, 1, .b, .v 4, .v 8, .v 7, .decw, false⟩),
  (0x0E04000100803001, .atomcas ⟨hd, 0, .v 4, .v 8, .v 12, true⟩),
  (0x0E08000100803013, .fatom ⟨hd, 0, .v 4, .v 8, .v 12, .hull, .d⟩),
  (0x0E0C000000801C04, .red ⟨hd, .none, .v 8, .v 7, .maxu, false⟩),
  (0x0E10000000801800, .fred ⟨hd, .v 8, .v 6, .add, .s⟩)]
theorem test_decode_atomic : (atomicWords).all reads = true := by decide +kernel

def engineWords : List (DWord × Instr) := [
  (0x0F000000308C5003, .xcopy ⟨hd, .s 8, .s 20, 3⟩),
  (0x0F040000308C5003, .xfill ⟨hd, .s 8, .s 20, 3⟩),
  (0x0F08003071E00001, .xwait hd 1 (.s 30) true),
  (0x0F0C002131E00000, .xtest hd (.s 4) (.s 30)),
  (0x0F10000031E00000, .xclear hd (.s 30))]
theorem test_decode_engine : (engineWords).all reads = true := by decide +kernel

def syncWords : List (DWord × Instr) := [
  (0x1000100030400009, .bar hd .a (.s 4) 9),
  (0x1004000000000003, .barc hd 3),
  (0x1008002170400009, .bara hd .none (.s 5) (.s 4) 9),
  (0x100C000030400009, .barw hd .none (.s 4) 9),
  (0x10100000304C1416, .qmap hd .v 6 (.s 4) (.s 5)),
  (0x1014003040000016, .qtry hd 1 6 true),
  (0x10180030708C1400, .waitv hd .none 1 (.s 8) (.reg (.s 5)))]
theorem test_decode_sync : (syncWords).all reads = true := by decide +kernel

def matrixWords : List (DWord × Instr) := [
  (0x11000000C0008001, .mma ⟨hd, 0, 3, .v 0, .v 32, 0, .b512, .f32⟩),
  (0x11044000C0008022, .mmax ⟨hd, 1, 3, .v 0, .v 32, 0, .b128, .bf16⟩),
  (0x11080000C0000001, .zclr hd 3 .d),
  (0x110C8000F0800000, .zld hd 2 3 (.s 8) .s),
  (0x11100000F0800001, .zst hd 3 (.s 8) .d),
  (0x1114000400300001, .zget hd 0 16 3 .d),
  (0x11180000C1000000, .zput hd 3 (.v 16) .s),
  (0x111C0000000C1003, .scld hd 0 (.scale .none (.s 4)))]
theorem test_decode_matrix : (matrixWords).all reads = true := by decide +kernel

def sealWords : List (DWord × Instr) := [
  (0x120000304040200A, .seal ⟨hd, 0, .none, 1, .v 4, .v 8, .v 10⟩),
  (0x1204B0304040200A, .peek ⟨hd, 2, .c, 1, .v 4, .v 8, .v 10⟩),
  (0x12080030F080030A, .reopen hd 0 .none 3 (.s 8) (.s 10)),
  (0x120C00000040000A, .cinit hd .none (.v 4) (.v 10))]
theorem test_decode_seal : (sealWords).all reads = true := by decide +kernel

def coveWords : List (DWord × Instr) := [
  (0x1300000030600000, .ktable hd 0 (.s 6)),
  (0x13040000010C5001, .kstore hd .none 1 (.v 16) (.s 20)),
  (0x1308402101000002, .ksign hd 1 (.s 4) (.v 16) 2),
  (0x130C0030818C2045, .kgather hd 2 (.v 24) (.s 8) 1 5),
  (0x13100000000C1245, .kclear hd .none (.s 4) 2 1 5)]
theorem test_decode_cove : (coveWords).all reads = true := by decide +kernel

def distributorWords : List (DWord × Instr) := [
  (0x1400000031400002, .dqnext hd .none (.s 20) 2),
  (0x1404000031400000, .dqdone hd .none (.s 20)),
  (0x1408000031400000, .devent hd .none (.s 20)),
  (0x140C0030708C2800, .dwait hd .none 1 (.s 8) (.reg (.s 10)))]
theorem test_decode_distributor : (distributorWords).all reads = true := by decide +kernel

def systemWords : List (DWord × Instr) := [
  (0x1500000000000000, .tret false),
  (0x1504000100000004, .mfsr hd (.v 4) .taddr),
  (0x1508000030800011, .mtsr hd .lease (.s 8)),
  (0x150C000033800000, .tlbf hd (.s 56)),
  (0x15100000308C2800, .tlbi hd .none (.s 8) (.reg (.s 10))),
  (0x1514000100800000, .probe hd (.v 4) (.v 8)),
  (0x1518000000054321, .halt hd 0x54321)]
theorem test_decode_system : (systemWords).all reads = true := by decide +kernel

def pairWords : List (DWord × Instr) := [
  (0x40800040000281A4, .pairWord false ⟨.iadd, 0, .v 1, .always⟩ ⟨.mov, 2, .s 3, .on 2 .t⟩)]
theorem test_decode_pair : (pairWords).all reads = true := by decide +kernel

def formWords : List (DWord × Instr) := [
  (0x02300041008601A2, .xor ⟨hd, .none, .v 4, .v 8, .win 3 0x1A2⟩),
  (0x08000042808601A2, .fadd ⟨hd, .s, .v 10, .v 8, .win 3 0x1A2⟩),
  (0x10100000343D0C26, .qmap hd .off 6 .zero .zero),
  (0x111C0000308C1000, .scld hd 0 (.all .none (.s 8) (.s 4))),
  (0x111C000030800001, .scld hd 0 (.aexp (.s 8))),
  (0x111C000030800002, .scld hd 0 (.bexp (.s 8))),
  (0x110000028000815A, .mma ⟨hd, 0, 10, .v 0, .v 32, 5, .b256, .bfp 2⟩)]
theorem test_decode_form : (formWords).all reads = true := by decide +kernel

/-! ## Single steps -/

def asWord (i : Instr) : DWord := (encode i).getD 0
/-- The state whose next step issues a word, changed by `f`. -/
def start (i : Instr) (f : State → State := id) : State := f (State.reset.withFetchWord 64 (asWord i).toNat)
/-- The same as the word's exec sees it: the word is taken. -/
def issued (i : Instr) (f : State → State := id) : State := (start i f).modGroup 0 fun g => { g with ibuf := some [] }
def onG (f : Group → Group) (s : State) : State := s.modGroup 0 f
def onT (f : Team → Team) (s : State) : State := s.modTeam 1 f
def onP (f : Packet → Packet) (s : State) : State := s.modPacket 1 fun r => { r with pk := f r.pk }
/-- V register r of the lanes, from lane 0 on; S registers; predicate k of the lanes, by code. -/
def vs (r : Nat) (l : List Word) (g : Group) : Group :=
  { g with v := sputs 0 g.v (l.zipIdx.map fun e => (32 * r + e.2, e.1)) }
def ss (l : List (Nat × Word)) (g : Group) : Group := { g with s := sputs 0 g.s l }
def ps (k : Nat) (l : List (BitVec 2)) (g : Group) : Group :=
  { g with p := sputs 0 g.p (l.zipIdx.map fun e => (32 * k + e.2, e.1)) }
def after (i : Instr) (f : State → State) : Option State := match step (start i f) with
  | .next t => some t
  | _ => none
def group (i : Instr) (f : Group → Group) : Group := (((after i (onG f)).bind fun t => t.group? 0)).getD (sampleGroup 0)
def lanesV (i : Instr) (f : Group → Group) (r n : Nat) : List Word := (List.range n).map ((group i f).getV r)
def lanesP (i : Instr) (f : Group → Group) (k n : Nat) : List Tri := (List.range n).map ((group i f).tri (BitVec.ofNat 3 k))

-- R130: movi v4, 0x678 then movhi gives 0x12345678.
theorem test_movhi : lanesV (.movhi ⟨hd, .none, .v 4, .v 4, 0x12345⟩) (vs 4 [0x678]) 4 1 = [0x12345678] := by decide +kernel
-- R128: sums wrap; the high product of -1 and 1; the borrow.
theorem test_iadd_wraps : lanesV (.iadd ⟨hd, .none, .v 4, .v 4, .reg (.v 5)⟩) (vs 5 [2] ∘ vs 4 [0xFFFFFFFF]) 4 2 = [1, 0] := by
  decide +kernel
theorem test_imulhi_signed : lanesV (.imulhi ⟨hd, .none, .v 4, .v 4, .reg (.v 5)⟩) (vs 5 [1] ∘ vs 4 [0xFFFFFFFF]) 4 1 =
    [0xFFFFFFFF] := by decide +kernel
theorem test_isubb_borrow : lanesV (.isubb ⟨hd, .none, .v 6, .v 4, .v 5, .s 1⟩) (ss [(1, 1)] ∘ vs 5 [2, 3] ∘ vs 4 [3, 3]) 6 2 =
    [0, 1] := by decide +kernel
theorem test_imulw_words : (lanesV (.imulw ⟨hd, .none, .v 6, .v 4, .reg (.v 5)⟩) (vs 5 [2] ∘ vs 4 [0xFFFFFFFF]) 6 1,
    lanesV (.imulw ⟨hd, .none, .v 6, .v 4, .reg (.v 5)⟩) (vs 5 [2] ∘ vs 4 [0xFFFFFFFF]) 7 1) =
      ([0xFFFFFFFE], [0xFFFFFFFF]) := by decide +kernel
-- R131, R132: shifts by 32 and more, sign fill, fields.
theorem test_shl_width : lanesV (.shl ⟨hd, .none, .v 6, .v 4, .reg (.v 5)⟩) (vs 5 [31, 32, 33] ∘ vs 4 [3, 3, 3]) 6 3 =
    [0x80000000, 0, 0] := by decide +kernel
theorem test_sar_width : lanesV (.sar ⟨hd, .none, .v 6, .v 4, .reg (.v 5)⟩) (vs 5 [4, 99] ∘ vs 4 [0x80000000, 0x80000000]) 6 2 =
    [0xF8000000, 0xFFFFFFFF] := by decide +kernel
theorem test_bfx_sign : lanesV (.bfx ⟨hd, .none, .v 6, .v 4, .v 5, .v 7⟩) (vs 7 [4, 0] ∘ vs 5 [4, 4] ∘ vs 4 [0xF0, 0xF0]) 6 2 =
    [0xFFFFFFFF, 0] := by decide +kernel
theorem test_bfi_keeps : lanesV (.bfi ⟨hd, .none, .v 6, .v 4, .v 5, .v 7⟩)
    (vs 7 [8] ∘ vs 6 [0xFFFFFFFF] ∘ vs 5 [28] ∘ vs 4 [0]) 6 1 = [0x0FFFFFFF] := by decide +kernel
-- R126: the table's rows, lanes 0 to 5.
theorem test_kleene_or : lanesP (.por ⟨hd, 3, 1, 2⟩) (ps 2 [0, 1, 1, 2, 2, 2] ∘ ps 1 [0, 0, 1, 0, 1, 2]) 3 6 =
    [.f, .t, .t, .u, .t, .u] := by decide +kernel
theorem test_kleene_and : lanesP (.pand ⟨hd, 3, 1, 2⟩) (ps 2 [0, 1, 1, 2, 2, 2] ∘ ps 1 [0, 0, 1, 0, 1, 2]) 3 6 =
    [.f, .f, .t, .f, .u, .u] := by decide +kernel
-- R127: PANY over active lanes only.
theorem test_pany_active : lanesP (.pany ⟨hd, 3, 1⟩) (fun g => { ps 1 [0, 1, 2] g with mask := 0xFFFFFFFD }) 3 3 =
    [.u, .f, .u] := by decide +kernel
theorem test_guard_lanes : lanesV (.movi ⟨false, .on 1 .u⟩ (.v 4) 7) (ps 1 [0, 1, 2]) 4 3 = [0, 0, 7] := by decide +kernel
-- R139: signed and unsigned.
theorem test_icmp_signed : lanesP (.icmp ⟨hd, .none, 2, .v 4, .zero, .lt⟩) (vs 4 [0xFFFFFFFF, 0]) 2 2 = [.t, .f] := by
  decide +kernel
-- R143's worked case: M = 0xFB, V4 = 3 1 4 1 5 9 2 6, P1 T where odd.
def scanCase (g : Group) : Group :=
  { vs 9 (List.replicate 8 77) (vs 4 [3, 1, 4, 1, 5, 9, 2, 6] (ps 1 [1, 1, 0, 1, 1, 1, 0, 0] g)) with mask := 0xFB }
theorem test_scan_exclusive : lanesV (.scan hd .none 8 (.v 4) .add true) scanCase 8 8 = [0, 3, 0, 4, 5, 10, 19, 21] := by
  decide +kernel
theorem test_scan_inclusive : lanesV (.scan hd .none 9 (.v 4) .add false) scanCase 9 8 = [3, 4, 77, 5, 10, 19, 21, 27] := by
  decide +kernel
theorem test_compact : lanesV (.compact hd .none 10 (.v 4) 1) scanCase 10 8 = [3, 1, 0, 1, 5, 9, 0, 0] := by decide +kernel
-- R145's worked case: A = (2, 3), c = 0, k = 3 gives 1.
theorem test_mpath : lanesV (.mpath hd .none 7 (.v 5) (.v 4) .zero)
    (fun g => { vs 5 [3, 3] (vs 4 [2, 3] g) with mask := 3 }) 7 1 = [1] := by decide +kernel
-- R133 to R135: lane moves.
theorem test_nmov_edge : lanesV (.nmov ⟨hd, .none, 6, .v 4, .reg (.s 1)⟩)
    (fun g => { ss [(1, 0xFFFFFFFF)] (vs 4 [10, 11, 12] g) with nbmode := 2 }) 6 3 = [10, 10, 11] := by decide +kernel
theorem test_bcast : lanesV (.bcast ⟨hd, .none, 6, .v 4, .reg (.s 1)⟩) (ss [(1, 34)] ∘ vs 4 [10, 11, 12]) 6 2 = [12, 12] := by
  decide +kernel
theorem test_shfl_pending : (group (.shfl hd 2 .none 6 (.v 4) (.v 5) .down) (vs 4 [10, 11])).pends.length = 1 ∧
    lanesV (.shfl hd 2 .none 6 (.v 4) (.v 5) .down) (vs 4 [10, 11]) 6 1 = [0] := by decide +kernel
-- R52, R155: 1 + [1, 2] = [2, 3]; [1, 2] < [2, 3] is U; 1.0 = 0x3F800000, 2.0 = 0x40000000, 3.0 = 0x40400000.
def oneTwo (g : Group) : Group :=
  vs 4 [0x3F800000] (vs 5 [0x40000000] (vs 6 [0x40000000] (vs 7 [0x40400000] (vs 8 [0x3F800000] (vs 9 [0x3F800000] g)))))
theorem test_fadd : (lanesV (.fadd ⟨hd, .s, .v 10, .v 8, .reg (.v 4)⟩) oneTwo 10 1,
    lanesV (.fadd ⟨hd, .s, .v 10, .v 8, .reg (.v 4)⟩) oneTwo 11 1) = ([0x40000000], [0x40400000]) := by decide +kernel
theorem test_fcmp : lanesP (.fcmp hd 1 (.v 4) (.v 6) .lt .s) oneTwo 1 1 = [.u] ∧
    lanesP (.fcmp hd 1 (.v 4) (.v 6) .le .s) oneTwo 1 1 = [.t] := by decide +kernel
-- R66's worked case: [1, 1.5] compresses to 0x3FA0004D.
theorem test_ftomrad : lanesV (.ftomrad hd (.v 6) (.v 4) .s) (vs 5 [0x3FC00000] ∘ vs 4 [0x3F800000]) 6 1 = [0x3FA0004D] := by
  decide +kernel
theorem test_ffrommrad : (lanesV (.ffrommrad hd .none (.v 6) (.v 4) .s) (vs 4 [0x3FA0004D]) 6 1,
    lanesV (.ffrommrad hd .none (.v 6) (.v 4) .s) (vs 4 [0x3FA0004D]) 7 1) = ([0x3F800000], [0x3FC00000]) := by
  decide +kernel
-- R154: fpoint of -infinity is [-infinity, -MAX].
theorem test_fpoint : (lanesV (.fpoint ⟨hd, .none, .s, .v 8, .s 4⟩) (ss [(4, 0xFF800000)]) 8 1,
    lanesV (.fpoint ⟨hd, .none, .s, .v 8, .s 4⟩) (ss [(4, 0xFF800000)]) 9 1) = ([0xFF800000], [0xFF7FFFFF]) := by
  decide +kernel
-- R122: a counter of 0 wraps and branches.
theorem test_loop : (fun g => (g.getS 4, g.pc)) (group (.loop false (.s 4) 3) (fun g => { g with pc := 0x100 })) =
    (0xFFFFFFFF, 0x118) := by decide +kernel
-- R24's worked case, the BRP at 0x108: P2 is T on lanes 0 to 9, U on the others.
theorem test_brp_diverges : (fun g => (g.mask, g.pc, g.stack.map entPc, g.stack.map entMask, g.stack.map entArmed))
    (group (.brp false 2 7 11) fun g => { ps 2 (List.replicate 10 1 ++ List.replicate 22 2) g with
      pc := 0x108, stack := [mkEntry 0x180 0xFFFFFFFF 0 true] }) =
    (0x3FF, 0x140, [0x180, 0x110], [0xFFFFFFFF, 0xFFFFFC00], [false, false]) := by decide +kernel
theorem test_join : (fun g => (g.mask, g.pc, g.stack.length)) (group (.join false) fun g => { g with
    pc := 0x180, mask := 0x3FF, stack := [mkEntry 0x180 0xFFFFFFFF 0 false, mkEntry 0x110 0xFFFFFC00 1 false] }) =
    (0xFFFFFC00, 0x110, 1) := by decide +kernel
-- R19: EXIT of some lanes.
theorem test_exit : (fun g => (g.live, g.mask)) (group (.exit ⟨false, .on 1 .t⟩) (ps 1 [1])) = (0xFFFFFFFE, 0xFFFFFFFE) := by
  decide +kernel
-- R123, R321, R324: TRAP raises Breakpoint (cause 11) and enters the handler.
theorem test_trap : (fun g => (g.hmode, g.pc, g.tpc, g.tcause.toNat % 32, g.tcause.toNat / 2 ^ 12 % 2 ^ 20, g.tmask))
    (group (.trap hd 0x12345) fun g => { g with pc := 0x100, tvec := 0x4000 }) =
    (true, 0x4000, 0x100, causeCode .breakpoint, 0x12345, 0xFFFFFFFF) := by decide +kernel
theorem test_privileged : (group (.halt hd 0) id).tcause.toNat % 32 = causeCode .illegalInstruction := by decide +kernel
-- R331: TRET.
theorem test_tret : (fun g => (g.hmode, g.pc, g.mask)) (group (.tret false) fun g => { g with
    hmode := true, tpc := 0x208, tsave := 0xFF }) = (false, 0x208, 0xFF) := by decide +kernel
-- R213, R205: a scratchpad store and load, little-endian.
def storedState : State := (after (.sts ⟨hd, .none, .v 8, .v 4, .w, 0⟩)
  (onG (vs 8 ((List.range 32).map fun l => BitVec.ofNat 32 (0xFF000000 + 4 * l)) ∘ vs 4 [0x11223344, 0x55667788]))).getD State.reset
theorem test_sts_bytes : storedState.bytesAt (scratchPlace 0 0) 8 = [0x44, 0x33, 0x22, 0x11, 0x88, 0x77, 0x66, 0x55] := by
  decide +kernel
theorem test_misaligned : (group (.sts ⟨hd, .none, .v 8, .v 4, .w, 0⟩)
    (vs 8 ((List.range 32).map fun l => BitVec.ofNat 32 (0xFF000001 + 4 * l)))).tcause.toNat % 32 = causeCode .accessViolation := by
  decide +kernel
-- R259: the table.
theorem test_seal_open : cellOp (.seal 7) 3 0 (3 * 2 ^ 48) = { tri := .t, new := some (7 * 2 ^ 64 + 3 * 2 ^ 48 + 2 ^ 46), grant := true } := by
  decide +kernel
-- R235: QMAP, then a pop of an empty queue stalls (R33).
theorem test_qmap : ((after (.qmap hd .s 6 (.s 4) (.s 5)) (onG (ss [(4, 64), (5, 3)]))).bind fun t => t.team? 1).map (fun t => t.queue 6) =
    some { kind := 1, base := 64, depth := 3 } := by decide +kernel
-- R251: ZCLR enters the engine (R248).
theorem test_zclr : ((after (.zclr hd 3 .d) id).map fun t => (t.coreAt 0).engine.length) = some 1 := by decide +kernel
-- R97, R98: both halves read before either writes.
theorem test_pair : (lanesV (.pairWord false ⟨.mov, 0, .v 1, .always⟩ ⟨.iadd, 2, .v 0, .always⟩) (vs 0 [5] ∘ vs 1 [9] ∘ vs 2 [1]) 2 1,
    lanesV (.pairWord false ⟨.mov, 0, .v 1, .always⟩ ⟨.iadd, 2, .v 0, .always⟩) (vs 0 [5] ∘ vs 1 [9] ∘ vs 2 [1]) 0 1) = ([6], [9]) := by
  decide +kernel
-- R330: MFSR of the lane's address register; R29: MTSR of NBMODE.
theorem test_mtsr : (group (.mtsr hd .nbmode (.s 8)) (ss [(8, 2)])).nbmode = 2 := by decide +kernel


/-! ## Witnesses: states and operands that meet the hypotheses of the statements -/

/-- A word that begins in the run of group 0, with a condition on the state and its context. -/
def begins (i : Instr) (s : State) (P : Ctx → Bool) : Bool :=
  match s.ctx? 0 with
  | none => false
  | some c => match declares s c i with
    | none => false
    | some g => decide (s.runs.head? = some c.gid) && decide (s.ctx? c.gid = some c) && decide (c.g.inbound = []) &&
        decide (c.t.tileIn = []) && decide (g.privOk c.g = true) && decide (g.operandsOk c = true) && decide (g.violates c.g = false) &&
        decide (g.lookaheadWait c.g = false) && decide (g.drains = true → c.g.pending = false) &&
        decide (g.writeWait c.g = false) &&
        decide (g.memory = true → c.g.memBusy = false) &&
        (match s.readWindow c (c.g.active g.hd.g) (if c.g.active g.hd.g = 0 then none else g.win) with
          | .words _ => true
          | _ => false) && P c
/-- What the check shows: every premise `Begins` makes, and the condition. -/
theorem begins_shows (i : Instr) (s : State) (P : Ctx → Bool) (h : begins i s P = true) :
    ∃ c ws, Begins i s c ws ∧ P c = true := by
  unfold begins at h
  split at h
  · cases h
  · rename_i c hc
    split at h
    · cases h
    · rename_i g hg
      simp only [Bool.and_eq_true, decide_eq_true_eq] at h
      obtain ⟨⟨⟨⟨⟨⟨⟨⟨⟨⟨⟨⟨h1, h2⟩, h3⟩, h4⟩, h5⟩, h6⟩, h7⟩, h8⟩, h9⟩, h10⟩, h11⟩, h12⟩, h13⟩ := h
      split at h12
      · rename_i ws hw
        exact ⟨c, ws, ⟨g, hg, h1, h2, h3, h4, h5, h6, h7, h8, h9, h10, h11, hw⟩, h13⟩
      · cases h12

abbrev Case := Instr × (State → State) × (State → Ctx → Bool)
def meets (x : Case) : Bool := begins x.1 (issued x.1 x.2.1) (x.2.2 (issued x.1 x.2.1))

def allWords : List (DWord × Instr) := controlWords ++ predicateWords ++ integerWords ++ immediateWords ++ bitsWords ++
  moveWords ++ compareWords ++ laneWords ++ intervalWords ++ setWords ++ relationWords ++ conversionWords ++ forkWords ++
  memoryWords ++ atomicWords ++ engineWords ++ syncWords ++ matrixWords ++ sealWords ++ coveWords ++ distributorWords ++
  systemWords ++ pairWords ++ formWords
/-- The group in the mode the word needs, with predicates of every value. -/
def ready (i : Instr) (g : Group) : Group :=
  { ps 4 (List.replicate 32 2) (ps 3 (List.replicate 32 1) (ps 2 (List.replicate 32 1) g)) with hmode := privileged i }
def onK (f : Core → Core) (s : State) : State := s.modCore 0 f
/-- Every address below 2^42 mapped to itself by one leaf: with WRITE and X, a cell page, or a page of another package. -/
def mapped (leaf : DWord := 0x33) (s : State) : State := onK (fun k => { k with tlb := [⟨0, 1, leaf⟩] }) s
/-- Room for every tile and slot, and a cached line of constants. -/
def roomy (s : State) : State :=
  onP (fun p => { p with acc := 64 }) (mapped 0x33 (onK (fun k => { k with consts := [(13, List.replicate 128 0)] }) s))
/-- Every instruction form begins somewhere with active lanes, and somewhere with none. -/
theorem witness_begins : allWords.all (fun e => isWord e.2 && e.2.wf &&
    meets (e.2, roomy ∘ onG (ready e.2), fun _ c => c.g.mask != 0) &&
    meets (e.2, roomy ∘ onG (fun g => { ready e.2 g with mask := 0 }), fun _ c => c.g.mask == 0)) = true := by decide +kernel

-- MemoryStaysCanonical: canonical memories, with and without bytes listed, and steps from them that answer a next state.
def goes (s : State) : Bool := match step s with
  | .next _ => true
  | _ => false
theorem witness_memory_canonical : ([start (.movi hd (.v 4) 3), storedState, { State.reset with agenda := [.distRun] }] : List State).all
    (fun s => Memory.wf s.mem && goes s) = true ∧ storedState.mem.length = 8 := by decide +kernel
-- StepRunsWord: a word at the head of the run; a pair word as the 24th and as the 25th instruction.
theorem witness_step_runs : (let s := start (.movi hd (.v 4) 3);
    s.agenda = [] ∧ s.runs.head? = some 0 ∧ (s.group? 0).bind Group.ibuf = some [.word (asWord (.movi hd (.v 4) 3))] ∧
      decode (asWord (.movi hd (.v 4) 3)) = .ok (.movi hd (.v 4) 3)) ∧
    (let i : Instr := .pairWord false ⟨.iadd, 0, .v 1, .always⟩ ⟨.mov, 2, .s 3, .always⟩;
      let s (n : Nat) := start i (onG fun g => { g with pos := n });
      decode (asWord i) = .ok i ∧ ((s 23).group? 0).map Group.pos = some 23 ∧ ((s 22).group? 0).map Group.pos = some 22 ∧
        goes (s 22) = true) := by decide +kernel
-- StepOtherwise: a word that does not decode; a failed fetch; no word left; events and words on the agenda; an event of the
-- machine's own; nothing to do.
theorem witness_step_otherwise : (decode 0x1600000000000000 = .error .unassignedMajor) ∧
    ([some [.word 0x1600000000000000, .word 0], some [.bad .pageFault 2 0x1000], none, some []] : List (Option (List Fetched))).all
      (fun b => let s := start (.movi hd (.v 4) 3) (onG fun g => { g with ibuf := b });
        decide (s.agenda = [] ∧ s.runs.head? = some 0 ∧ (s.group? 0).bind Group.ibuf = b ∧ (s.group? 0).map Group.ended = some false) &&
          goes s) = true ∧
    isWord .distRun = false ∧ isWord (.movi hd (.v 4) 3) = true ∧
    ({ start (.movi hd (.v 4) 3) with runs := [] } : State).nextEvent.isSome = true ∧
    State.reset.nextEvent.isNone = true := by decide +kernel
-- PerformFrame: a word that writes at once and a long-latency one, each performed with nothing waiting from outside.
def performed (i : Instr) (s : State) (p : Ctx → Perf) : Bool :=
  match s.ctx? 0 with
  | none => false
  | some c => match declares s c i, exec i s with
    | some g, .next t => decide (t = State.finish c.gid c.g g (c.g.active g.hd.g) (p c)) && decide (((p c).s.group? 0).map Group.inbound = some [])
    | _, _ => false
theorem witness_perform_frame :
    (let i : Instr := .movi hd (.v 4) 3;
      performed i (issued i) (fun c => { s := issued i, w := dstWrites (c.g.active .always) (.v 4) 1 fun _ _ => 3 })) = true ∧
    (let i : Instr := .shfl hd 1 .none 4 (.v 8) (.v 9) .down;
      performed i (issued i) (fun c => {
        s := (issued i).newId.2, pend := (issued i).newId.1, w := dstWrites (c.g.active .always) (.v 4) 1 fun _ _ => 0 })) = true := by decide +kernel
-- IntervalsEnclose, SetsAndMeasures, MidpointRadiusEncloses: members, at the bounds and inside, and measures that are numbers.
def oneToTwo : Ival := .mk (.fin 1) (.fin 2)
theorem witness_members : oneToTwo.has 1 ∧ oneToTwo.has 2 ∧ (Ival.mk .ninf (.fin 0)).has (-5) ∧ (2 : Rat) ≠ 0 :=
  ⟨⟨by decide +kernel, by decide +kernel⟩, ⟨by decide +kernel, by decide +kernel⟩, ⟨by decide +kernel, by decide +kernel⟩,
    by decide +kernel⟩
theorem witness_measures : (1 : Rat) ≤ 1 ∧ (1 : Rat) ≤ 2 ∧ Ival.mid b32 oneToTwo = .num (.fin (3 / 2)) ∧
    Ival.rad b32 oneToTwo = .num (.fin (1 / 2)) ∧ Ival.wid b64 oneToTwo = .num (.fin 1) ∧ oneToTwo.mag = .num (.fin 2) ∧
    oneToTwo.mig = .num (.fin 1) := by decide +kernel
-- ControlTransfers: aligned and misaligned targets, and a YIELD with an active lane.
def target (g : Group) (n : Nat) : Nat := (DWord.ofWords (g.getS (n + 1)) (g.getS n)).toNat
theorem witness_control : ([(.ret false, onG (ss [(62, 0x108)]), fun _ c => target c.g 62 % 8 == 0),
    (.brx false (.s 6), onG (ss [(7, 8), (6, 0x108)]), fun _ c => target c.g 6 % 8 == 0),
    (.yield hd, id, fun _ c => c.g.active .always != 0),
    -- LoopCounts: the counter ends at 0, and wraps.
    (.loop false (.s 4) (-3), onG (ss [(4, 1)]), fun _ c => c.g.getS 4 - 1 == 0),
    (.loop false (.s 4) (-3), id, fun _ c => c.g.getS 4 - 1 != 0)] : List Case).all meets = true := by decide +kernel
-- DivergenceWords.
/-- The sets of a branch on P1, the lanes' values in lane order. -/
def branch (l : List (BitVec 2)) (st : List (BitVec 128)) (g : Group) : Group :=
  { ps 1 l g with pc := 0x108, stack := st, mask := BitVec.ofNat 32 (2 ^ l.length - 1) }
def lanesAs (c : Ctx) (v : Tri) : Word := maskOf fun l => (c.g.mask &&& c.g.live).getLsbD l && c.g.tri 1 l == v
def sets (c : Ctx) : Bool × Bool × Bool := (lanesAs c .t != 0, lanesAs c .f != 0, lanesAs c .u != 0)
def armed : BitVec 128 := mkEntry 0x180 0xFF 0 true
def plain : BitVec 128 := mkEntry 0x180 0xFF 0 false
def dead : BitVec 128 := mkEntry 0x200 0xFF00 1 false
def path : BitVec 128 := mkEntry 0x140 0xF0 1 false
theorem witness_divergence : ([(.div false 9, onG (fun g => { g with stack := List.replicate 15 plain, spilled := 126 }),
      fun _ c => c.g.depth == 1023 && c.g.stack.length == 15),
    (.div false 9, onG (fun g => { g with spilled := 128 }), fun _ c => c.g.depth == 1024),
    (.div false 9, onG (fun g => { g with stack := List.replicate 16 plain }) ∘ onP (fun p => { p with psSize := 4096 }) ∘ mapped,
      fun s c => c.g.depth == 16 && match s.stackCheck c .st c.g.spilled with
        | .ok _ => true
        | _ => false),
    (.brp false 1 7 9, onG (branch [1, 1] []), fun _ c => sets c == (true, false, false)),
    (.brp false 1 7 9, onG (branch [0, 0] []), fun _ c => sets c == (false, true, false)),
    (.brp false 1 7 9, onG (branch [2, 2] []), fun _ c => sets c == (false, false, true)),
    (.brp false 1 7 9, onG (branch [] []), fun _ c => sets c == (false, false, false)),
    (.brp false 1 7 9, onG (branch [1, 0, 2] (List.replicate 13 plain ++ [armed])),
      fun _ c => sets c == (true, true, true) && c.g.stack.length == 14),
    (.brp false 1 7 9, onG (branch [1, 0] [armed]), fun _ c => sets c == (true, true, false)),
    (.brp false 1 7 9, onG (branch [1, 2] [armed]), fun _ c => sets c == (true, false, true)),
    (.brp false 1 7 9, onG (branch [0, 2] [armed]), fun _ c => sets c == (false, true, true) && c.g.depth ≤ 1022),
    (.brp false 1 7 9, onG (branch [1, 0] []), fun _ c => sets c == (true, true, false) && !topArmed c.g.stack && c.g.spilled == 0),
    (.brp false 1 7 9, onG (branch [1, 2] [armed, plain]), fun _ c => sets c == (true, false, true) && !topArmed c.g.stack),
    (.brp false 1 7 9, onG (branch [0, 2] [path]), fun _ c => sets c == (false, true, true) && !topArmed c.g.stack),
    (.join false, onG (fun g => { g with live := 0xFF, mask := 0xF, stack := [plain, path, dead] }),
      fun _ c => entBad dead == false && entKind dead == 1 && entMask dead &&& c.g.live == 0 && entBad path == false &&
        entKind path == 1 && entMask path &&& c.g.live != 0),
    (.join false, onG (fun g => { g with pc := 0x180, stack := [plain], spilled := 1 }),
      fun _ c => entBad plain == false && entKind plain == 0 && entPc plain == c.g.pc && c.g.spilled != 0),
    (.join true, onG (fun g => { g with pc := 0x188, stack := [plain] }), fun _ c => entKind plain == 0 && entPc plain != c.g.pc),
    (.join true, onG (fun g => { g with live := 0xFF, mask := 0xFF, stack := [dead, dead] }),
      fun _ c => c.g.stack == [dead, dead] && c.g.spilled == 0)] : List Case).all meets = true := by decide +kernel
-- ExitAndBreakpoint: the last lanes; some; M emptied, with and without an entry; a trap, a break, an armed break, and none active.
def stopped (i : Instr) (h : Hd) : Case := (i, onG (fun g => { g with mask := 0 }), fun _ c => c.g.active h.g == 0)
def goesOn (c : Ctx) (act : Word) : Bool := (exitDense c act).isNone && (act &&& c.g.h == 0 || c.pk.poolEnt == 0)
theorem witness_exit : ([(.exit hd, id, fun _ c => goesOn c c.g.mask && c.g.live &&& ~~~c.g.mask == 0),
    (.exit ⟨false, .on 1 .t⟩, onG (ps 1 [1]), fun _ c => goesOn c (c.g.active (.on 1 .t)) && c.g.mask &&& ~~~(c.g.active (.on 1 .t)) != 0),
    (.exit hd, onG (fun g => { g with mask := 0xF, stack := [plain, path, mkEntry 0x300 0xF 1 false] }), fun _ c =>
      goesOn c 0xF && c.g.mask &&& ~~~0xF == 0 && c.g.live &&& ~~~0xF != 0 && entMask path &&& (c.g.live &&& ~~~0xF) != 0 &&
        entMask (mkEntry 0x300 0xF 1 false) &&& (c.g.live &&& ~~~0xF) == 0),
    (.exit hd, onG (fun g => { g with mask := 0xF }), fun _ c => goesOn c 0xF && c.g.stack == [] && c.g.spilled == 0),
    (.trap hd 7, id, fun _ c => c.g.active .always != 0), stopped (.trap hd 7) hd,
    (.brk hd 7, id, fun s c => c.g.active .always != 0 && !(s.armed c.pk 0)),
    (.brk hd 7, fun s => s.modHost fun h => { h with armed := 0xFFFFFFFF00000001 }, fun s c => s.armed c.pk 0), stopped (.brk hd 7) hd] :
    List Case).all meets = true := by decide +kernel
-- TrapEntry and DoubleTrap: groups with no register pending, with one whose result is written, and with one still to come.
def pendOf (done : Bool) : Pend := { id := 1, regs := [.v 4], writes := {}, left := 2, done := done }
def groupWith (f : Group → Group) : Option Group := (issued (.trap hd 7) (onG f)).group? 0
theorem witness_trap_entry :
    (groupWith fun g => { g with pends := [pendOf true] }).map (fun g => (g.hmode, g.inbound, g.pends.all Pend.done)) =
      some (false, [], true) ∧
    (groupWith fun g => { g with pends := [pendOf false] }).map (fun g => (g.inbound, g.pends.any fun p => p.done == false)) =
      some ([], true) ∧
    (groupWith fun g => { g with hmode := true }).map (fun g => (g.hmode, g.inbound, g.pends.all Pend.done, g.team)) =
      some (true, [], true, 1) ∧
    ((issued (.trap hd 7)).team? 1).map Team.life = some .run ∧ (issued (.trap hd 7)).dist.logCap = 0 ∧
    (((issued (.trap hd 7)).ctx? 0).map fun c => (issued (.trap hd 7)).armed c.pk 3) = some false := by decide +kernel
-- TrapReturn: the depth saved, another depth, and outside handler mode.
theorem witness_trap_return : ([(.tret false, onG (fun g => { g with hmode := true, stack := [plain], tsave := 0x1000000FF }),
      fun _ c => c.g.depth == c.g.tsave.toNat / 2 ^ 32 % 2 ^ 16 && c.g.depth == 1),
    (.tret false, onG (fun g => { g with hmode := true, tsave := 0x1000000FF }),
      fun _ c => c.g.depth != c.g.tsave.toNat / 2 ^ 32 % 2 ^ 16)] : List Case).all meets = true ∧
    (let s := issued (.tret false);
      s.runs.head? = some 0 ∧ (s.ctx? 0).map (fun c => (c.gid, c.g.hmode)) = some (0, false)) := by decide +kernel
-- ChecksInOrder: each check in turn, the earlier ones passed; PrivilegeAndBanks: every privileged and every forbidden form.
def stage (i : Instr) (f : Group → Group) (P : Gate → Ctx → Bool) : Bool :=
  let s := issued i (onG f)
  match s.ctx? 0 with
  | none => false
  | some c => decide (s.runs.head? = some 0) && decide (c.gid = 0) && match declares s c i with
    | none => false
    | some g => P g c
def passes (g : Gate) (c : Ctx) (n : Nat) : Bool :=
  ([g.privOk c.g, g.operandsOk c, !g.violates c.g, !g.lookaheadWait c.g, decide (c.g.active g.hd.g ≠ 0),
    !g.writeWait c.g].take n).all id && !([g.privOk c.g, g.operandsOk c, !g.violates c.g, !g.lookaheadWait c.g, decide (c.g.active g.hd.g ≠ 0),
    !g.writeWait c.g, !g.memory || !c.g.memBusy].getD n true)
def copyOp : Instr := .mov ⟨hd, .none, .v 4, .v 8⟩
theorem witness_checks : stage (.halt hd 0) id (fun g c => passes g c 0) = true ∧
    stage (.mov ⟨hd, .none, .v 4, .v 64⟩) id (fun g c => passes g c 1) = true ∧
    stage copyOp (fun g => { g with pends := [{ pendOf false with regs := [.v 8] }] }) (fun g c => passes g c 2) = true ∧
    stage copyOp (fun g => { g with pends := [{ pendOf false with left := 0 }] }) (fun g c => passes g c 3) = true ∧
    stage copyOp (fun g => { g with pends := [pendOf false] }) (fun g c => passes g c 5) = true ∧
    stage (.sts ⟨hd, .none, .v 8, .v 4, .w, 0⟩) (fun g => { g with reds := 1 }) (fun g c => passes g c 6) = true := by
  decide +kernel
def formsOf (p : Instr → Bool) : List Instr := (allWords.map Prod.snd).filter p
theorem witness_modes : (formsOf privileged).all (fun i => stage i id fun _ c => !c.g.hmode) = true ∧
    (formsOf handlerForbidden).all (fun i => stage i (fun g => { g with hmode := true }) fun _ c => c.g.hmode) = true ∧
    (formsOf privileged).length = 6 ∧ (formsOf handlerForbidden).length = 17 := by decide +kernel

-- Memory words: a check of lanes that is ok, one that traps and one that misses; LDK through mapped and unmapped pages.
def addr64 (a : Nat) (g : Group) : Group := ss [(8, BitVec.ofNat 32 a), (9, BitVec.ofNat 32 (a / 2 ^ 32))] g
def isOk : Checked → Bool
  | .ok _ => true
  | _ => false
def isMiss : Checked → Bool
  | .miss _ => true
  | _ => false
def isTrap : Checked → Bool
  | .trap _ => true
  | _ => false
def checked (rule : Rule) (n a : Nat) (p : Checked → Bool) (s : State) (c : Ctx) : Bool :=
  c.g.active .always != 0 && decide (c.g.num64 (.s 8) 0 = a) && p (s.checkAll c rule n n [(0, a)])
def three (i : Instr) (rule : Rule) (n : Nat) : List Case :=
  [(i, mapped ∘ onG (addr64 0x1000), checked rule n 0x1000 isOk), (i, mapped ∘ onG (addr64 0x1001), checked rule n 0x1001 isTrap),
    (i, onG (addr64 0x1000), checked rule n 0x1000 isMiss)]
theorem witness_memory_words : ((three (.ld ⟨hd, 3, .none, .v 4, .s 8, .zero, .w, 0⟩) .ld 4 ++
    three (.ld ⟨hd, 3, .none, .s 4, .s 8, .zero, .x, 0⟩) .ld 8 ++ three (.ldk ⟨hd, 3, .none, .s 4, .s 8, .zero, .w, 0⟩) .ldk 4 ++
    three (.ldmrad ⟨hd, 3, .none, .v 4, .s 8, .zero, .s, 0⟩) .ld 4 ++ three (.st ⟨hd, .none, .s 8, .v 4, .w, 0⟩) .st 4 ++
    three (.stmrad ⟨hd, .s 8, .v 4, .s, 0⟩) .st 4 ++ three (.stp ⟨hd, .s 8, .v 4, .mid, .bf, 0⟩) .st 2 ++
    three (.atom ⟨hd, 1, .none, .v 4, .s 8, .v 7, .int .add, false⟩) .atom 4 ++ three (.atomcas ⟨hd, 1, .v 4, .s 8, .v 12, true⟩) .atom 8 ++
    three (.fatom ⟨hd, 0, .v 4, .s 8, .v 12, .hull, .s⟩) .atom 8 ++
    three (.red ⟨hd, .none, .s 8, .v 7, .maxu, false⟩) .atom 4 ++ three (.fred ⟨hd, .s 8, .v 6, .add, .s⟩) .atom 8) ++
    [(.lds ⟨hd, 0, .none, .v 4, .v 9, .zero, .w, 0⟩, id, fun _ c => c.g.active .always != 0),
     (.sts ⟨hd, .none, .v 9, .v 4, .x, 0⟩, id, fun _ c => c.g.active .always != 0),
     (.pref ⟨hd, .none, .s 8, .zero, true, 0⟩, id, fun _ _ => true), (.pref ⟨hd, .none, .s 8, .zero, false, 0⟩, mapped, fun _ _ => true)] :
    List Case).all meets = true := by decide +kernel
/-- The places a check finds for lane 0 are memory of this package, or of another. -/
def remoteIs (b : Bool) (s : State) (c : Ctx) : Bool :=
  match s.checkAll c .atom 4 4 [(0, 0x1000)] with
  | .ok l => l.all (fun e => isRemote e.2.2 == b) && !l.isEmpty
  | _ => false
theorem witness_remote : ([(.atom ⟨hd, 1, .none, .v 4, .s 8, .v 7, .int .add, false⟩, mapped ∘ onG (addr64 0x1000), remoteIs false),
    (.atom ⟨hd, 1, .none, .v 4, .s 8, .v 7, .int .add, false⟩, mapped 0x93 ∘ onG (addr64 0x1000), remoteIs true)] :
    List Case).all meets = true := by decide +kernel
-- WidthsAndPlaces: 1, 2 and 16 bytes; the end of the allocation, one byte beyond it, a misaligned address, bits [47:32], a rank
-- outside the cluster, at 4 bytes of a team of 2,048.
def padRule (ea : Nat) : Bool := Rule.ld.scratch && decide (ea / 2 ^ 48 = 0xFFFE)
theorem witness_apertures : [0xFFFE0001FF000000, 0xFFFE0000FF0007FD, 0xFFFE0000FF0007FC, 0xFFFE0000FF0007FA, 0xFFFE000001000000].all padRule =
      true ∧ samplePacket.granules * 2048 = 2048 ∧ 0xFFFE0001FF000000 / 2 ^ 32 % 2 ^ 16 ≠ 0 ∧
    2048 < 0xFFFE0000FF0007FD % 2 ^ 24 + 4 ∧ 0xFFFE0000FF0007FC % 2 ^ 24 + 4 ≤ 2048 ∧ 0xFFFE0000FF0007FC % 4 = 0 ∧
    0xFFFE0000FF0007FA % 4 ≠ 0 ∧ samplePacket.cluster ≤ 0xFFFE000001000000 / 2 ^ 24 % 2 ^ 8 ∧ sampleTeam.rank ≠ 1 ∧
    ([0x80] : List Byte).length = 1 ∧ ([1, 2] : List Byte).length = 2 ∧ (List.replicate 16 (1 : Byte)).length = 16 := by decide +kernel
-- StoreWords and LoadsLeaveMemory: places that meet, on lines that are not commutative, in memory that exists.
def twoPlaces : List (Nat × Nat × Place) := [(0, 0x1000, .mem 0x1000 none), (1, 0x1002, .mem 0x1002 none)]
def plainAt (s : State) (e : Nat × Nat × Place) : Bool :=
  match e.2.2 with
  | .mem loc _ => decide ((s.lineAt (leaseKey (s.fwd loc))).comm = none) && s.inCarve (s.fwd loc + 3) && e.2.2.atHome
  | _ => false
theorem witness_places : twoPlaces.all (plainAt (start (.movi hd (.v 4) 3))) = true ∧
    ((start (.movi hd (.v 4) 3)).ctx? 0).map Ctx.g = (start (.movi hd (.v 4) 3)).group? 0 := by decide +kernel
-- AtomicWords: an operand of every width at its ends; a compare that fails and one that does not.
theorem witness_elements : (2 ^ 32 - 1 < 2 ^ 32) ∧ (0x1000 < devTop * 4) ∧ (0x1000 % (ElemOp.cas true).size = 0) ∧
    (List.range 8).all (fun i => State.reset.inCarve (0x1000 + i) && State.reset.inCarve (State.reset.fwd 0x1000 + i)) = true ∧
    (ElemOp.cas true).new (State.reset.natAt 0x1000 8) 1 5 = none ∧ (ElemOp.cas true).new (State.reset.natAt 0x1000 8) 0 5 = some 5 := by
  decide +kernel
-- ReductionWords: two partials of one element, in ascending die order.
def commLine : Line := { wts := 3, rts := 5, comm := some ⟨.int .add false, [(0, 0x1000, 4), (2, 0x1000, 5)], 9⟩ }
theorem witness_merge : (({ State.reset with lines := [(0x20, commLine)] } : State).lineAt 0x20).comm =
      some ⟨.int .add false, [(0, 0x1000, 4), (2, 0x1000, 5)], 9⟩ ∧
    ([(0, 0x1000, 4), (2, 0x1000, 5)] : List (Nat × Nat × Nat)).Pairwise (fun p q => p.1 < q.1) ∧
    ((State.reset.lineAt (leaseKey (State.reset.fwd 0x1000))).comm = none) := by decide +kernel
-- Barriers: without and with a lane active, an access under way, counts refused, a repeated arrival and a first one; the
-- phases of BARW; an arrival that completes the phase and one that does not.
def bar (h : Hd) : Instr := .bar h .none (.s 4) 9
def holdsBar (b : Barrier) : State → State := onT fun t => { t with bars := sput {} t.bars 9 b }
def barIs (f : Barrier → Bool) (s : State) (c : Ctx) : Bool := f (s.barrier c.t false 9)
def guardT : Hd := ⟨false, .on 1 .t⟩
theorem witness_barriers : ([(bar guardT, id, fun _ c => c.g.active guardT.g == 0 && guardT.g != .always),
    (bar hd, onG (fun g => { g with xfers := 1 }), fun _ c => c.g.memBusy),
    (bar hd, onG (ss [(4, 2)]), fun _ c => !c.g.memBusy && c.pk.groups < (c.g.src32 (.s 4) 0).toNat),
    (bar hd, holdsBar { need := some 1 }, barIs fun b => b.need == some 1),
    (bar hd, holdsBar { need := some 0, arrived := 1, count := 1 }, barIs fun b => b.arrived.testBit 0 && b.need == some 0),
    (bar hd, id, fun s c => barIs (fun b => !b.arrived.testBit 0 && b.need == none) s c && !(s.armed c.pk 1) &&
      s.barLive c.t false == [0]),
    (bar hd, onP (fun p => { p with groups := 2 }) ∘ onG (ss [(4, 2)]), fun s c => barIs (fun b => b.count + 1 < 2) s c &&
      (c.g.src32 (.s 4) 0).toNat ≤ c.pk.groups),
    (.barc hd 3, id, fun s c => (s.team? c.t.lead).isSome), (.bara hd .none (.s 5) (.s 4) 9, id, fun _ _ => true),
    (.barw guardT .none (.s 4) 9, id, fun _ c => c.g.active guardT.g == 0),
    (.barw hd .none (.s 4) 9, id, barIs fun b => b.ph == 0), (.barw hd .none (.s 4) 9, onG (ss [(4, 1)]), barIs fun b => 2 ^ 31 ≤ (b.ph - 1).toNat),
    (.barw hd .none (.s 4) 9, holdsBar { ph := 1 }, barIs fun b => b.ph == 1),
    (.barw hd .none (.s 4) 9, holdsBar { ph := 0x7FFFFFFF }, barIs fun b => b.ph.toNat < 2 ^ 31 && b.ph != 1)] :
    List Case).all meets = true := by decide +kernel
/-- A group that waits at the barrier while the last arrives. -/
def waiting : Group := { sampleGroup 0 with idx := 1, stall := some (.barrier 9) }
def lastArrival : State :=
  (onP (fun p => { p with groups := 2 }) (onT (fun t => { t with slots := [0, 1] }) (issued (bar hd)))).setGroup 1 waiting
theorem witness_release : (lastArrival.team? 1).map Team.gids = some [0, 1] ∧
    (lastArrival.group? 1).map Group.stall = some (some (.barrier 9)) := by decide +kernel
-- QueueWords: unbound, of the other kind, with no lane active, full or empty, locked, and free.
def queued (q : Queue) : State → State := onT fun t => { t with queues := sput {} t.queues 6 q }
def lockAll (s : State) : State := { s with locks := [⟨1, true, 0, 2 ^ 60⟩] }
def queueIs (f : Queue → Bool) (_ : State) (c : Ctx) : Bool := f (c.t.queue 6)
def q1 : Queue := { kind := 1, base := 64, depth := 3, wr := 2, times := [1, 2] }
def push : Instr := .movQueuePush hd 6 (.s 8)
def pop : Instr := .movQueuePop hd (.s 9) 6
theorem witness_queues : ([(push, id, queueIs fun x => x.kind == 0), (push, queued { q1 with kind := 2 }, queueIs fun x => x.kind == 2),
    (push, queued q1 ∘ onG (fun g => { g with mask := 0 }), fun _ c => c.g.active .always == 0 && (c.t.queue 6).kind == 1),
    (push, queued { q1 with wr := 3 }, queueIs fun x => x.depth ≤ x.wr - x.rd),
    (push, lockAll ∘ queued q1, fun s c => s.locked true (c.t.scratch 72) 4 && (c.t.queue 6).wr == 2),
    (push, queued q1, fun s c => !(s.locked true (c.t.scratch 72) 4) && (c.t.queue 6).kind == 1),
    (pop, id, queueIs fun x => x.kind == 0), (pop, queued { q1 with kind := 2 }, queueIs fun x => x.kind == 2),
    (pop, queued q1 ∘ onG (fun g => { g with mask := 0 }), fun _ c => c.g.active .always == 0),
    (pop, queued { q1 with wr := 0 }, queueIs fun x => x.wr ≤ x.rd && x.kind == 1),
    (pop, lockAll ∘ queued q1, fun s c => s.locked false (c.t.scratch 64) 4),
    (pop, queued q1, fun s c => !(s.locked false (c.t.scratch 64) 4) && (c.t.queue 6).rd < (c.t.queue 6).wr),
    (.qmap guardT .s 6 (.s 4) (.s 5), id, fun _ c => c.g.active guardT.g == 0),
    (.qmap hd .s 6 (.s 4) (.s 5), onG (ss [(4, 2044), (5, 1)]), fun _ c => 2044 + 4 ≤ c.pk.granules * 2048),
    (.qmap hd .v 6 (.s 4) (.s 5), onG (ss [(4, 128), (5, 16)]), fun _ c => c.pk.granules * 2048 < 128 + 128 * 16),
    (.qmap hd .off 6 .zero .zero, id, fun _ _ => true),
    (.qtry hd 1 6 true, queued q1, queueIs fun x => x.kind != 0)] : List Case).all meets = true ∧
    q1.rd < q1.depth ∧ q1.rd < q1.wr := by decide +kernel
-- MonitorWaits: no lane active; the value read, equal and not, with an entry free or none; the flags of an event.
def word16 (l : List Nat) (s : State) : State := { s with mem := l.zipIdx.flatMap fun e => ((List.range 4).filterMap fun k =>
  if (leBytes 4 e.1).getD k 0 = 0 then none else some (0x1000 + 4 * e.2 + k, (leBytes 4 e.1).getD k 0)) }
def noMonitor (s : State) : State := { s with monitors := List.replicate 256 ⟨0, 1, 5, 0⟩ }
def waitv : Instr := .waitv hd .none 1 (.s 8) (.reg (.s 5))
def dwait : Instr := .dwait hd .none 1 (.s 8) (.reg (.s 5))
def finds (rule : Rule) (n v : Nat) (free mine : Bool) (s : State) (c : Ctx) : Bool :=
  isOk (s.checkAll c rule n n [(0, 0x1000)]) && s.natAt (s.fwd 0x1000) n == v && s.monitorFree 0 == free && c.g.waitMon == mine
theorem witness_monitors : ([(waitv, onG fun g => { g with mask := 0 }, fun _ c => c.g.active .always == 0),
    (waitv, word16 [7] ∘ mapped ∘ onG (addr64 0x1000), finds .wait 4 7 true false),
    (waitv, mapped ∘ onG (addr64 0x1000), finds .wait 4 0 true false),
    (waitv, noMonitor ∘ mapped ∘ onG (addr64 0x1000), finds .wait 4 0 false false),
    (waitv, noMonitor ∘ mapped ∘ onG (fun g => { addr64 0x1000 g with waitMon := true }), finds .wait 4 0 false true),
    (dwait, onG fun g => { g with mask := 0 }, fun _ c => c.g.active .always == 0),
    (dwait, word16 [0, 0, 0, 5] ∘ mapped ∘ onG (addr64 0x1000), finds .dwait 16 (5 * 2 ^ 96) true false),
    (dwait, word16 [0, 0, 0, 1] ∘ mapped ∘ onG (addr64 0x1000), finds .dwait 16 (2 ^ 96) true false),
    (dwait, word16 [0, 0, 0, 2] ∘ mapped ∘ onG (addr64 0x1000), finds .dwait 16 (2 * 2 ^ 96) true false),
    (dwait, word16 [0, 9, 0, 1] ∘ mapped ∘ onG (addr64 0x1000), finds .dwait 16 (2 ^ 96 + 9 * 2 ^ 32) true false),
    (dwait, mapped ∘ onG (addr64 0x1000), finds .dwait 16 0 true false),
    (dwait, noMonitor ∘ mapped ∘ onG (addr64 0x1000), finds .dwait 16 0 false false)] : List Case).all meets = true := by decide +kernel

-- Engines: a descriptor in S8 on, with a row count in S20: no lane active, a field refused, a range unmapped, source and
-- destination that meet, a tag pending or with a Dense Fallback, a lock in the way, and free.
def desc (l : List Word) : State → State := onG (ss ((20, 1) :: l.zipIdx.map fun e => (8 + e.2, e.1)))
def copyDesc (src rowLen : Word) : State → State := desc [0x1000, 0, src, 0, rowLen, 1, 0, 0]
def xcopy : Instr := .xcopy ⟨hd, .s 8, .s 20, 3⟩
def xfill : Instr := .xfill ⟨hd, .s 8, .s 20, 3⟩
def tagged (t : Tag) : State → State := onT fun u => { u with tags := sput {} u.tags 3 t }
def idle (h : Hd) (_ : State) (c : Ctx) : Bool := c.g.active h.g == 0
def masked0 : State → State := onG fun g => { g with mask := 0 }
def rangesAre (src : Nat) (ok : Bool) (s : State) (c : Ctx) : Bool :=
  decide (s.checkRanges c [⟨.xdst, 0x1000, 4⟩, ⟨.xsrc, src, 4⟩] = .ok) == ok && c.g.getS 12 == 4 && c.g.getS 8 == 0x1000
def locksTo (b : Bool) (s : State) (c : Ctx) : Bool := rangesAre 0x2000 true s c && s.mayLock [(true, 32, 32), (false, 64, 64)] == b &&
  (c.t.tag 3).st != .pending && !(c.t.tag 3).denseFor c.g.idx
theorem witness_engines : ([(xcopy, masked0, idle hd), (xfill, masked0, idle hd),
    (xcopy, copyDesc 0x2000 0, fun _ c => c.g.getS 12 == 0), (xcopy, copyDesc 0x2000 1048580, fun _ c => 1048576 < (c.g.getS 12).toNat),
    (xfill, copyDesc 0 2, fun _ c => (c.g.getS 12).toNat % 4 != 0),
    (xcopy, copyDesc 0x2000 4, rangesAre 0x2000 false), (xcopy, mapped ∘ copyDesc 0x1000 4, rangesAre 0x1000 true),
    (xcopy, tagged { st := .pending } ∘ mapped ∘ copyDesc 0x2000 4, fun s c => rangesAre 0x2000 true s c && (c.t.tag 3).st == .pending),
    (xcopy, tagged { st := .set, denses := [some 0] } ∘ mapped ∘ copyDesc 0x2000 4, fun _ c => (c.t.tag 3).denseFor c.g.idx),
    (xcopy, lockAll ∘ mapped ∘ copyDesc 0x2000 4, locksTo false), (xcopy, mapped ∘ copyDesc 0x2000 4, locksTo true),
    (xfill, mapped ∘ copyDesc 0x2000 4, locksTo true)] : List Case).all meets = true ∧
    ((issued xcopy).team? 1).isSome = true := by decide +kernel
-- TagWords: an any-wait and an all-wait by what their masked tags are.
def xwait (all : Bool) : Instr := .xwait hd 1 (.s 30) all
def masks (m : Word) : State → State := onG (ss [(30, m)])
def tagsAre (m : Word) (st : List TagState) (_ : State) (c : Ctx) : Bool :=
  c.g.getS 30 == m && [3, 4].map (fun n => (c.t.tag n).st) == st && c.pk.tags == 16 && [3, 4].all fun n => !(c.t.tag n).denseFor c.g.idx
theorem witness_tags : ([(xwait true, masked0, idle hd), (xwait false, masks 0x18 ∘ tagged { st := .set, time := 9 }, tagsAre 0x18 [.set, .clear]),
    (xwait false, masks 0x18, tagsAre 0x18 [.clear, .clear]), (xwait false, masks 0, tagsAre 0 [.clear, .clear]),
    (xwait true, masks 8 ∘ tagged { st := .set, time := 9 }, tagsAre 8 [.set, .clear]),
    (xwait true, masks 0x18 ∘ tagged { st := .set, time := 9 }, tagsAre 0x18 [.set, .clear]),
    (xwait false, masks 0x18 ∘ tagged { st := .pending }, tagsAre 0x18 [.pending, .clear]),
    (xwait true, masks 0x18 ∘ tagged { st := .pending }, tagsAre 0x18 [.pending, .clear]),
    (.xtest hd (.s 4) (.s 30), masked0, idle hd), (.xtest hd (.s 4) (.s 30), masks 0x18, tagsAre 0x18 [.clear, .clear]),
    (.xtest hd (.s 4) (.s 30), masks 0x18 ∘ tagged { st := .set, time := 9 }, tagsAre 0x18 [.set, .clear]),
    (.xclear hd (.s 30), masked0, idle hd), (.xclear hd (.s 30), masks 0x18 ∘ tagged { st := .set }, tagsAre 0x18 [.set, .clear])] :
    List Case).all meets = true := by decide +kernel
-- MatrixWords: an engine with room for one more, and one with none; tile loads with their line mapped; MatrixEncloses: members.
def matOp (w : Instr) : MatOp := { id := 1, group := 0, word := w, pc := 0, active := 1, locs := [], time := 0 }
def mma : Instr := .mma ⟨hd, 0, 3, .v 0, .v 32, 0, .b512, .f32⟩
def engineOf (n : Nat) : State → State := onK fun k => { k with engine := List.replicate n (matOp mma) }
def engineIs (n : Nat) (s : State) (c : Ctx) : Bool := (s.coreAt 0).engine.length == n && c.g.active .always != 0
def matrixForms : List Instr := [mma, .mmax ⟨hd, 1, 3, .v 0, .v 32, 0, .b128, .bf16⟩, .zclr hd 3 .d, .zget hd 0 16 3 .d,
  .zput hd 3 (.v 16) .s, .scld hd 0 (.scale .none (.s 4))]
def loadForms : List Instr := [.zld hd 2 3 (.s 8) .s, .zst hd 3 (.s 8) .s, .scld hd 0 (.all .none (.s 8) (.s 4)), .scld hd 0 (.aexp (.s 8)),
  .scld hd 0 (.bexp (.s 8))]
def onPage : State → State := onP (fun p => { p with acc := 16 }) ∘ mapped ∘ onG (addr64 0x1000)
theorem witness_matrix : ((matrixForms ++ loadForms).flatMap fun i => ([(i, onP (fun p => { p with acc := 16 }) ∘ masked0, idle hd),
    (i, engineOf 8 ∘ onPage, engineIs 8), (i, engineOf 7 ∘ onPage, engineIs 7)] : List Case)).all meets = true ∧
    (loadForms.map fun i => ((i, onPage, fun s c => isOk (s.checkAll c (if i = .zst hd 3 (.s 8) .s then .zwrite else .zread) 128 128
      ((List.range 4).map fun k => (k, 0x1000 + 128 * k)))) : Case)).all meets = true := by decide +kernel
def holds (x : Ival) (q : Rat) : Bool :=
  match x with
  | .empty => false
  | .mk lo hi => lo.le (.fin q) && (Ext.fin q).le hi
theorem holds_has (x : Ival) (q : Rat) (h : holds x q = true) : x.has q := by
  cases x with
  | empty => cases h
  | mk lo hi => simpa [holds, Ival.has] using h
theorem witness_tile : (let o : OpMma := ⟨hd, 0, 3, .v 0, .v 32, 0, .b512, .f32⟩;
    holds (sampleTeam.tileElem 3 9) 0 && holds (Ival.ofPt b32 (b32.dec (sampleTeam.scaleWord 0).toNat)) 1 &&
      (List.range (mmaK o.fmt (depBytes o.dep))).all fun p =>
        holds ((operandRow false b32 o [(0, 0x3F800000)] (fun b => sampleTeam.expByte 0 b) 0 0).getD p .empty) (if p = 0 then 1 else 0)) =
    true := by decide +kernel
-- ForkWords: without a pool; no lane active; pushes refused, waiting, none to make, made and faulting; takes and ends.
def pooled (n : Nat) (trap : Bool) : State → State :=
  onP fun p => { p with poolEnt := 4, poolFb := 8, poolN := 4, spillEnt := n, pxen := trap, arena := 0x100000, scratch := 1024 }
def holding (n : Nat) : State → State := onT fun t => { t with pool := (List.range n).map fun k => ⟨k, 5, 0⟩ }
/-- Two levels of table at 0x10000 that map every address below 2^42 to itself. -/
def paged (s : State) : State := { s with
  mem := [(0x10000, 0x01), (0x10002, 0x02), (0x20000, 0x33)], host := { s.host with ptRoot := 0x10000 } }
def spawn : Instr := .spawn hd 2 (.v 8) 3
def pushes (c : Ctx) (n : Nat) : Bool := pushCount (c.pk.poolEnt - c.t.resvPool) 32 c.t.pool.length (c.t.spillFree c.pk) == n
def doesPush (n : Nat) (ok : Bool) (s : State) (c : Ctx) : Bool :=
  pushes c n && c.t.poolFree c.pk != 0 && match s.doPushes c (((lanesOf (c.g.active .always)).map fun l =>
    (l, taskBytes 3 (c.g.frame 8 c.pk.poolN l))).take n) with
  | .ok _ => ok
  | .error _ => !ok
def take : Instr := .take hd 2 5
def takes (w : Option Stall) (ok : Bool) (s : State) (c : Ctx) : Bool :=
  decide (s.takeWait c 5 = w) && match s.takeAct c (c.g.active .always) 2 5 with
  | .ok _ => ok
  | .error _ => !ok
def hasTasks : State → State := onG fun g => { g with h := 3 }
def ends (ok : Bool) (s : State) (c : Ctx) : Bool := c.g.h == 3 && match s.endTasks c (c.g.active .always) with
  | .ok _ => ok
  | .error _ => !ok
def spilled5 (s : State) : State := onT (fun t => { t with spill := [⟨0, 1, 5⟩] }) { s with mem := s.mem ++ [(0x100040, 5)] }
theorem witness_fork : ((forkWords.flatMap fun e => ([(e.2, masked0, idle hd), (e.2, id, fun _ c => c.pk.poolEnt == 0 && c.g.active .always != 0)] :
      List Case)) ++ [
    (spawn, pooled 0 true, fun _ c => c.pk.pxen && pushes c 4),
    (spawn, holding 4 ∘ pooled 2 false, fun _ c => pushes c 2 && c.t.poolFree c.pk == 0 && !c.g.poolTry),
    (spawn, holding 4 ∘ pooled 0 false, fun _ c => pushes c 0),
    (spawn, paged ∘ pooled 0 false, doesPush 4 true), (spawn, pooled 0 false, doesPush 4 false),
    (.split hd 2 1, pooled 0 false, fun _ c => (splitPushes c 0xFFFFFFFF 1).length == 0),
    (.split hd 2 1, paged ∘ onG (vs 11 [0x3FF00000]) ∘ pooled 0 false, fun _ c => (splitPushes c 0xFFFFFFFF 1).length == 1),
    (take, holding 1 ∘ paged ∘ pooled 0 false, takes none true), (take, hasTasks ∘ pooled 0 false, takes none false),
    (take, spilled5 ∘ paged ∘ pooled 2 false, fun s c => s.takeWait c 5 == some (.poolRefill 5)),
    (.tend hd, hasTasks ∘ paged ∘ pooled 0 false, ends true), (.tend hd, hasTasks ∘ pooled 0 false, ends false),
    (.poolq hd (.s 4) .tasks, pooled 0 false, fun _ c => c.pk.poolEnt != 0)]).all meets = true := by decide +kernel
-- CellsAndSeals: generations that match and do not, open and sealed; the generation's ends; local, remote, trapped and missing.
def cellAt (gen : Nat) (isSealed : Bool) : Nat := gen * 2 ^ 48 + if isSealed then 2 ^ 46 else 0
theorem witness_cells : (65535 < 2 ^ 16) ∧ cellAt 65535 true / 2 ^ 48 % 2 ^ 16 = 65535 ∧ cellAt 65535 true / 2 ^ 46 % 4 ≠ 0 ∧
    cellAt 0x7FFF false / 2 ^ 46 % 4 = 0 ∧ cellAt 0 true / 2 ^ 48 % 2 ^ 16 ≠ 65535 := by decide +kernel
def sealForms : List Instr := [.seal ⟨hd, 0, .none, 1, .s 8, .v 8, .v 10⟩, .seal ⟨hd, 0, .none, 1, .s 8, .s 10, .s 12⟩,
  .peek ⟨hd, 2, .c, 1, .s 8, .v 8, .v 10⟩, .reopen hd 0 .none 3 (.s 8) (.s 10), .cinit hd .none (.s 8) (.v 10)]
def sealChecks (a : Nat) (p : Checked → Bool) (s : State) (c : Ctx) : Bool :=
  decide (c.g.num64 (.s 8) 0 = a) && p (s.checkAll c .seal 16 16 [(0, a)])
def allRemote (b : Bool) : Checked → Bool
  | .ok l => l.all fun e => isRemote e.2.2 == b
  | _ => false
theorem witness_seals : (sealForms.flatMap fun i => ([(i, masked0, idle hd),
    (i, mapped 0x43 ∘ onG (addr64 0x1000), sealChecks 0x1000 (allRemote false)),
    (i, mapped 0xC3 ∘ onG (addr64 0x1000), sealChecks 0x1000 (allRemote true)),
    (i, mapped ∘ onG (addr64 0x1000), sealChecks 0x1000 isTrap), (i, onG (addr64 0x1000), sealChecks 0x1000 isMiss)] :
    List Case)).all meets = true := by decide +kernel
-- Coves: a descriptor of 64 elements and 16 buckets: no lane active, not loaded, refused, stale and current, a token and a tag
-- refused, a lock in the way, and room; an append to a bucket whose block has room.
def coveWords' : List Nat := [0x40, 0, 1, 0, 0, 4, 128, 0, 0x2000, 0, 0x3000, 0, 0x4000, 0, 0, 0, 0x5000]
def coveImage : List Byte := padTo 128 (coveWords'.flatMap fun n => leBytes 4 n)
def slotOf (stale : Bool) : CoveSlot :=
  { loaded := true, addr := 0x1000, image := coveImage, pages := [(0, 0)], stale := stale }
def withSlots (x : CoveSlot) : State → State := onT fun t => { t with coves := [(0, x), (1, x), (2, x)] }
def slotIs (f : CoveSlot → Bool) (s : State) (c : Ctx) : Bool :=
  let x := c.t.cove 1
  x.loaded && f x && (!x.stale || decide (s.checkRanges c x.ranges = .ok)) && x.keyRegs == 1 && decide (16 + x.keyRegs ≤ c.pk.regs)
def ktable : Instr := .ktable hd 0 (.s 8)
def coveForms : List Instr := [.kstore hd .none 1 (.v 16) (.s 20), .ksign hd 1 (.s 4) (.v 16) 1, .kgather hd 2 (.v 16) (.s 8) 1 5,
  .kclear hd .none (.s 20) 0 1 5]
def kclear (t : BitVec 2) : Instr := .kclear hd .none (.s 20) t 1 5
def kgather : Instr := .kgather hd 2 (.v 16) (.s 8) 1 5
def askFor (cap n : Word) : State → State := onG (ss [(8, 0xFF000000), (9, 0xFFFE0000), (10, cap), (11, n)])
theorem witness_coves : ([(ktable, masked0, idle hd),
    (ktable, word16 coveWords' ∘ mapped ∘ onG (addr64 0x1000), fun s c => isOk (s.checkAll c (.key false) 128 128 [(0, 0x1000)]) &&
      !({ addr := 0x1000, image := coveImage } : CoveSlot).bad && decide (s.checkRanges c (slotOf false).ranges = .ok)),
    (ktable, mapped ∘ onG (addr64 0x1000), fun _ _ => ({ addr := 0x1000, image := List.replicate 128 0 } : CoveSlot).bad)] ++
    (coveForms.flatMap fun i => ([(i, masked0, idle hd), (i, id, fun _ c => !(c.t.cove 1).loaded && c.g.active .always != 0),
      (i, withSlots (slotOf false), slotIs fun x => !x.stale), (i, mapped ∘ withSlots (slotOf true), slotIs fun x => x.stale)] : List Case)) ++
    [(.kstore hd .none 1 (.v 16) (.s 20), mapped ∘ withSlots (slotOf false) ∘ onG (ss [(20, 4)]), slotIs fun x => x.tokMax == 4),
     (.kstore hd .none 1 (.v 16) (.s 20), mapped ∘ withSlots (slotOf false) ∘ onG (ss [(20, 3)]), fun s c => slotIs (fun x => 3 < x.tokMax) s c &&
       isOk (s.checkAll c (.key true) 128 128 [(0, 0x2000 + 3 * 128)])),
     (.ksign hd 1 (.s 4) (.v 17) 1, withSlots (slotOf false), fun _ _ => keyBase (.v 17) % 4 != 0),
     (kgather, askFor 0 1 ∘ withSlots (slotOf false), fun _ c => (c.g.src (.s 8) 0 2).toNat == 0),
     (kgather, askFor 65535 0 ∘ withSlots (slotOf false), fun _ c => (c.g.src (.s 8) 0 2).toNat == 65535),
     (kgather, lockAll ∘ mapped ∘ askFor 2 1 ∘ withSlots (slotOf false), fun s _ => !(s.mayLock [(true, 2 ^ 45, 2 ^ 45)])),
     (kgather, mapped ∘ askFor 2 1 ∘ withSlots (slotOf false), fun s c => s.mayLock [(true, 2 ^ 45, 2 ^ 45)] &&
       (match s.gatherDest c 0xFFFFFFFF 0xFFFE0000FF000000 12 .translate with
         | .ok a => a == 2 ^ 52
         | .error _ => false)),
     (kclear 1, withSlots (slotOf false), slotIs fun x => x.tables == 1),
     (kclear 0, lockAll ∘ withSlots (slotOf false) ∘ onG (ss [(20, 16)]), fun s _ => !(s.mayLock [(true, 0xA0, 0xA0)])),
     (kclear 0, withSlots (slotOf false) ∘ onG (ss [(20, 16)]), fun s c => slotIs (fun x => 2 ^ x.bits ≤ 16) s c && s.mayLock [(true, 0xA0, 0xA0)])]
    : List Case).all meets = true := by decide +kernel
def appendable : State := { State.reset with mem := [(0x3004, 13)] }
theorem witness_append : (let x := slotOf false;
    appendable.natAt (appendable.fwd (x.entry 0 5)) 8 / 2 ^ 32 % 2 ^ 31 = 0 ∧ appendable.natAt (appendable.fwd (x.block 0) + 4) 1 = 13 ∧
      0 < x.poolCount ∧ appendable.lines = []) := by decide +kernel
-- DistributorWords: no lane active, no work items, a tag beyond the launch, a slot outside the scratchpad window, a full FIFO,
-- room; an event at an address mapped and not, and a packet without events.
def dqnext : Instr := .dqnext hd .none (.s 20) 2
def items (e : Nat) : State → State := onP fun p => { p with items := 7, events := BitVec.ofNat 64 e }
def slotAt (a : Word) : State → State := onG (ss [(20, a)])
def fullFifo (s : State) : State := s.modDist fun d => { d with fifo := List.replicate 256 ⟨0, none, none⟩ }
def roomIs (b : Bool) (s : State) (_ : Ctx) : Bool := s.fifoRoom == b
theorem witness_distributor : ([(dqnext, masked0, idle hd), (dqnext, id, fun _ c => c.pk.items == 0),
    (.dqnext hd .none (.s 20) 16, items 0, fun _ c => c.pk.tags ≤ 16 && c.pk.items != 0),
    (dqnext, slotAt 0xFE000000 ∘ items 0, fun _ c => (c.g.getS 20).toNat / 2 ^ 24 != 255),
    (dqnext, slotAt 0xFF000004 ∘ items 0, fun s c => isTrap (s.checkAll c slotRule 8 8 [(0, 0xFFFE0000FF000004)])),
    (dqnext, fullFifo ∘ slotAt 0xFF000000 ∘ items 0, roomIs false),
    (dqnext, slotAt 0xFF000000 ∘ items 0, fun s c => roomIs true s c && isOk (s.checkAll c slotRule 8 8 [(0, 0xFFFE0000FF000000)])),
    (.dqdone hd .none (.s 20), masked0, idle hd), (.dqdone hd .none (.s 20), id, fun _ c => c.pk.items == 0),
    (.dqdone hd .none (.s 20), fullFifo ∘ items 0, roomIs false), (.dqdone hd .none (.s 20), items 0, roomIs true),
    (.devent hd .none (.s 20), masked0, idle hd), (.devent hd .none (.s 20), fullFifo, roomIs false),
    (.devent hd .none (.s 20), id, fun _ c => c.pk.events == 0),
    (.devent hd .none (.s 20), paged ∘ items 0x30000, fun s c => c.pk.events != 0 && match s.hwStore 0x30000 [1] 0 with
      | .ok _ => true
      | .error _ => false),
    (.devent hd .none (.s 20), items 0x30000, fun s _ => match s.hwStore 0x30000 [1] 0 with
      | .ok _ => false
      | .error _ => true)] : List Case).all meets = true := by decide +kernel
-- SystemWords: each register read; writes taken and refused; HALT with the log full and with room; TLBI; PROBE.
def inHandler : State → State := onG fun g => { g with hmode := true }
def sysRegs : List SysReg := [.tvec, .tpc, .tmask, .tcause, .taddr, .tpte, .tsave, .ptroot, .physview, .framepool, .mcinfo, .mcaddr,
  .nbmode, .lease, .tidemark]
def fullLog (s : State) : State := s.modDist fun d => { d with logCap := 8, logWr := 8 }
def writes (r : SysReg) (x : Word) : Case := (.mtsr hd r (.s 8), inHandler ∘ onG (ss [(8, x)]), fun _ c => c.g.num64 (.s 8) 0 == x.toNat)
theorem witness_system : ((sysRegs.map fun r => ((.mfsr hd (.v 4) r, inHandler, fun _ _ => true) : Case)) ++
    [writes .tvec 8, writes .tvec 4, writes .nbmode 2, writes .nbmode 3, writes .lease 0x10000, writes .lease 1, writes .tpc 12,
     writes .tmask 1, writes .tcause 1, writes .tsave 1, (.mtsr hd .tvec (.s 8), masked0 ∘ inHandler, idle hd),
     (.halt hd 7, masked0 ∘ inHandler, idle hd), (.halt hd 7, fullLog ∘ inHandler, fun s _ => !(s.abortRoom 1)),
     (.halt hd 7, inHandler, fun s _ => s.abortRoom 1), (.tlbf hd (.s 8), mapped ∘ inHandler, fun _ _ => true),
     (.tlbi hd .none (.s 8) (.reg (.s 10)), masked0 ∘ inHandler, idle hd),
     (.tlbi hd .none (.s 8) (.reg (.s 10)), inHandler ∘ onG (addr64 0x1000), fun _ c => c.g.num64 (.s 8) 0 % 65536 != 0),
     (.tlbi hd .none (.s 8) (.reg (.s 10)), inHandler ∘ onG (addr64 0x10000), fun _ c => c.g.num64 (.s 8) 0 % 65536 == 0),
     (.probe hd (.v 4) (.s 8), mapped ∘ inHandler ∘ onG (addr64 0x1000), fun s c => (s.probe c 0 0x1000).isSome),
     (.probe hd (.v 4) (.s 8), inHandler ∘ onG (addr64 0x1000), fun s c => (s.probe c 0 0x1000).isNone)]).all meets = true := by decide +kernel

/-! ## Witnesses of the statements about events -/

/-- A team of one group between runs; the group, the team and the whole changed. -/
def rest0 (f : State → State := id) : State := f { issued (.trap hd 7) with runs := [] }
def ctx0 (s : State) (P : Ctx → Bool) : Bool := ((s.ctx? 0).map P).getD false
def grp0 (s : State) (P : Group → Bool) : Bool := ((s.group? 0).map P).getD false
def fits (l : List Bool) : Bool := l.all id
def isErr {α : Type} : Except TrapInfo α → Bool
  | .ok _ => false
  | .error _ => true
def setStall (w : Stall) : State → State := onG fun g => { g with stall := some w }

-- RunEvents.
def fetchable : State := rest0 (mapped ∘ onG fun g => { g with ibuf := none })
def grantable : State := rest0 (onK fun k => { k with age := [[5, 0], [], [], []] })
def pendingOne : State := rest0 (onG fun g => { g with pends := [pendOf false] })
def mcInfo : TrapInfo := { cause := .machineCheck, detail := 1 }
def spiller : State := rest0 (setStall .divSpill ∘ mapped ∘ onP (fun p => { p with psSize := 4096 }) ∘
  onG fun g => { g with stack := List.replicate 16 plain })
def refiller : State := rest0 (setStall .divRefill ∘ mapped ∘ onP (fun p => { p with psSize := 4096 }) ∘ onG fun g => { g with spilled := 1 })
def walkOf (r : WalkResult) : State := rest0 fun s => { s with walks := [⟨0, 1, [0], r, [], [], []⟩] }
def invalidating : State := rest0 (setStall .tlbi ∘ fun s => { s with tlbis := [⟨some 0, [4]⟩] })
theorem witness_run_events : fits [
    grp0 fetchable (fun g => g.ibuf == none), !(fetchable.runs.contains 0), ctx0 fetchable fun c => decide (c.gid = 0),
    (fetchable.coreAt 0).tlb.any (fun t => t.covers 0x10000), 0x10000 % 8 == 0,
    !(grantable.schedBusy 0 0), (grantable.coreAt 0).asleep.isNone, grantable.ageOf 0 0 == [5, 0], !(grantable.eligible 5),
    grantable.eligible 0, (grantable.coreAt 0).age.length == 4,
    grp0 pendingOne (fun g => g.pends.any fun p => !p.done && p.outstanding == 0),
    grp0 (rest0 (onG fun g => { g with trapped := some mcInfo })) (fun g => !g.ended && !g.pending && g.trapped.isSome),
    grp0 (rest0 (onG fun g => { g with mcs := [(mcInfo, 0, 5)] })) (fun g => !g.pending && g.trapped.isNone && g.mcs != [] && !g.inWait),
    grp0 rest0 (fun g => !g.ended && g.trapped.isNone && g.mcs.isEmpty && !g.pending),
    ctx0 spiller (fun c => c.g.stall == some .divSpill && isOk (spiller.stackCheck c .st c.g.spilled)),
    ctx0 refiller (fun c => c.g.stall == some .divRefill && isOk (refiller.stackCheck c .ld (c.g.spilled - 1))),
    (walkOf (.leaf ⟨0x10000, 3, 0x10013⟩)).walks.length == 1, (walkOf (.fault .pageFault 2 0)).walks.length == 1,
    grp0 invalidating (fun g => g.stall == some .tlbi), invalidating.tlbis.length == 1, invalidating.ops == []] = true := by decide +kernel
-- PoolEvents.
def spillWait : State := rest0 (setStall .pool ∘ holding 4 ∘ paged ∘ pooled 2 false)
def refillWait' : State := rest0 (setStall (.poolRefill 5) ∘ spilled5 ∘ paged ∘ pooled 2 false)
def thieves (q : Steal) (n : Nat) : State := rest0 fun s => { pooled 2 false s with
  teams := [(1, sampleTeam), (2, { sampleTeam with index := 1, core := 1, pool := (List.range n).map fun k => ⟨k, 5, 0⟩ })], steals := [q] }
def q0 : Steal := { thief := 1, site := 0, pool := 1, spill := 1 }
def pool0 (s : State) : Option Packet := s.packet? 1
theorem witness_pool_events : fits [
    spillWait.poolWaiters 1 .pool == [0], (pool0 spillWait).any fun pk => (spillWait.team? 1).any fun t => t.poolFree pk == 0 &&
      spillRoom t.pool.length (t.spillFree pk) && !isErr (spillWait.spillTasks 1 pk 0 (halfOf t.pool.length)),
    refillWait'.poolWaiters 1 (.poolRefill 5) == [0], (pool0 refillWait').any fun pk => refillWait'.takeNeed 1 pk 5 == .refill &&
      !isErr (refillWait'.refillTasks 1 pk 5 0),
    (thieves q0 0).nextVictim q0 == some 2, (pool0 (thieves q0 0)).any fun pk => ((thieves q0 0).shipFrom 2 pk 0 2).1 == [],
    (pool0 (thieves q0 1)).any fun pk => ((thieves q0 1).shipFrom 2 pk 0 2).1 != [],
    (pool0 (thieves q0 0)).any fun pk => !isErr (((thieves q0 0).stealDone 0 q0).landSpill 1 pk []),
    (thieves { q0 with asked := [2] } 0).nextVictim { q0 with asked := [2] } == none] = true := by decide +kernel
-- MemoryEvents.
def ownedLine : State := rest0 fun s => { s with lines := [(0x20, { wts := 3, rts := 5, owner := some 2 })] }
def monitoring : State := rest0 (setStall .monitor ∘ fun s => { s with notices := [⟨0, 9⟩] })
def reducing : State := rest0 fun s => { s with reds := [⟨0, 0, .int .add false, 0x1000, 4, 9⟩] }
def remoteOf : Remote := { group := 0, core := 0, pc := 0x100, word := .sts ⟨hd, .none, .v 9, .v 4, .w, 0⟩, act := 1, acts := [], addr := 0x1000, pend := none }
def remoting : State := rest0 fun s => { s with remotes := [remoteOf] }
def replying : State := rest0 fun s => { s with replies := [⟨0, 0, 0x20, 1, some ⟨3, 5, 0, []⟩, none, false⟩] }
def sleeping : State := rest0 (onK fun k => { k with asleep := some ([], 0) })
theorem witness_memory_events : fits [
    replying.replies.length == 1, (rest0.slice 3).gen.toNat % 128 == 0, (rest0.coreAt 0).asleep.isNone, (sleeping.coreAt 0).asleep.isSome,
    rest0.runs.all (fun g => g / 48 != 0), grp0 rest0 fun _ => true, (rest0.lineAt (leaseKey (rest0.fwd 0x1000))).comm.isNone,
    0x107F % 128 + ([1] : List Byte).length == 128, (ownedLine.lineAt 0x20).owner == some 2, !(ownedLine.lineAt 0x20).evicting,
    ownedLine.fwd (0x20 * 128) == 0x20 * 128, (ownedLine.lineAt 0x20).comm.isNone, grp0 ownedLine fun _ => true,
    ownedLine.ownPackage (0x20 * 128), (sfind ownedLine.lines 0x21).isNone, ownedLine.ownPackage (0x21 * 128),
    monitoring.notices.length == 1, grp0 monitoring fun g => g.stall == some .monitor,
    reducing.reds.length == 1, (reducing.lineAt (leaseKey (reducing.fwd 0x1000))).comm.isNone, remoting.remotes.length == 1,
    grp0 remoting fun g => g.mcs.isEmpty && !g.ended,
    ((rest0 (engineOf 1)).coreAt 0).engine.length == 1,
    ((rest0 (onK fun k => { k with engine := [{ matOp mma with started := true }] })).coreAt 0).engine.all fun o => o.started] = true := by
  decide +kernel
-- UnitEvents.
def opOf (k : EngineKind) (todo : List Transfer) : EngineOp := { id := 4, group := 0, team := 1, tag := 3, kind := k, todo := todo, time := 0, pages := [] }
def oneOp (o : EngineOp) : State := rest0 fun s => { s with ops := [o] }
def copied : Transfer := ⟨some 0x2000, 0x1000, 128, 0⟩
def appendOf : Append := ⟨0, slotOf false, 0, 5, 7, 0, 0⟩
def gatherOp : EngineOp := opOf (.gather (slotOf false) 2 3 0x6000 2 [5]) []
def gathering (l : List Host.Cell) : State := { oneOp gatherOp with mem := l }
def gathered (l : List Host.Cell) : List (List Nat) := (gatherLists (slotOf false) [5] (gathering l, 0)).2
def noList : List Host.Cell := [(0x5028, 0xFF), (0x5029, 0xFF), (0x502A, 0xFF), (0x502B, 0x7F)]
def bumpOf (n : Nat) : EraBump := { era := 1, pa := 0x1000, group := none, pend := none, holds := false, cores := [], acks := n }
theorem witness_unit_events : fits [
    grp0 (rest0 (setStall (.rangelock [(true, 32, 32)] []))) (fun g => g.stall == some (.rangelock [(true, 32, 32)] [])), rest0.mayLock [(true, 32, 32)],
    (oneOp (opOf .copy [copied])).ops.all (fun o => o.todo != []), copied.dst % 128 + copied.len == 128,
    (List.range 128).all (fun k => rest0.inCarve (rest0.fwd 0x1000 + k) && rest0.inCarve (0x2000 + k) && rest0.fwd (0x2000 + k) == rest0.fwd 0x2000 + k),
    (oneOp (opOf .fill [])).ops.all (fun o => o.todo == [] && o.kind == .fill), rest0.lines == [],
    ((rest0 (engineOf 1)).coreAt 0).engine.all (fun o => !o.started && o.word == mma),
    (rest0.coreAt 0).engine == [], rest0.appendReady 0 appendOf,
    (oneOp gatherOp).ops.all (fun o => !((oneOp gatherOp).runs.contains o.group)), ((oneOp gatherOp).team? 1).isSome,
    gathered noList == [[]], gathered [(0x3000, 1), (0x3004, 1)] != [[]], (slotOf false).thresh == 0,
    (oneOp (opOf (.clear (slotOf false) 0 15 16 false) [])).ops.length == 1,
    noticeFor 0 [{ bumpOf 2 with cores := [0, 1] }] != none, (rest0.coreAt 0).asleep.isNone,
    (bumpOf 1).cores.length < (bumpOf 1).acks && (bumpOf 1).acks == 1, (bumpOf 2).acks != 1] = true := by decide +kernel
-- DistributorEvents.
def harts (s : State) : State := s.modDist fun d =>
  { d with run := true, quiesce := false, quiesced := false, fallback := false, imageOk := true, nq := 1, logCap := 8 }
def onD (f : Dist → Dist) (s : State) : State := s.modDist f
def entryOf (ty : Nat) : FifoEnt := ⟨BitVec.ofNat 64 (ty * 2 ^ 60), none, none⟩
/-- An image of no bytes at place 0, with its CRC. -/
def imaged : State := { State.reset with mem := [(0, 0x53), (1, 0x4C), (2, 0x4E), (3, 0x4C)] }
/-- A queue at place 0: its STATE, and its ring of one packet at 0x1000. -/
def queue0 (st : Byte) (s : State) : State :=
  harts { s with mem := [(0, st), (9, 0x10), (20, 1), (32, 1)] }
theorem witness_distributor_events : fits [
    (harts State.reset).hartsOn, !(harts State.reset).dist.fallback, (harts State.reset).dist.fifo == [],
    (onD (fun d => { d with fallback := true, fifo := [entryOf 1], aside := [entryOf 6] }) (harts State.reset)).hartsOn,
    !(harts State.reset).logFull, State.reset.dist.quiesce,
    (onD (fun d => { d with quiesced := false }) State.reset).dist.quiesced == false, (List.range 8).all fun h => !(State.reset.mech h).busy,
    imaged.natAt 0 4 == 0x4C4E4C53, imaged.natAt 4 4 == 0, crc32 (imaged.bytesAt 16 0) == imaged.wordAt 8, imaged.ownPackage 0,
    State.reset.natAt 0 4 != 0x4C4E4C53, !State.reset.logFull, (harts State.reset).dist.logCap != 0,
    State.reset.dist.fifo.length < 256, State.reset.dist.held == [], State.reset.dist.owed == 0,
    (List.range 8).all fun h => !(State.reset.mech h).held,
    (queue0 1 State.reset).queueRead 0, !((queue0 1 State.reset).qcbBad 0), (queue0 1 State.reset).unread 0,
    (queue0 2 State.reset).queueRead 0, (let s := queue0 1 State.reset; { s with mem := [(0, 1)] }).qcbBad 0,
    (State.reset.packetReason (parsePacket 0 0x1000 (List.replicate 256 0)) (List.replicate 256 0)).isSome,
    decide (State.reset.hartPlace 0x90000 8 = .out)] = true := by decide +kernel
-- MechanismCommands: command blocks free and busy; a packet with a team to place, running, saved.
def packets (t : Store TeamAt) (s : State) : State := onD (fun d => { d with packets := [(1, { pk := samplePacket, teams := t })] }) s
def unplaced : State := packets [] (queue0 1 State.reset)
def placed : State := harts (packets [(0, .resident 1)] (rest0 id))
def savedAs : SavedTeam := { host := false, spill := [], bars := [], handles := [], early := false, code := 0, traps := [], tide := 0 }
def away : State := packets [(0, .saved savedAs)] (queue0 1 State.reset)
def onM (h : Nat) (f : Mech → Mech) (s : State) : State := s.modMech h f
def place1 : State := commanded unplaced 1 1 [0, 0, 0]
def answerable : State := onT (fun t => { t with tags := [(3, { st := .pending })] }) placed
def request : Nat := 3 * 2 ^ 60 + 1 + 3 * 2 ^ 15
theorem witness_commands : fits [
    unplaced.hartsOn, !(unplaced.mech 1).busy, ((onM 1 (fun m => { m with busy := true }) unplaced).mech 1).busy, !State.reset.hartsOn,
    place1.queueActive 0, !(place1.queueActive 1), (place1.dist.packets.find? fun e => place1.clusterReady e.2 0).isSome,
    place1.logRoom 1, (rankCores samplePacket 0).all (fun k => !(place1.coreBusy k)),
    (match place1.rooms samplePacket 0 0 with
      | .ok _ => true
      | _ => false), (place1.freeHandles 1).isSome,
    (match (place1.modCore 0 fun k => { k with fenced := true }).rooms samplePacket 0 0 with
      | .no k => k == 11
      | _ => false),
    (placed.team? 1).any (fun u => u.life == .run), (placed.packet? 1).isSome, placed.hartsOn, (placed.mech 1).who == none, placed.logRoom 1,
    (placed.clusterOf 1).all (fun e => !(placed.coreBusy e.2.core)),
    (away.teamOfArea 0 isSaved).isSome, (unplaced.teamOfArea 0 isSaved).isNone, !(away.areasOk { pk := samplePacket } 0),
    (placed.abortTarget { op := 4, cmd := [1, 0] }).isSome, (unplaced.abortTarget { op := 4, cmd := [1, 0] }).isNone,
    (away.abortTarget { op := 4, cmd := [0, 2 ^ 63] }).isSome, coreIn 96 == 96, coreIn 95 == 95,
    request / 2 ^ 60 == 3, answerable.answerTo (reqHandle request) (reqTag request) == some (.team 1), !(reqBad samplePacket request),
    State.reset.dist.fallback, !State.reset.logFull, (fullLog State.reset).logFull, !(harts State.reset).dist.fallback,
    (onM 1 (fun m => { m with held := true, op := 6, who := some (1, 0) }) away).hartsOn, (entryOf 6).e.toNat / 2 ^ 60 == 6,
    unplaced.abortNext.isNone, (onD (fun d => { d with fallback := true }) unplaced).placeNext.isSome] = true := by decide +kernel
/-- A save area that RESUME takes: its version, its size, a lease, all else zero; tables as in `paged`. Its 8,192 bytes pass
R346's checks (evaluated outside the kernel, which is slow on them); the other premises are below. -/
def savedState : State := harts ({ paged State.reset with mem := (paged State.reset).mem ++ [(0x100000, 1), (0x100004, 2), (0x101019, 1)] } |>
  onD fun d => { d with packets := [(1, { pk := { samplePacket with ctxSave := 0x100000, acc := 0, regs := 0, scratch := 0 }, teams := [(0, .saved savedAs)] })] })
theorem witness_resume : (savedState.teamOfArea 0x100000 isSaved == some (1, 0) && savedState.hartsOn && savedState.logRoom 1 &&
    (savedState.freeHandles 1).isSome && (sfind savedState.dist.packets 1).any fun r => (r.savedRanks 0).length == 1 &&
      match savedState.rooms r.pk 0 0 with
      | .ok _ => true
      | _ => false) = true := by decide +kernel
-- TeamEnds: a drained cluster that has ended, was aborted, is saved; a core to be compacted, for a command and for none.
def livesAs (l : Life) : State := onT (fun t => { t with life := l }) (packets [(0, .resident 1)] (rest0 id))
def compacting (h : Option Nat) : State := onD (fun d => { d with compacts := [⟨0, h, 1, 0⟩] }) (harts (rest0 id))
theorem witness_team_ends : ([.ending, .aborting none 10, .saving (some 2) 13] : List Life).all (fun l => fits [
      ((livesAs l).team? 1).any (fun u => u.life == l), ((livesAs l).packet? 1).isSome, (List.range 8).all (fun h => !((livesAs l).mech h).held),
      ((livesAs l).clusterOf 1).all (fun e => (livesAs l).drained e.1), ((livesAs l).clusterOf 1).length == 1]) = true ∧
    fits [((compacting (some 2)).dist.compacts.find? fun c => c.core == 0).isSome, (compacting none).logRoom 1,
      ((compacting none).coreTeams 0).all (fun e => (compacting none).drained e.1), (List.range 8).all (fun h => !((compacting none).mech h).held),
      (List.range 8).all (fun h => ((onM 2 (fun m => { m with held := true, op := 1 }) (compacting (some 2))).mech h).held == (h == 2))] = true := by
  decide +kernel
-- HostPortEvents.
def lowWater (s : State) : State := s.modHost fun h => { h with lowWater := true }
def migrating (p : Nat) : State := State.reset.modHost fun h => { h with migration := [(0, { src := 0x10000, dst := 0x20000, progress := p, st := 1 })] }
def heads : List Head := [⟨1, 2⟩, ⟨3, 0⟩, ⟨6, 0⟩]
def aged (p : Nat) : State := State.reset.modHost fun h => { h with arbs := [(0, { pointer := p, ages := [(1, 63), (6, 63)] })] }
theorem witness_host_port : fits [0x1002 % 4 != 0, 0x4000000 % 8 == 0, !State.reset.host.lowWater, (lowWater State.reset).host.lowWater,
    State.reset.dist.quiesced, !(onD (fun d => { d with quiesced := false }) State.reset).dist.quiesced, State.reset.lines == [],
    State.reset.host.migration == [], (State.reset.host.bar2Base.toNat % 2 ^ 40 + 0x1004) % 8 != 0, 0x1008 < 768 * 2 ^ 30,
    !((migrating 511).lineHeld ((migrating 511).localPa 0x10000 + 128 * 511)), !((migrating 0).lineHeld ((migrating 0).localPa 0x10000)),
    State.reset.host.number != 5, State.reset.host.number == 0, keysUp State.reset.host.routes,
    heads.any (fun y => sget 0 (sget ({} : Arbiter) (aged 2).host.arbs 0).ages y.port == 63 && 2 ≤ y.port),
    heads.all (fun y => sget 0 (sget ({} : Arbiter) (aged 7).host.arbs 0).ages y.port != 63 || y.port < 7),
    heads.all (fun y => sget 0 (sget ({} : Arbiter) State.reset.host.arbs 0).ages y.port != 63)] = true := by decide +kernel
-- ManagementEvents.
def started (s : State) : State := s.modHost fun h => { h with ready := true }
def fails (n : BitVec 2) : State := State.reset.modHost fun h => { h with failedStarts := n }
def stopping (dumped : Bool) : State := rest0 (onK (fun k => { k with stopCtl := 0x80000001 }) ∘
  onT fun t => { t with stopped := some .brk, dumped := dumped })
def tabled (n : Nat) : State := State.reset.modCore 0 fun k => { k with table := [(0, { queue := 0, pc := 0x100, reason := 3, count := n })] }
theorem witness_management : fits [coreIn 95 < 96, !(State.reset.coreAt 95).fenced,
    ((State.reset.modCore 95 fun k => { k with fenced := true }).coreAt 95).fenced, !State.reset.host.ready, (started State.reset).host.ready,
    !State.reset.host.lowWater, (fails 1).host.failedStarts.toNat < 2, 2 ≤ (fails 2).host.failedStarts.toNat, coresEnough (List.range 48),
    (lowWater (fails 3)).host.failedStarts == 3, (lowWater (fails 0)).host.lowWater, !State.reset.host.tripped,
    ((rest0 id).team? 1).any (fun u => u.core == 0 && u.life == .run), ((rest0 id).team? 2).isNone,
    (((rest0 id).askStop 1 .host).clusterOf 1).all (fun e => ((rest0 id).askStop 1 .host).stillTeam e.2 && ((rest0 id).packet? e.2.pid).isSome),
    ((stopping true).coreAt 0).stopCtl.getLsbD 31, !((rest0 id).coreAt 0).stopCtl.getLsbD 31,
    ((stopping true).team? 1).any (fun u => u.stopped.isSome),
    (sfind ((tabled (2 ^ 32 - 1)).coreAt 0).table 0).any (fun e => e.count == 2 ^ 32 - 1),
    (sfind ((tabled 9).coreAt 0).table 0).any (fun e => e.count != 2 ^ 32 - 1),
    ctx0 (rest0 id) (fun c => c.t.core == 0 && ((rest0 id).coreAt 0).age.getD (((rest0 id).coreAt 0).sampleAt % 4) [] == [0])] = true := by
  decide +kernel

/-! ## Witnesses of further clauses -/
-- A HOLD with a word left to fetch: the run goes on, and the entry may be read at the next two positions.
def held : Group → Group := fun g => { vs 8 [7, 9] g with ibuf := some [.word 0], pos := 4, lptr := 2 }
def holdMov : Instr := .mov ⟨hd, .a, .v 4, .v 8⟩
theorem witness_hold : performed holdMov (onG (fun g => { g with ibuf := some [.word 0] }) (issued holdMov (onG held)))
      (fun c => { s := onG (fun g => { g with ibuf := some [.word 0] }) (issued holdMov (onG held)), w := dstWrites (c.g.active .always) (.v 4) 1 fun l _ => c.g.src32 (.v 8) l }) = true ∧
    (let g : Group := { sampleGroup 0 with latches := [(1, ⟨[7], 4⟩)], pos := 4 };
      g.latchOk 1 && { g with pos := 5 }.latchOk 1 && !({ g with pos := 6 }.latchOk 1) && !({ g with pos := 3 }.latchOk 1)) = true := by
  decide +kernel
theorem witness_targets : stage (.ret true) (ss [(62, 0x10C)]) (fun g c => passes g c 1 && (c.g.getS 62).toNat % 8 != 0) = true ∧
    stage (.brx false (.s 6)) (ss [(6, 0x101)]) (fun g c => passes g c 1 && (c.g.getS 6).toNat % 8 != 0) = true ∧
    stage (.qmap hd .off 6 (.s 4) .zero) id (fun g c => passes g c 1 && !c.g.hmode) = true := by decide +kernel
/-- The stack's place in the private stack translates. -/
def stackOk (rule : Rule) (k : Nat) (s : State) (c : Ctx) : Bool := isOk (s.stackCheck c rule k)
def stacked : State → State := onP (fun p => { p with psSize := 4096 }) ∘ mapped
def bad : BitVec 128 := mkEntry 0x181 0xFF 0 false
theorem witness_divergence_spills : ([
    (.div false 9, onG (fun g => { g with stack := List.replicate 16 plain, reds := 1 }) ∘ stacked,
      fun s c => c.g.depth < 1024 && stackOk .st c.g.spilled s c && c.g.memBusy),
    (.brp false 1 7 9, onG (branch [1, 0] (List.replicate 15 plain ++ [armed])) ∘ stacked,
      fun s c => sets c == (true, true, false) && topArmed c.g.stack && c.g.depth + 1 ≤ 1024 && stackOk .st c.g.spilled s c),
    (.brp false 1 7 9, onG (fun g => { branch [1, 0] (List.replicate 15 plain ++ [armed]) g with spilled := 126 }) ∘ stacked,
      fun _ c => sets c == (true, true, false) && topArmed c.g.stack && c.g.depth + 1 == 1025),
    (.brp false 1 7 9, onG (fun g => { branch [1, 0] [] g with spilled := 1 }),
      fun _ c => sets c == (true, true, false) && c.g.stack == [] && c.g.spilled != 0 && !c.g.memBusy),
    (.brp false 1 7 9, onG (fun g => { branch [1, 0] [] g with spilled := 1, rems := 1 }),
      fun _ c => sets c == (true, true, false) && c.g.stack == [] && c.g.memBusy),
    (.join true, onG (fun g => { g with stack := [bad] }), fun _ c => c.g.stack == [bad] && entBad bad),
    (.join true, onG (fun g => { g with live := 0xFF, mask := 0xFF, stack := [dead], spilled := 2 }),
      fun _ c => c.g.stack == [dead] && c.g.spilled != 0 && !c.g.memBusy),
    (.join true, onG (fun g => { g with live := 0xFF, mask := 0xFF, stack := [dead], spilled := 2, xfers := 1 }),
      fun _ c => c.g.stack == [dead] && c.g.memBusy),
    (.exit hd, onG (fun g => { g with mask := 0xF, stack := [plain, bad] }), fun _ c =>
      goesOn c 0xF && c.g.live &&& ~~~0xF != 0 && entBad bad),
    (.exit hd, onG (fun g => { g with mask := 0xF, spilled := 1 }), fun _ c => goesOn c 0xF && c.g.stack == [] && c.g.spilled == 1),
    (.exit hd, onG (fun g => { g with mask := 0xF, stack := [plain], spilled := 1 }), fun _ c =>
      goesOn c 0xF && entMask plain &&& (c.g.live &&& ~~~0xF) != 0 && c.g.spilled == 1)] : List Case).all meets = true := by decide +kernel
/-- A spilled line whose entry names an ended lane, and one whose entries do not. -/
def spilledLine (m : Nat) : State := { issued (.exit hd) (paged ∘ onP (fun p => { p with psBase := 0x40000, psSize := 128 })) with
  mem := [(0x10000, 0x01), (0x10002, 0x02), (0x20000, 0x33), (0x40004, BitVec.ofNat 8 m)] }
def clears (s : State) (changed : Bool) : Bool := match s.ctx? 0 with
  | none => false
  | some c => match s.hwLoad 0x40000 128 (((s.group? c.gid).map Group.tide).getD 0) with
    | .error _ => false
    | .ok (x, n, bs) =>
      let new := (List.range 8).flatMap fun j => leBytes 16 (clearLanes 0xF (BitVec.ofNat 128 (leNat ((bs.drop (16 * j)).take 16)))).toNat
      (new != bs) == changed && match x.hwStore 0x40000 new n with
        | .ok (y, t) => s.clearSpilled c 0xF 0 == (if changed then y.raiseTide c.gid t else s)
        | .error _ => false
theorem witness_clear_spilled : clears (spilledLine 3) true = true ∧ clears (spilledLine 0x30) false = true := by decide +kernel
def logged (s : State) : State := s.modDist fun d => { d with logCap := 8 }
theorem witness_double_trap : (let s := issued (.trap hd 7) (onG fun g => { g with hmode := true });
    s.abortRoom 1 && (logged s).abortRoom 1 && !(fullLog s).abortRoom 1 && (s.clusterOf 1 == [(1, sampleTeam)]) &&
      (s.packet? 1).isSome && ((logged s).ctx? 0).isSome) = true := by decide +kernel
-- LoadWords: a cached line and its bytes. LoadsLeaveMemory: a source that is a copy.
def cached : State := State.reset.fillConst 0 0x1000 []
theorem witness_constants : ((cached.constBytes 0 [0x1000, 0x107F]).map List.length == some 2) = true ∧
    (([(0x20, Source.copy (List.replicate 128 5))] : List (Nat × Source)).find? fun e => decide (e.1 = 0x1004 / 128)) =
      some (0x20, .copy (List.replicate 128 5)) := by decide +kernel
-- WidthsAndPlaces: private-stack addresses inside the stack, aligned and not, and at its end; the on-chip map: each window, its
-- end, and each way an address is bad; pages of every attribute; checks of each outcome.
def inPriv (psSize ea : Nat) : Bool := ea / 2 ^ 48 == 0xFFFD && ea % 2 ^ 48 < psSize
def chipBad (rule : Rule) (ea size : Nat) : Bool :=
  let off := ea % 2 ^ 48
  let win := off / 2 ^ 22 % 8
  !rule.chip || off / 2 ^ 34 != 0 || 96 ≤ off / 2 ^ 25 % 128 || 4 ≤ win || (rule.engine && 2 ≤ win) ||
    [2 ^ 19, 2 ^ 20, 2 ^ 18, 48 * 4096].getD win 0 < ea % 2 ^ 22 + size
def chipEa (core win off : Nat) : Nat := 0xFFFC * 2 ^ 48 + core / 128 * 2 ^ 32 + core % 128 * 2 ^ 25 + win * 2 ^ 22 + off
def tlbOf (leaf : DWord) : Tlb := ⟨0, 1, leaf⟩
theorem witness_places_of : (inPriv 64 0xFFFD00000000003C && !inPriv 64 0xFFFD000000000040 && !Rule.xsrc.priv && Rule.ld.priv) = true ∧
    ([(Rule.ldk, chipEa 0 0 0), (.ld, chipEa 96 0 0), (.ld, chipEa 0 4 0), (.xsrc, chipEa 0 2 0), (.ld, chipEa 0 0 (2 ^ 19 - 3)),
      (.ld, chipEa 0 0 0 + 2 ^ 34)] : List (Rule × Nat)).all (fun e => chipBad e.1 e.2 4) = true ∧
    ([(Rule.ld, chipEa 95 0 (2 ^ 19 - 4)), (.xdst, chipEa 384 1 0), (.st, chipEa 0 3 (48 * 4096 - 4)), (.ld, chipEa 0 2 2)] :
      List (Rule × Nat)).all (fun e => e.2 / 2 ^ 48 == 0xFFFC && !chipBad e.1 e.2 4) = true ∧
    ((tlbOf 0x133).sup && (tlbOf 0x93).remote && (tlbOf 0x43).cell && !(tlbOf 0x33).cell && Rule.seal.cell == none && Rule.ld.cell == some true &&
      Rule.st.cell == some false && !Rule.ld.remote && Rule.atom.remote) = true := by decide +kernel
def ld8 : Instr := .ld ⟨hd, 3, .none, .v 4, .s 8, .zero, .w, 0⟩
/-- A check of one lane's address that ends at a step, or passes. -/
def endsAt (rule : Rule) (ea step : Nat) (s : State) (c : Ctx) : Bool := match s.aperture c rule 0 ea 4 4 with
  | .bad _ _ _ => step == 2
  | .miss => false
  | .good x => match s.transStep c x with
    | .bad _ _ _ => step == 3
    | .miss => step == 0
    | .good p => match s.attrStep c rule ea 4 p with
      | .bad _ _ _ => step == 4
      | .miss => false
      | .good q => if s.locked (decide (rule.access ≠ 0)) q.loc 4 then step == 5 else step == 6
theorem witness_check_steps : ([(ld8, id, endsAt .ld 0x1002 2), (ld8, id, endsAt .ld 0x1000 0),
    (ld8, onG (fun g => { g with walkFaults := [{ page := 0, cause := .pageFault, detail := 3, pte := 0 }] }), endsAt .ld 0x1000 3),
    (ld8, mapped 0x133, endsAt .ld 0x1000 4), (ld8, mapped 0x43, endsAt .st 0x1000 4), (ld8, mapped 0x43, endsAt .ld 0x1000 6),
    (ld8, mapped 0x93, endsAt .ld 0x1000 4), (ld8, id, endsAt .ld (chipEa 0 0 0) 4),
    (ld8, onG (fun g => { g with hmode := true }), endsAt .ld (chipEa 0 0 0) 6), (ld8, id, endsAt .xdst (chipEa 0 0 0) 6),
    (ld8, id, endsAt .xdst (chipEa 0 1 2044) 6), (ld8, lockAll ∘ mapped, endsAt .ld 0x1000 5),
    (ld8, mapped, fun s c => isOk (s.checkAll c .ld 4 4 [(0, 0x1000), (3, 0x2000)])),
    (ld8, mapped, fun s c => isTrap (s.checkAll c .ld 4 4 [(0, 0x1000), (3, 0x2001)])),
    (ld8, id, fun s c => isMiss (s.checkAll c .ld 4 4 [(0, 0x1000), (3, 0x2000)]))] : List Case).all meets = true := by decide +kernel
-- StoreWords, LoadsLeaveMemory: nothing waits at the lines, no bump holds a cell of them, and their data are not lost.
theorem witness_plain : (let s := start (.movi hd (.v 4) 3); s.bumps = [] ∧ s.poisoned = [] ∧ s.host.migration = []) := by decide +kernel
-- TideOrder: a copy current and one expired; a line the core's own L1 owns, within its lease and not.
def leased (tide : Nat) : State := onG (fun g => { g with tide := tide }) (onK (fun k => { k with
  l1 := [(0x20, ⟨3, 9, 0, List.replicate 128 7⟩)] }) (issued ld8 mapped))
def ownedBy (tide : Nat) : State := { leased tide with lines := [(0x20, { wts := 3, rts := 5, owner := some 0 })] }
theorem witness_copies : ((leased 9).copyHit 0 0x20 9).isSome ∧ ((leased 10).copyHit 0 0x20 10).isNone ∧
    ((leased 9).lineAt 0x20).owner ≠ some 0 ∧ (Place.mem 0x1000 (some (tlbOf 0x27))).atHome = false ∧ 0x1000 < 2 ^ 52 ∧
    ((ownedBy 5).lineAt 0x20).owner = some 0 ∧ ((ownedBy 5).lineAt 0x20).comm = none ∧ 5 ≤ ((ownedBy 5).lineAt 0x20).rts := by
  decide +kernel
-- Barriers: an arrival counted apart (BARA) while a group waits; QueueWords and monitors: as above, a group not waiting.
theorem witness_arm : ((issued waitv).ctx? 0).map (fun c => (c.g.waitMon, (issued waitv).group? 0 == some c.g)) = some (false, true) := by
  decide +kernel
theorem witness_spans : (lastArrival.ctx? 0).isSome ∧ (((lastArrival.ctx? 0).map fun c => lastArrival.barLive c.t false) = some [0, 1]) ∧
    (((lastArrival.ctx? 0).map fun c => (lastArrival.armed c.pk 1, (lastArrival.barrier c.t false 9).arrived.testBit 0)) = some (false, false)) ∧
    ((lastArrival.team? 1).map Team.lead) = some 1 := by decide +kernel
-- Engines: ranges of two rows at a distance, and adjacent; an operation that has ended.
theorem witness_ranges : (∀ e ∈ ([(0x1000, 4), (0x2000, 8)] : List (Nat × Nat)), 0 < e.2) ∧
    (runsOf [(0x1000, 4), (0x2000, 8)]).length + (runsOf [(0x5000, 4)]).length ≤ 64 ∧
    ((issued xcopy).team? 1 = ((issued xcopy).ctx? 0).map Ctx.t) := by decide +kernel
-- MatrixWords: an operation that is first and started, of each form; one that is to start; ZGET's result; ZST's lines.
def opFor (i : Instr) : MatOp := { matOp i with started := true, locs := (List.range 4).map fun k => 0x1000 + 128 * k }
def engineState (i : Instr) : State := issued i (onP (fun p => { p with acc := 16 }) ∘ onK (fun k => { k with engine := [opFor i] }))
theorem witness_performed : (matrixForms ++ loadForms).all (fun i => let s := engineState i
      ((s.coreAt 0).engine == [opFor i]) && (opFor i).word == i && (opFor i).started && (s.ctx? (opFor i).group).isSome) = true ∧
    (let s := engineState (.zst hd 3 (.s 8) .s); s.lines = [] ∧ s.bumps = [] ∧ s.host.migration = []) ∧
    (opFor mma).locs.Nodup ∧ (opFor mma).locs.length = 2 * 2 ∧ (∀ loc ∈ (opFor mma).locs, loc < 2 ^ 52 ∧ loc % 128 = 0) ∧
    (let i : Instr := .zget hd 0 16 3 .d
      let s := onG (fun g => { g with pends := [pendOf false] }) (issued i (onK fun k => { k with engine := [{ opFor i with pend := some 1 }] }))
      (s.group? 0).any (fun g => g.pends.any fun p => p.id == 1 && !p.done) = true) ∧
    ((engineState mma).team? 1).isSome = true := by decide +kernel
/-- Lines whose 128 bytes exist, on pages at the home. -/
theorem witness_line_words : (([(0, 0x1000, Place.mem 0x1000 (some (tlbOf 0x2B)))] : List (Nat × Nat × Place)).all fun e => e.2.2.atHome &&
    (List.range 128).all fun i => State.reset.inCarve (e.2.2.loc + i)) = true := by decide +kernel
-- ForkWords, their results: few lanes, so that every push has an entry; tasks of the site for each lane, and none; a live
-- count that translates.
def few (m : Word) : State → State := onG fun g => { g with mask := m }
def liveOk (access : BitVec 2) (s : State) (c : Ctx) : Bool := match s.hwTr access c.pk.arena.toNat c.g.tide with
  | .ok r => r.2.2 + 8 ≤ 2 ^ 52
  | .error _ => false
def pushList (c : Ctx) : List Push := (lanesOf (c.g.active .always)).map fun l => (l, taskBytes 3 (c.g.frame 8 c.pk.poolN l))
def take0 : Instr := .take hd 2 0
def oneWide : Group → Group := vs 11 [0x3FF00000]
theorem witness_fork_results : ([
    (spawn, holding 1 ∘ few 5 ∘ paged ∘ pooled 0 false, fun s c => (pushList c).length == 2 && 2 ≤ c.t.poolFree c.pk && liveOk 2 s c &&
      (pushList c).all (fun q => q.2.length ≤ c.pk.entryBytes) && c.t.pool.length == 1 && s.lines == [] && s.bumps == []),
    (.split hd 2 1, paged ∘ onG oneWide ∘ pooled 0 false, fun s c => (splitPushes c (c.g.active .always) 1).length == 1 &&
      1 ≤ c.t.poolFree c.pk && c.pk.poolFb + c.pk.poolN ≤ 256 && liveOk 2 s c && (halves (frameIval c.g c.pk.poolFb 0)).isSome &&
      (halves (frameIval c.g c.pk.poolFb 1)).isNone),
    (.split hd 2 1, pooled 0 false, fun _ c => splitPushes c (c.g.active .always) 1 == []),
    (.tend hd, hasTasks ∘ paged ∘ pooled 0 false, fun s c => c.g.active .always &&& c.g.h != 0 && liveOk 2 s c),
    (.tend hd, paged ∘ pooled 0 false, fun _ c => c.g.active .always &&& c.g.h == 0),
    (take0, holding 3 ∘ few 5 ∘ paged ∘ pooled 0 false, fun s c => c.g.active .always &&& c.g.h == 0 &&
      (c.t.pool.filter fun e => s.poolSite c.t c.pk e == 0).length == 3 && c.pk.poolFb + c.pk.poolN ≤ 256),
    (take0, holding 2 ∘ onG (fun g => { g with mask := 5, h := 4 }) ∘ paged ∘ pooled 0 false, fun s c =>
      c.g.active .always &&& c.g.h == 4 && liveOk 2 s c && (c.t.pool.filter fun e => s.poolSite c.t c.pk e == 0).length == 2),
    (take, holding 1 ∘ paged ∘ pooled 0 false, fun s c => c.g.active .always &&& c.g.h == 0 && c.t.poolFree c.pk != 0 &&
      c.t.pool.all (fun e => s.poolSite c.t c.pk e != 5) && c.t.spill == [] && liveOk 0 s c)] : List Case).all meets = true := by decide +kernel
/-- A pool of three tasks of site 0 that may be popped, and whose oldest two can be spilled. -/
def threeTasks : State := rest0 (holding 3 ∘ paged ∘ pooled 4 false)
theorem witness_pool_operations : fits [(threeTasks.popTask 1 ((threeTasks.packet? 1).getD samplePacket) 0 0).isSome,
    (threeTasks.popTask 1 ((threeTasks.packet? 1).getD samplePacket) 5 0).isNone,
    !isErr (threeTasks.spillTasks 1 ((threeTasks.packet? 1).getD samplePacket) 0 2),
    (threeTasks.team? 1).any fun t => t.pool.length == 3 && t.pool.Nodup, threeTasks.lines == []] = true := by decide +kernel
/-- Two teams on one core and one on the next; a victim with spilled tasks of site 5 on pages that translate, or do not. -/
def victims (pages : Bool) : State := rest0 fun s => { (if pages then paged else id) (pooled 8 false s) with
  mem := (if pages then paged s else s).mem ++ [(0x100040 + 8 * 20, 5)],
  teams := [(1, sampleTeam), (2, { sampleTeam with index := 1, core := 1, spill := [⟨0, 1, 5⟩, ⟨1, 2, 5⟩] }),
    (3, { sampleTeam with index := 2, core := 1, granule := 1, pool := [⟨0, 5, 0⟩, ⟨1, 6, 0⟩] })], steals := [q0] }
theorem witness_steal_orders : fits [keysUp (victims true).teams, (victims true).nextVictim q0 == some 2,
    (pool0 (victims false)).any fun pk => ((victims false).team? 2).any fun t => isErr ((victims false).spillRead t pk 0 [⟨0, 1, 5⟩]) &&
      (t.spill.all fun e => (victims false).spillSite t pk e == 5),
    (pool0 (victims true)).any fun pk => ((victims true).team? 2).any fun t => !isErr ((victims true).spillRead t pk 0 [⟨0, 1, 5⟩]),
    (pool0 (victims true)).any fun pk => ((victims true).team? 3).any fun t => t.spill == [] &&
      (t.pool.all fun e => (victims true).poolSite t pk e == 0),
    (pool0 (victims true)).any fun pk => ((victims true).team? 1).any fun t => t.poolFree pk + t.spillFree pk != 0 && !t.steals.getLsbD 3,
    (thieves { q0 with asked := [2] } 0).nextVictim { q0 with asked := [2] } == none,
    ((thieves { q0 with asked := [2] } 0).team? 1).isSome] = true := by decide +kernel
-- MemoryEvents: notices under way; a failed replay, with and without an operation at work; registers, scratchpad and lines that
-- meet a Machine Check, and ones that no group owns; a remote access with a route and without.
def noticing : State := rest0 fun s => { s with genNotices := [3] }
def replayed : State := rest0 (onK fun k => { k with engine := [{ matOp mma with started := true }] })
def report (d : BitVec 4) (a : DWord) (gs : List Nat) : McReport :=
  { detail := d, core := 0, sched := 0, predicate := none, groups := gs, mcinfo := 0x100, mcaddr := a }
theorem witness_machine_checks : fits [noticing.genNotices.contains (3 % 12), !(noticing.genNotices.contains 4), (noticing.coreAt 0).asleep.isNone,
    (replayed.coreAt 0).engine.any (fun o => o.started && o.pend.isNone && o.word == mma),
    (rest0.coreAt 0).engine == [], rest0.regOwner 0 0 5 == some (0, 5), rest0.regOwner 0 0 700 == none,
    rest0.chipOwner 0 1 256 == some 1, rest0.chipOwner 0 1 8192 == none, (rest0.team? 1).any (fun u => u.gids == [0]),
    grp0 rest0 (fun g => !g.ended), (rest0.group? 9).isNone, 3 ≤ (report 3 0x1000 [0]).detail.toNat,
    (remoting.linksTo 5) == [], (({ remoting with host := { remoting.host with routes := [(5, 3)] } } : State).linksTo 5) == [0, 1],
    packageOf (5 * 2 ^ 40) != remoting.host.number.toNat] = true := by decide +kernel
-- DistributorEvents: harts about to start, at work and stopped; the places of their accesses; an ADDI at address 8 of the SRAM.
def hartAt (pc : DWord) (run : Bool) (s : State) : State := s.modDist fun d => { d with harts := [(0, { run := run, pc := pc })] }
def program (w : Nat) (s : State) : State := s.modDist fun d => { d with sram := (leBytes 4 w).zipIdx.map fun e => (8 + e.2, e.1) }
def addi : State := program (rvI 0x13 0 5 6 0xFFF) (hartAt 8 true (harts State.reset))
def toRun : State := State.reset.modDist fun d => { d with imageOk := true, loaded := true }
theorem witness_harts : fits [addi.hartsOn, (addi.hart 0).run, (addi.hart 0).pc.toNat + 4 ≤ 0x80000,
    leNat ((List.range 4).map fun i => sget 0 addi.dist.sram ((addi.hart 0).pc.toNat + i)) == rvI 0x13 0 5 6 0xFFF,
    !((hartAt 8 false (harts State.reset)).hart 0).run, decide (addi.hartPlace 0x8000000000001000 8 = .mem 0x1000),
    (addi.hart 0).resv == none, addi.lines == [], (toRun.modDist fun d => { d with run := true, quiesce := false, quiesced := false }).hartsOn, toRun.dist.loaded,
    !(harts State.reset).dist.loaded, (List.range 8).all (fun h => !(addi.mech h).held), addi.dist.owed == 0,
    (queue0 1 State.reset).lines == []] = true := by decide +kernel
-- MechanismCommands: a command that waits for another on its core, for a core that drains, and while the cores are halted; a log
-- without room; rooms too small, scattered and found; a team of each place; a dependency that has failed; requests to answer.
def ahead (s : State) : State := onM 3 (fun m => { m with busy := true, held := true, op := 5, order := 1, cores := [0] }) { s with nextId := 9 }
def asked (s : State) : State := commanded s 1 5 [0]
def scattered : State := { placed with teams := [(1, { sampleTeam with granule := 100 }), (2, { sampleTeam with granule := 200 })] }
def fullPacket : Packet := { samplePacket with carve := 3, scratch := 200 * 2048 }
theorem witness_waits : fits [(asked (ahead placed)).mustWait 1, !(asked placed).mustWait 1, (asked (compacting none)).mustWait 1,
    (asked (placed.modHost fun h => { h with tripped := true })).mustWait 1, ((asked placed).mech 1).cores == [0],
    !(commanded (fullLog unplaced) 1 1 [0, 0, 0]).logRoom 1, (place1.dist.packets.find? fun e => place1.clusterReady e.2 7).isNone,
    (place1.freeHandles 1).isSome, !(place1.queueActive 5)] = true := by decide +kernel
def failedDep : Packet := { samplePacket with deps := [(false, 1, 5, 0x3000)] }
def depEvent : State := { unplaced with mem := unplaced.mem ++ [(0x3004, 5), (0x300C, 4)] }
def endedAs (b : Bool) : State := packets [(0, .ended b)] (queue0 1 State.reset)
def savingAs : State := livesAs (.saving (some 2) 13)
def offered (ty : Nat) : State := onD (fun d => { d with fallback := true, fifo := [⟨BitVec.ofNat 64 (ty * 2 ^ 60), some (1, 0), some 3⟩] }) placed
theorem witness_command_teams : fits [((endedAs true).abortTarget { op := 4, who := some (1, 0) }).isSome,
    ((endedAs true).dist.packets.find? fun e => e.1 == 1).any (fun e => (sfind e.2.teams 0).any fun x => x == .ended true),
    (placed.team? 1).any (fun u => placed.answerTo 1 3 == none && u.life == .run),
    (onT (fun t => { t with tags := [(3, { st := .pending })] }) savingAs).answerTo 1 3 == some (.team 1), (savingAs.team? 1).any (fun u => u.life != .run),
    (offered 2).dist.fallback, (offered 3).dist.fifo.all (fun e => e.who == some (1, 0) && e.e.toNat / 2 ^ 60 == 3),
    !(offered 2).logFull, (offered 2).host.lowWater == false, !(offered 2).host.tripped,
    (onM 1 (fun m => { m with held := true, op := 6, who := some (1, 0) }) placed).dist.packets.any fun e => e.2.teams == [(0, .resident 1)],
    (onM 1 (fun m => { m with held := true, op := 6, who := some (1, 0) }) (endedAs false)).dist.packets.any fun e => e.2.teams == [(0, .ended false)]]
    = true := by decide +kernel
-- TeamEnds: a packet with events on pages that translate, without; a team that can be saved; a record and an area.
def evented (e : DWord) : State := onT (fun t => { t with life := .ending }) (onP (fun p => { p with events := e })
  (packets [(0, .resident 1)] (rest0 paged)))
def savable : State := livesAs (.saving none 14)
theorem witness_events : fits [((evented 0x30000).team? 1).any (fun u => u.life == .ending), (evented 0x30000).clusterOf 1 == [(1, { sampleTeam with life := .ending })],
    (evented 0x30000).drained 1, (evented 0x30000).lines == [], ((evented 0x30000).coreAt 0).table == [],
    ((evented 0x30000).packet? 1).any fun pk => pk.events.toNat % 16 == 0 && !isErr ((evented 0x30000).hwTr 1 (pk.eventVa 0) 0),
    (savable.team? 1).any (fun u => u.gids.length == 1 && u.gids.all fun k => (savable.group? k).any fun g => g.unpop.stack.length ≤ 16),
    samplePacket.acc % 8 == 0, samplePacket.poolEnt == 0, samplePacket.groups == 1, (sampleGroup 0).unpop.stack.length ≤ 16] = true := by decide +kernel
-- HostPortEvents: an access of each outcome; links with credit and a route; a threshold below a count.
theorem witness_host : fits [0x30 % 8 == 0, (State.reset.host.bar2Base.toNat % 2 ^ 40 + 0x1000) % 8 == 0, 0x1000 < 768 * 2 ^ 30,
    (768 * 2 ^ 30) % 4 == 0, (State.reset.modCore 5 fun k => { k with soft := 9 }).cores.map Prod.fst == [5],
    ((State.reset.modCore 5 fun k => { k with soft := 9 }).coreAt 5).soft == 9,
    ({ State.reset with host := { State.reset.host with routes := [(5, 3)] } } : State).linksTo 5 == [0, 1]] = true := by decide +kernel
-- ManagementEvents: too many cores fenced on a die; starts with a reason below and above the self-test; resets of a machine whose
-- harts ran; a stop on another core.
theorem witness_starts : fits [!(coresEnough (List.range 49)), coresEnough ((List.range 49).map fun k => k / 2 * 128 % 512), (4 : Byte).toNat < 5, 5 ≤ (6 : Byte).toNat,
    (harts State.reset).dist.run && !(harts State.reset).dist.quiesce, !(State.reset.ownPackage (5 * 2 ^ 40)), State.reset.host.failedStarts != 3,
    ((rest0 id).team? 1).any (fun u => u.core != 5), ((stopping false).coreAt 0).stopCtl.toNat % 2 ^ 15 == 1,
    ((stopping false).coreAt 0).stopCtl.toNat % 2 ^ 15 != 2] = true := by decide +kernel
-- ControlTransfers, ChecksInOrder: a target whose registers a result is still to write.
def awaiting (g : Group) : Group := { g with pends := [{ pendOf false with regs := [.s 62, .s 63], left := 0 }] }
def waitsForTarget (g : Gate) (c : Ctx) : Bool := g.privOk c.g && g.fieldsOk c && g.target.isSome && g.lookaheadWait c.g &&
  !(g.operandsOk c) && c.g.pends.any fun p => !p.done && p.left == 0 && !p.past
theorem witness_target_waits : stage (.ret true) (awaiting ∘ ss [(62, 0x10C)]) waitsForTarget = true ∧
    stage (.brx false (.s 6)) (awaiting ∘ ss [(6, 0x101)]) waitsForTarget = true := by decide +kernel
-- MonitorWaits, CellsAndSeals, Coves, SystemWords: a page whose walk met a lost line; a value that differs from a copy's.
def lostPage : State → State := onG fun g => g.losePage 0 32
def allLost : Checked → Bool
  | .ok l => l.all (fun e => isLost e.2.2.loc) && !l.isEmpty
  | _ => false
theorem witness_lost : (([(waitv, lostPage ∘ onG (addr64 0x1000), checked .wait 4 0x1000 allLost),
    (dwait, lostPage ∘ onG (addr64 0x1000), checked .wait 16 0x1000 allLost),
    (ktable, lostPage ∘ onG (addr64 0x1000), checked (.key false) 128 0x1000 allLost),
    (.probe hd (.v 4) (.s 8), lostPage ∘ inHandler ∘ onG (addr64 0x1000), fun s c => s.probe c 0 0x1000 == some 0)] : List Case) ++
    (sealForms.map fun i => (i, lostPage ∘ onG (addr64 0x1000), sealChecks 0x1000 allLost))).all meets = true ∧
    (rest0.natAt (rest0.fwd 0x1000) 4 != 5) = true := by decide +kernel
-- TrapEntry, RunEvents: a pop under way that has refilled a line; a group that a double trap or HALT ends, with room in the log and
-- without; a Machine Check that waits for its word.
def doomed (s : State) : State := rest0 (onG (fun g => { g with doom := some (2, []) }) ∘ fun x => { x with dist := s.dist })
theorem witness_waiting_ends : fits [grp0 (rest0 (onG fun g => { g with unpopped := some ([plain], 1) })) (fun g => g.unpopped.isSome),
    ctx0 (refiller.modGroup 0 fun g => { g with stack := [dead] }) (fun c => c.g.unpopped.isNone && c.g.stack == [dead]),
    ctx0 (refiller.modGroup 0 fun g => { g with unpopped := some ([dead], 1) }) (fun c => c.g.unpopped.isSome),
    grp0 (doomed State.reset) (fun g => g.doom.isSome && !g.ended), (doomed State.reset).abortRoom 1, !((doomed (fullLog State.reset)).abortRoom 1),
    grp0 (rest0 (onG fun g => { g.losePage 0 32 with mcs := [({ cause := .machineCheck, detail := 4 }, 0, 4096)] }))
      (fun g => g.mcs != [] && g.dueMcs == [])] = true := by decide +kernel
-- MemoryEvents, UnitEvents: room in an L1; requests that hold credits; lines of tiles and of the scale store; a lost line.
def tiled : State := rest0 (onP fun p => { p with acc := 8 })
theorem witness_lines : fits [(replying.l1Held 0).length < (2 ^ 20 - carveBytes (replying.coreAt 0).carve) / 128,
    !((replying.l1Held 0).contains 0x20), ([0, 2] : List Nat).filter (fun l => 4 * l == 8) == [2],
    tiled.chipOwner 0 2 128 == some 1, tiled.chipOwner 0 4 128 == some 1, tiled.chipOwner 0 4 1152 == none,
    (tiled.team? 1).any (fun u => u.gids == [0]),
    ({ rest0 with poisoned := [32] } : State).poisoned.contains (rest0.fwd 0x1000 / 128), !(isLost ((slotOf false).entry 0 0))] = true := by
  decide +kernel
-- DistributorEvents, MechanismCommands, HostPortEvents, ManagementEvents: low-water mode; a command, and a fence, ahead of another;
-- a team SAVING that an ABORT waits for; the third failed start; fences due, waiting and none.
def fenced (n : Nat) (s : State) : State := onD (fun d => { d with fences := [(0, 2, n)] }) s
def waitingAbort : State := onM 3 (fun m => { m with busy := true, held := true, op := 4, order := 1, cores := [0], who := some (1, 0) }) savingAs
theorem witness_fences : fits [(lowWater (harts State.reset)).host.lowWater, (asked (fenced 1 { placed with nextId := 9 })).mustWait 1,
    (ahead placed).fenceWaits 0 9, !((ahead placed).fenceWaits 0 1), !(placed.fenceWaits 0 9), !(waitingAbort.fenceWaits 0 9),
    (compacting none).fenceWaits 0 9, placed.dist.fences == [], (fenced 4 placed).dist.fences.find? (fun f => f.1 == 0) == some (0, 2, 4),
    !((fenced 4 placed).fenceWaits 0 4), (fenced 4 (ahead placed)).fenceWaits 0 4, ((fenced 4 placed).coreAt 0).fenced == false,
    (List.range 8).all (fun h => !((fenced 4 placed).mech h).held), !(fails 2).host.ready, !(fails 2).host.lowWater,
    (lowWater State.reset).dist.logCap == 0, placed.host.seThresh.toNat < ((placed.modCore 0 fun k => { k with soft := 2 ^ 16 }).coreAt 0).soft + 1,
    (List.replicate 8 (1 : Byte)).length == 8] = true := by decide +kernel
-- TideOrder: a page accessed at the home only.
theorem witness_home_page : (tlbOf 0x2B).n = true ∧ (Place.mem 0x1000 (some (tlbOf 0x2B))).atHome = true := by decide +kernel
/-- R377: a fence waits for a PLACE that arrived first, and is performed by the next CORE_FENCE after it. -/
theorem test_fence_waits : (((ahead placed).coreFence 0).dist.fences.map Prod.fst, (((ahead placed).coreFence 0).coreAt 0).fenced,
    ((placed.coreFence 0).coreAt 0).fenced) = ([0], false, true) := by decide +kernel
/-- R350: a BAR0 write of 2 bytes gets Completer Abort; one of 4 bytes writes the low half. -/
theorem test_bar0_write : ((State.reset.hostWrite (.bar0 0x2000) [1, 2]).host.aborted,
    (State.reset.hostWrite (.bar0 0x2000) [1, 2, 0, 0]).host.trapVec) = (true, 0x201) := by decide +kernel
-- IntervalsAreTight: an interval of the format, and reals it holds.
theorem witness_tight : (b32.dec 0x3F800000 = .num (.fin 1) ∧ b32.dec 0x40000000 = .num (.fin 2)) ∧ (Ext.fin 1).le (.fin 2) = true ∧
    (1 - (b32.bias : Int) - b32.frac ≤ -149 ∧ (b32.bias : Int) = 127) := by decide +kernel

end Sys2Proof.Tests
end

/-!
PROOF of O30 (R101, R325). A form that step 2 of R102 refuses traps whatever its effect is, so the traps need only what each form
declares; the handler bank is what the register cells hold after a write.
-/
namespace Sys2Proof.Machine

/-! ## Step 2 of R102: privilege (R101, R325) -/

section Privilege
variable {s : State} {c : Ctx} {i : Instr} {g : Gate}

/-- A word that step 2 refuses raises Illegal Instruction in its active lanes, whatever its effect. -/
theorem issue_of_not_privOk (hr : s.runs.head? = some c.gid) (hc : s.ctx? c.gid = some c) (hp : g.privOk c.g = false)
    (b : Body) : issue g b s = .next (s.takeTrap c.gid
      { cause := .illegalInstruction, lanes := some (trapLanes c.g (c.g.active g.hd.g)) }) := by
  simp only [issue, hr, hc, Gate.check, hp, Bool.not_false, if_true]
  rfl

theorem traps_of_not_privOk (hd : declares s c i = some g) (hr : s.runs.head? = some c.gid) (hc : s.ctx? c.gid = some c)
    (hp : g.privOk c.g = false) :
    Traps i s c { cause := .illegalInstruction, lanes := some (trapLanes c.g (c.g.active g.hd.g)) } := by
  obtain ⟨b, hb⟩ := exec_declares hd hr hc
  exact hb.trans (issue_of_not_privOk hr hc hp b)

theorem Gate.privOk_of_user {x : Group} (hp : g.priv = true) (hm : x.hmode = false) : g.privOk x = false := by
  simp [Gate.privOk, hp, hm]
theorem Gate.privOk_of_noHandler {x : Group} (hn : g.noHandler = true) (hm : x.hmode = true) : g.privOk x = false := by
  simp [Gate.privOk, hn, hm]

/-- The system registers that MFSR and MTSR reach in handler mode alone are those whose words are privileged. -/
theorem privileged_mfsr (h : Hd) (d : Dst) (r : SysReg) : privileged (.mfsr h d r) = supervisor r := by
  cases r <;> rfl
theorem privileged_mtsr (h : Hd) (r : SysReg) (a : Src) : privileged (.mtsr h r a) = supervisor r := by
  cases r <;> rfl

/-- Every privileged form declares that it is. -/
theorem declares_of_privileged (s : State) (c : Ctx) (h : privileged i = true) :
    ∃ g, declares s c i = some g ∧ g.priv = true := by
  cases i
  case mfsr h' d r => exact ⟨_, rfl, (privileged_mfsr h' d r).symm.trans h⟩
  case mtsr h' r a => exact ⟨_, rfl, (privileged_mtsr h' r a).symm.trans h⟩
  case tret | tlbf | tlbi | probe | halt => exact ⟨_, rfl, rfl⟩
  all_goals cases h

/-- Every form that R325 lists declares that it is refused in handler mode. -/
theorem declares_of_handlerForbidden (s : State) (c : Ctx) (h : handlerForbidden i = true) :
    ∃ g, declares s c i = some g ∧ g.noHandler = true := by
  cases i
  case bar | bara | barw | barc | qmap | movQueuePush | movQueuePop => exact ⟨_, rfl, rfl⟩
  case split | spawn | take | tend | exit => exact ⟨_, rfl, rfl⟩
  case dqnext | dqdone | devent | kstore => exact ⟨_, rfl, rfl⟩
  all_goals cases h

/-- R101: a privileged form outside handler mode. -/
theorem traps_of_privileged (hr : s.runs.head? = some c.gid) (hc : s.ctx? c.gid = some c) (hi : privileged i = true)
    (hm : c.g.hmode = false) : ∃ l, Traps i s c { cause := .illegalInstruction, lanes := some l } := by
  obtain ⟨g, hd, hp⟩ := declares_of_privileged s c hi
  exact ⟨_, traps_of_not_privOk hd hr hc (g.privOk_of_user hp hm)⟩

/-- R325: a form refused in handler mode. -/
theorem traps_of_handlerForbidden (hr : s.runs.head? = some c.gid) (hc : s.ctx? c.gid = some c)
    (hi : handlerForbidden i = true) (hm : c.g.hmode = true) :
    ∃ l, Traps i s c { cause := .illegalInstruction, lanes := some l } := by
  obtain ⟨g, hd, hn⟩ := declares_of_handlerForbidden s c hi
  exact ⟨_, traps_of_not_privOk hd hr hc (g.privOk_of_noHandler hn hm)⟩

end Privilege

/-! ## The register banks (R325) -/

section Banks
variable (g : Group)

/-- A register's name reads the cell of the bank it is in. -/
theorem Group.getS_eq_sCell (n : Nat) : g.getS n = g.sCell (g.sBank n) n := rfl
theorem Group.getP_eq_pCell (k l : Nat) : g.getP k l = g.pCell (g.pBank k) k l := rfl

@[simp] theorem Group.setS_sBank (n : Nat) (x : Word) (m : Nat) : (g.setS n x).sBank m = g.sBank m := by
  unfold Group.sBank; rw [Group.setS_hmode]

theorem Group.setS_getS (n : Nat) (x : Word) (m : Nat) : (g.setS n x).getS m = if m = n then x else g.getS m := by
  rw [Group.getS_eq_sCell, Group.setS_sCell, Group.setS_sBank, Group.getS_eq_sCell]
  by_cases h : m = n
  · subst h; simp
  · simp [h]

theorem Group.setS_of_handlerBank {n : Nat} (x : Word) (h : g.sBank n = true) :
    g.setS n x = { g with hs := sput 0 g.hs n x } := if_pos h
theorem Group.setS_of_userBank {n : Nat} (x : Word) (h : g.sBank n = false) :
    g.setS n x = { g with s := sput 0 g.s n x } := if_neg (by rw [← Group.sBank, h]; exact Bool.false_ne_true)

/-- Predicate writes reach predicate cells only. -/
theorem Group.setPs_eq (l : List (Nat × BitVec 2)) :
    g.setPs l = { g with p := (g.setPs l).p, hp := (g.setPs l).hp } := by
  unfold Group.setPs; split <;> rfl
theorem Group.setPs_pBank (l : List (Nat × BitVec 2)) (k : Nat) : (g.setPs l).pBank k = g.pBank k := by
  rw [Group.setPs_eq]; rfl

theorem Group.apply_of_preds (l : List (Nat × BitVec 2)) : g.apply { p := l } = g.setPs l := rfl

/-- One predicate cell written: the one its name has in the group's mode. -/
theorem Group.setPs_pCell {k l j m : Nat} (v : BitVec 2) (hl : l < 32) (hm : m < 32) (bank : Bool) :
    (g.setPs [(32 * k + l, v)]).pCell bank j m =
      if (j = k ∧ m = l) ∧ bank = g.pBank j then v else g.pCell bank j m := by
  rw [← Group.apply_of_preds]
  have hw := g.apply_pCell { p := [(32 * k + l, v)] } bank j m hm (fun _ => v) (by simp)
  have key : 32 * j + m ∈ [32 * k + l] ↔ j = k ∧ m = l := by rw [List.mem_singleton]; omega
  simpa only [List.map_cons, List.map_nil, key] using hw

theorem Group.setPs_getP {k l j m : Nat} (v : BitVec 2) (hl : l < 32) (hm : m < 32) :
    (g.setPs [(32 * k + l, v)]).getP j m = if j = k ∧ m = l then v else g.getP j m := by
  rw [Group.getP_eq_pCell, Group.setPs_pBank, g.setPs_pCell v hl hm, Group.getP_eq_pCell]
  simp only [and_true]

end Banks

/-- Settles O30: step 2 of R102 by what each form declares, then a write of one cell in either bank. -/
theorem privilegeAndBanks : Obligations.PrivilegeAndBanks := by
  unfold Obligations.PrivilegeAndBanks
  refine ⟨fun _ _ _ hr hc => ⟨traps_of_privileged hr hc, traps_of_handlerForbidden hr hc⟩, fun g n x _ => ?sRegister,
    fun g k l v _ hl => ?predicate⟩
  case sRegister =>
    refine ⟨by simp [Group.setS_getS], fun m hm => by simp [Group.setS_getS, hm], fun hn hh => ?_, fun hh => ?_,
      by rw [Group.setS_eq], by rw [Group.setS_eq]⟩
    · rw [g.setS_of_handlerBank x (by simp [Group.sBank, hn, hh])]
      exact ⟨rfl, rfl⟩
    · rw [g.setS_of_userBank x (by simp [Group.sBank, hh])]
      exact ⟨rfl, rfl⟩
  case predicate =>
    refine ⟨by simp [g.setPs_getP v hl hl], fun j m hm h => ?_, by rw [Group.setPs_eq], by rw [Group.setPs_eq],
      by rw [Group.setPs_eq], fun j m hm => ?_, by simp [Group.pBank]⟩
    · rw [g.setPs_getP v hl hm, if_neg (by tauto)]
    · rw [g.setPs_pCell v hl hm, if_neg]
      rintro ⟨⟨rfl, -⟩, h⟩
      exact Bool.not_ne_self _ h

end Sys2Proof.Machine

/-!
PROOF of O13, O15 and O23 (R122, R126, R127, R139 to R145). Each word is issued with what it declares, and its effect is a list of
register writes alone: what is left is that those writes are the stated values, in the active lanes in rising order.
-/
namespace Sys2Proof.Machine

/-! ## The words that only write registers -/

/-- A word whose effect is its writes `w`, where those are a destination's. -/
theorem writesDst_of_issue {i : Instr} {h : Hd} {G : Gate} {w : Ctx → Word → List Word → Writes} {d : Dst} {cnt : Nat}
    {f : State → Ctx → List Word → Nat → Nat → Word} (hd : ∀ s c, declares s c i = some G) (hl : G.long = none)
    (hh : G.hd = h) (hx : ∀ s, exec i s = issue G (pureRes w) s)
    (hw : ∀ s c ws, w c (c.g.active h.g) ws = dstWrites (c.g.active h.g) d cnt (f s c ws)) : WritesDst i h d cnt f := by
  subst hh
  rintro s c ws ⟨g, hg, hs⟩
  obtain rfl : G = g := Option.some.inj ((hd s c).symm.trans hg)
  rw [hx]
  exact wrote_of_dst hs hl d cnt _ (by rw [← hw]; rfl)

/-- A word whose effect is to write a predicate, lane by lane. -/
theorem writesPred_of_issue {i : Instr} {h : Hd} {G : Gate} {v : Ctx → Word → Nat → Tri} {p : BitVec 3} {f : Ctx → Nat → Tri}
    (hd : ∀ s c, declares s c i = some G) (hl : G.long = none) (hh : G.hd = h)
    (hx : ∀ s, exec i s = issue G (pureRes fun c act _ => triWrites act p (v c act)) s)
    (hv : ∀ c l, v c (c.g.active h.g) l = f c l) : WritesPred i h p f := by
  subst hh
  rintro s c ws ⟨g, hg, hs⟩
  obtain rfl : G = g := Option.some.inj ((hd s c).symm.trans hg)
  rw [hx]
  refine wrote_of_pred hs hl p _ ?_
  simp only [pureRes, triWrites, hv]

theorem State.endRun_runs (s : State) (gid : Nat) : (s.endRun gid).runs = s.runs.filter fun x => x != gid := by
  simp [State.endRun]

/-- R36: a control transfer ends the run of its group. -/
theorem State.finish_jump_runs {gid : Nat} {old : Group} {i : Gate} {act : Word} {p : Perf} (h : p.jump.isSome = true) :
    gid ∉ (State.finish gid old i act p).runs := by
  have hj : (p.numbered i).jump = p.jump := by unfold Perf.numbered; split <;> rfl
  unfold State.finish
  dsimp only
  split
  · simp
  · rw [if_pos (by simp [runEnds, hj, h]), State.endRun_runs]
    simp

theorem Starts.inbound {s : State} {i : Gate} {c : Ctx} {ws : List Word} (h : Starts i s c ws) : c.g.inbound = [] := by
  obtain ⟨-, -, hin, -⟩ := h
  exact hin

/-- A word whose effect leaves the state and writes registers at once: its group after them, and the run's end where the word
transfers control. -/
theorem became_of_ok {s : State} {i : Gate} {c : Ctx} {ws : List Word} (h : Starts i s c ws) (hl : i.long = none)
    {body : Body} {p : Perf} (hp : p.s = s) (hb : body s c (c.g.active i.hd.g) ws = .ok p) :
    ∃ t, issue i body s = .next t ∧ Became s t c.gid (c.g.apply p.w) (p.jump.getD (c.g.pc + 8)) p.wait ∧
      (p.jump.isSome = true → c.gid ∉ t.runs) := by
  subst hp
  refine ⟨_, issue_ok h hb, ?_, State.finish_jump_runs⟩
  obtain ⟨he, g, hg, hrest, hpc, hstall, hregs, -⟩ := State.finish_spec (old := c.g) (i := i) (act := c.g.active i.hd.g)
    h.group h.inbound h.tiles
  rw [hl] at hregs
  exact ⟨he, g, hg, hrest.trans (c.g.apply_rest p.w).symm, hregs, hpc, hstall⟩

/-! ## Comparisons of integers (R139) -/

theorem condS_eq_intCond {n : Nat} (cc : Cond) (a b : BitVec n) : condS cc a b = intCond cc a.toInt b.toInt := by
  cases cc
  case eq => simp [condS, intCond, BitVec.toInt_inj, beq_eq_decide]
  case ne => simp [condS, intCond, BitVec.toInt_inj, bne, beq_eq_decide]
  case lt | le | gt | ge => rfl
theorem condU_eq_intCond {n : Nat} (cc : Cond) (a b : BitVec n) : condU cc a b = intCond cc a.toNat b.toNat := by
  cases cc
  case eq => simp [condU, intCond, BitVec.toNat_inj, beq_eq_decide]
  case ne => simp [condU, intCond, BitVec.toNat_inj, bne, beq_eq_decide]
  case lt | gt => simp [condU, intCond, BitVec.ult]
  case le | ge => simp [condU, intCond, BitVec.ule]

theorem toNat_ofWords (hi lo : Word) : (DWord.ofWords hi lo).toNat = joined lo hi := by
  rw [DWord.ofWords, BitVec.toNat_append, ← Nat.shiftLeft_add_eq_or_of_lt lo.isLt, Nat.shiftLeft_eq, joined]
  omega
theorem toInt_ofWords (hi lo : Word) : (DWord.ofWords hi lo).toInt = Int.bmod (joined lo hi) (2 ^ 64) := by
  rw [BitVec.toInt_eq_toNat_bmod, toNat_ofWords]

/-! ## Three-valued logic (R126, R127) -/

theorem triAnd_eq (a b : Tri) :
    triAnd a b = if a = .f ∨ b = .f then .f else if a = .t ∧ b = .t then .t else .u := by
  cases a <;> cases b <;> rfl
theorem triOr_eq (a b : Tri) :
    triOr a b = if a = .t ∨ b = .t then .t else if a = .f ∧ b = .f then .f else .u := by
  cases a <;> cases b <;> rfl
theorem triXor_eq (a b : Tri) :
    triXor a b = if a = .u ∨ b = .u then .u else if a ≠ b then .t else .f := by
  cases a <;> cases b <;> rfl
theorem triNot_eq (a : Tri) : triNot a = if a = .t then .f else if a = .f then .t else .u := by cases a <;> rfl
theorem triKnown_eq (a : Tri) : triKnown a = if a = .u then .f else .t := by cases a <;> rfl
theorem triResolve_eq (t : Bool) (a : Tri) : triResolve t a = if a ≠ .u then a else if t then .t else .f := by
  cases a <;> rfl
theorem triOfWord_eq (x : Word) :
    triOfWord x = match x.toNat % 4 with
      | 0 => .f
      | 1 => .t
      | _ => .u := by
  unfold triOfWord
  generalize x.toNat % 4 = n
  match n with
  | 0 | 1 => rfl
  | n + 2 => simp

theorem triOr_assoc (a b c : Tri) : triOr (triOr a b) c = triOr a (triOr b c) := by
  cases a <;> cases b <;> cases c <;> rfl
theorem triAnd_assoc (a b c : Tri) : triAnd (triAnd a b) c = triAnd a (triAnd b c) := by
  cases a <;> cases b <;> cases c <;> rfl
theorem triAny_cons (v : Tri) (vs : List Tri) : triAny (v :: vs) = triOr v (triAny vs) := by
  have hassoc : Std.Associative triOr := ⟨triOr_assoc⟩
  have hv : triOr .f v = triOr v .f := by cases v <;> rfl
  rw [triAny, List.foldl_cons, hv, List.foldl_assoc, triAny]
theorem triAll_cons (v : Tri) (vs : List Tri) : triAll (v :: vs) = triAnd v (triAll vs) := by
  have hassoc : Std.Associative triAnd := ⟨triAnd_assoc⟩
  have hv : triAnd .t v = triAnd v .t := by cases v <;> rfl
  rw [triAll, List.foldl_cons, hv, List.foldl_assoc, triAll]

/-- PANY: T where some lane has it, else U where some lane has it. -/
theorem triAny_map (f : Nat → Tri) (ls : List Nat) :
    triAny (ls.map f) = if ∃ l ∈ ls, f l = .t then .t else if ∃ l ∈ ls, f l = .u then .u else .f := by
  induction ls with
  | nil => simp [triAny]
  | cons j ls ih =>
    rw [List.map_cons, triAny_cons, ih]
    cases hj : f j with
    | t => simp [triOr, hj]
    | u | f =>
      simp only [List.exists_mem_cons_iff, hj, reduceCtorEq, false_or, true_or, if_true]
      split_ifs <;> rfl
/-- PALL: F where some lane has it, else U where some lane has it. -/
theorem triAll_map (f : Nat → Tri) (ls : List Nat) :
    triAll (ls.map f) = if ∃ l ∈ ls, f l = .f then .f else if ∃ l ∈ ls, f l = .u then .u else .t := by
  induction ls with
  | nil => simp [triAll]
  | cons j ls ih =>
    rw [List.map_cons, triAll_cons, ih]
    cases hj : f j with
    | f => simp [triAnd, hj]
    | u | t =>
      simp only [List.exists_mem_cons_iff, hj, reduceCtorEq, false_or, true_or, if_true]
      split_ifs <;> rfl

/-! ## Masks of lanes -/

theorem getLsbD_one_shiftLeft {i : Nat} (hi : i < 32) (j : Nat) : (1#32 <<< j).getLsbD i = decide (i = j) := by
  rw [← BitVec.twoPow_eq, BitVec.getLsbD_twoPow]
  simp only [eq_comm (a := j), Bool.and_eq_right_iff_imp, decide_eq_true_eq]
  omega
/-- Setting the bits of some lanes that a test holds in. -/
theorem getLsbD_foldl_setBit (f : Nat → Bool) {i : Nat} (hi : i < 32) (ls : List Nat) (m : Word) :
    (ls.foldl (fun m l => if f l then m ||| (1#32 <<< l) else m) m).getLsbD i =
      (m.getLsbD i || (decide (i ∈ ls) && f i)) := by
  induction ls generalizing m with
  | nil => simp
  | cons j ls ih =>
    rw [List.foldl_cons, ih]
    by_cases hj : i = j
    · subst hj
      cases h : f i <;> simp [-BitVec.getLsbD_shiftLeft, getLsbD_one_shiftLeft hi]
    · cases h : f j <;> simp [-BitVec.getLsbD_shiftLeft, getLsbD_one_shiftLeft hi, hj]
theorem getLsbD_maskOf {f : Nat → Bool} {i : Nat} (hi : i < 32) : (maskOf f).getLsbD i = f i := by
  rw [maskOf, getLsbD_foldl_setBit f hi]
  simp [lanes, hi]

/-- Counting the set bits of a mask of active lanes counts those lanes. -/
theorem popcount_triMask (g : Group) (act : Word) (p : BitVec 3) (v : Tri) :
    popcount (triMask g act p v) = (lanesOf act).countP fun l => g.tri p l == v := by
  rw [popcount, lanesOf, List.countP_filter, List.countP_eq_length_filter]
  refine congrArg List.length (List.filter_congr fun l hl => ?_)
  rw [triMask, getLsbD_maskOf (List.mem_range.mp hl), Bool.and_comm, beq_eq_decide]

theorem triMask_eq (g : Group) (act : Word) (p : BitVec 3) (v : Tri) :
    triMask g act p v = maskOf fun l => act.getLsbD l && g.tri p l == v := by
  simp only [triMask, beq_eq_decide]

/-! ## The compares and the predicate words (R126, R127, R139) -/

/-- A 32-bit compare: a word that declares what ICMP declares. -/
theorem writesPred_cmp32 (o : OpCmp) (f : Word → Word → Bool) {i : Instr} (hi : ∀ s, exec i s = cmp32 o f s)
    (hd : ∀ s c, declares s c i = declares s c (.icmp o)) :
    WritesPred i o.h o.d fun c l => if f (c.g.src32 o.a l) (c.g.src32 o.b l) then .t else .f :=
  writesPred_of_issue hd rfl rfl hi fun _ _ => rfl
theorem writesPred_pred2 (o : OpP2) (f : Tri → Tri → Tri) {i : Instr} (hi : ∀ s, exec i s = pred2 o f s)
    (hd : ∀ s c, declares s c i = some (gateP2 o)) : WritesPred i o.h o.d fun c l => f (c.g.tri o.a l) (c.g.tri o.b l) :=
  writesPred_of_issue hd rfl rfl hi fun _ _ => rfl
theorem writesPred_pred1 (o : OpP1) (f : Tri → Tri) {i : Instr} (hi : ∀ s, exec i s = pred1 o f s)
    (hd : ∀ s c, declares s c i = some (gateP1 o)) : WritesPred i o.h o.d fun c l => f (c.g.tri o.a l) :=
  writesPred_of_issue hd rfl rfl hi fun _ _ => rfl
theorem writesPred_predAll (o : OpP1) (f : List Tri → Tri) {i : Instr} (hi : ∀ s, exec i s = predAll o f s)
    (hd : ∀ s c, declares s c i = some (gateP1 o)) :
    WritesPred i o.h o.d fun c _ => f ((lanesOf (c.g.active o.h.g)).map (c.g.tri o.a)) :=
  writesPred_of_issue hd rfl rfl hi fun _ _ => rfl

/-- Settles O13: each word writes its function of its sources, and that function is the one stated. -/
theorem comparesAndPredicates : Obligations.ComparesAndPredicates := by
  unfold Obligations.ComparesAndPredicates
  refine ⟨⟨fun o => ?icmp, fun o => ?icmpu, fun o => ?icmp64u, fun o => ?icmp64⟩,
    ⟨fun o => ?pand, fun o => ?por, fun o => ?pxor, fun o => ?pnot⟩, fun o => ?pknown, fun o t => ?presolve,
    fun h d v => ?pset, fun h hold d a => ?pmovp, fun o => ?pany, fun o => ?pall, fun h d a => ?pmovv,
    fun o => ?pcount, fun o => ?pmask⟩
  case icmp =>
    simpa only [condS_eq_intCond] using writesPred_cmp32 o (condS o.cc) (i := .icmp o) (fun _ => rfl) fun _ _ => rfl
  case icmpu =>
    simpa only [condU_eq_intCond] using writesPred_cmp32 o (condU o.cc) (i := .icmpu o) (fun _ => rfl) fun _ _ => rfl
  case icmp64u =>
    refine writesPred_of_issue (fun _ _ => rfl) rfl rfl (fun _ => rfl) fun c l => ?_
    simp only [if_true, condU_eq_intCond, Group.src64, toNat_ofWords, triBool]
  case icmp64 =>
    refine writesPred_of_issue (fun _ _ => rfl) rfl rfl (fun _ => rfl) fun c l => ?_
    simp only [Bool.false_eq_true, if_false, condS_eq_intCond, Group.src64, toInt_ofWords, triBool]
  case pand => simpa only [triAnd_eq] using writesPred_pred2 o triAnd (fun _ => rfl) fun _ _ => rfl
  case por => simpa only [triOr_eq] using writesPred_pred2 o triOr (fun _ => rfl) fun _ _ => rfl
  case pxor => simpa only [triXor_eq] using writesPred_pred2 o triXor (fun _ => rfl) fun _ _ => rfl
  case pnot => simpa only [triNot_eq] using writesPred_pred1 o triNot (fun _ => rfl) fun _ _ => rfl
  case pknown => simpa only [triKnown_eq] using writesPred_pred1 o triKnown (fun _ => rfl) fun _ _ => rfl
  case presolve => simpa only [triResolve_eq] using writesPred_pred1 o (triResolve t) (fun _ => rfl) fun _ _ => rfl
  case pset => exact writesPred_of_issue (fun _ _ => rfl) rfl rfl (fun _ => rfl) fun _ _ => rfl
  case pmovp => exact writesPred_of_issue (fun _ _ => rfl) rfl rfl (fun _ => rfl) fun _ _ => triOfWord_eq _
  case pany => simpa only [triAny_map] using writesPred_predAll o triAny (fun _ => rfl) fun _ _ => rfl
  case pall => simpa only [triAll_map] using writesPred_predAll o triAll (fun _ => rfl) fun _ _ => rfl
  case pmovv =>
    refine writesDst_of_issue (fun _ _ => rfl) rfl rfl (fun _ => rfl) fun _ c _ =>
      congrArg (dstWrites (c.g.active h.g) (.v d) 1) (funext fun l => funext fun _ => ?_)
    cases c.g.tri a l <;> rfl
  case pcount =>
    refine writesDst_of_issue (fun _ _ => rfl) rfl rfl (fun _ => rfl) fun _ c _ => ?_
    simp only [popcount_triMask]
  case pmask =>
    refine writesDst_of_issue (fun _ _ => rfl) rfl rfl (fun _ => rfl) fun _ c _ => ?_
    simp only [triMask_eq]

/-! ## Lists of active lanes (R140) -/

theorem lanesOf_sorted (m : Word) : (lanesOf m).Pairwise (· < ·) := List.pairwise_lt_range.filter _

/-- One value for each active lane, written to a V register. -/
theorem laneCells_map (d : BitVec 8) (act : Word) (f : Nat → Word) :
    laneCells d ((lanesOf act).map fun l => (l, f l)) = dstWrites act (.v d) 1 fun l _ => f l := by
  rw [laneCells, List.map_map, dstWrites, vCells, List.map_eq_flatMap]
  rfl

theorem filter_lt_of_forall_lt {j : Nat} {ls : List Nat} (h : ∀ l ∈ ls, j < l) : ls.filter (· < j) = [] :=
  List.filter_eq_nil_iff.mpr fun l hl => by simpa using (h l hl).le

/-- R141: along rising lanes, each lane receives the fold of the lanes before it, and of its own where the scan is inclusive. -/
theorem scanGo_map (op : LaneOp) (excl : Bool) (v : Nat → Word) {ls : List Nat} (h : ls.Pairwise (· < ·)) (acc : Word) :
    scanGo op excl acc (ls.map fun l => (l, v l)) = ls.map fun l =>
      (l, (ls.filter fun j => j < l || (j == l && !excl)).foldl (fun x j => laneFn op x (v j)) acc) := by
  induction ls generalizing acc with
  | nil => rfl
  | cons j ls ih =>
    obtain ⟨hj, hs⟩ := List.pairwise_cons.mp h
    have later (q : Nat → Bool) : (ls.filter fun k => k < j || (k == j && q k)) = [] :=
      List.filter_eq_nil_iff.mpr fun k hk => by simp [(hj k hk).ne', (hj k hk).le]
    rw [List.map_cons, scanGo, ih hs, List.map_cons]
    congr 1
    · rw [List.filter_cons, later fun _ => !excl]
      cases excl <;> simp
    · refine List.map_congr_left fun l hl => ?_
      rw [List.filter_cons_of_pos (by simp [hj l hl]), List.foldl_cons]

/-- The place of a lane among rising lanes is the number of lanes below it. -/
theorem map_zipIdx_of_sorted {α : Type} (f : Nat × Nat → α) {ls : List Nat} (h : ls.Pairwise (· < ·)) (n : Nat) :
    (ls.zipIdx n).map f = ls.map fun l => f (l, n + (ls.filter (· < l)).length) := by
  induction ls generalizing n with
  | nil => rfl
  | cons j ls ih =>
    obtain ⟨hj, hs⟩ := List.pairwise_cons.mp h
    rw [List.zipIdx_cons, List.map_cons, ih hs, List.map_cons]
    congr 1
    · simp [filter_lt_of_forall_lt hj]
    · refine List.map_congr_left fun l hl => ?_
      rw [List.filter_cons_of_pos (by simpa using hj l hl), List.length_cons]
      congr 2; omega

theorem toInt_laneId_min : (laneId .min).toInt = 2147483647 := by decide
theorem toInt_laneId_max : (laneId .max).toInt = -2147483648 := by decide
/-- The identity of each lane operation leaves any value as it is (R140). -/
theorem laneFn_laneId (op : LaneOp) (x : Word) : laneFn op (laneId op) x = x := by
  cases op
  case add | or | xor => simp [laneFn, laneId]
  case and => exact BitVec.allOnes_and
  case min =>
    have hx := BitVec.toInt_lt (x := x)
    exact if_neg (by rw [BitVec.slt, toInt_laneId_min, decide_eq_true_eq]; omega)
  case max =>
    have hx := BitVec.le_toInt x
    refine ite_eq_left_iff.mpr fun h => BitVec.eq_of_toInt_eq ?_
    rw [BitVec.slt, toInt_laneId_max, decide_eq_true_eq] at h
    rw [toInt_laneId_max]
    omega
  case minu => exact if_neg (by simpa [BitVec.ult, laneId] using Nat.le_of_lt_succ x.isLt)
  case maxu =>
    refine ite_eq_left_iff.mpr fun h => BitVec.eq_of_toNat_eq ?_
    simpa [BitVec.ult, laneId, eq_comm] using h
/-- The fold of a lane operation from its first value, or its identity with none, is the fold from its identity. -/
theorem foldOne_laneFn (op : LaneOp) (v : Nat → Word) (ls : List Nat) :
    (foldOne (laneFn op) (ls.map v)).getD (laneId op) = ls.foldl (fun x j => laneFn op x (v j)) (laneId op) := by
  cases ls with
  | nil => rfl
  | cons j ls => rw [List.map_cons, foldOne, Option.getD_some, List.foldl_map, List.foldl_cons, laneFn_laneId]

theorem toNat_uminBv (a b : Word) : (uminBv a b).toNat = min a.toNat b.toNat := by
  unfold uminBv
  split <;> rename_i h <;> simp only [BitVec.ult, decide_eq_true_eq] at h <;> omega

/-- ISECT's word (R144). -/
theorem isectWord_eq (act : Word) (a b : Nat → Word) (l : Nat) :
    isectWord act a b l =
      let ls := lanesOf act
      let top := ls.getLast?.getD 0
      let lim := min (a top).toNat (b top).toNat
      BitVec.ofNat 32 ((ls.countP fun j => (b j).toNat ≤ lim) * 2 ^ 16 + (ls.countP fun j => (a j).toNat ≤ lim) * 2 ^ 8 +
        (if ∃ j ∈ ls, a l = b j then 1 else 0)) := by
  simp only [isectWord, BitVec.ule, toNat_uminBv, List.countP_eq_length_filter, List.any_eq_true, beq_iff_eq]

/-- MPATH's value (R145). -/
theorem mpathWord_eq (act : Word) (a b : Nat → Word) (c : Word) (l : Nat) :
    mpathWord act a b c l = BitVec.ofNat 32 (c.toNat + (lanesOf act).zipIdx.countP fun e =>
      (b e.1).toNat + c.toNat + e.2 + 1 ≤ (a l).toNat) := by
  rw [mpathWord, BitVec.ofNat_add, BitVec.ofNat_toNat, BitVec.setWidth_eq, List.countP_eq_length_filter]

/-! ## The lane words (R140 to R145) -/

theorem writesDst_scan (h : Hd) (hold : Hold) (d : BitVec 8) (a : Src) (op : LaneOp) (excl : Bool) :
    WritesDst (.scan h hold d a op excl) h (.v d) 1 fun _ c _ l _ =>
      ((lanesOf (c.g.active h.g)).filter fun j => j < l || (j == l && !excl)).foldl
        (fun x j => laneFn op x (c.g.src32 a j)) (laneId op) :=
  writesDst_of_issue (fun _ _ => rfl) rfl rfl (fun _ => rfl) fun s c _ => by
    rw [laneVals, scanGo_map op excl _ (lanesOf_sorted _), laneCells_map]

theorem writesDst_compact (h : Hd) (hold : Hold) (d : BitVec 8) (a : Src) (p : BitVec 3) :
    WritesDst (.compact h hold d a p) h (.v d) 1 fun _ c _ l _ =>
      let act := lanesOf (c.g.active h.g)
      ((act.filter fun j => c.g.tri p j == .t).map fun j => c.g.src32 a j).getD ((act.filter (· < l)).length) 0 :=
  writesDst_of_issue (fun _ _ => rfl) rfl rfl (fun _ => rfl) fun s c _ => by
    simp only [compactVals, map_zipIdx_of_sorted _ (lanesOf_sorted _), Nat.zero_add, laneCells_map]

theorem writesDst_isect (h : Hd) (hold : Hold) (d : BitVec 8) (a b : Src) :
    WritesDst (.isect h hold d a b) h (.v d) 1 fun _ c _ l _ =>
      isectWord (c.g.active h.g) (c.g.src32 a) (c.g.src32 b) l :=
  writesDst_of_issue (fun _ _ => rfl) rfl rfl (fun _ => rfl) fun _ _ _ => laneCells_map _ _ _

theorem writesDst_mpath (h : Hd) (hold : Hold) (d : BitVec 8) (a b k : Src) :
    WritesDst (.mpath h hold d a b k) h (.v d) 1 fun _ c _ l _ =>
      mpathWord (c.g.active h.g) (c.g.src32 a) (c.g.src32 b) (c.g.src32 k 0) l :=
  writesDst_of_issue (fun _ _ => rfl) rfl rfl (fun _ => rfl) fun _ _ _ => laneCells_map _ _ _

theorem writesDst_gred_int (h : Hd) (hold : Hold) (d : Dst) (a : Src) (op : LaneOp) :
    WritesDst (.gred h hold d a (.int op)) h d 1 fun _ c _ _ _ =>
      (lanesOf (c.g.active h.g)).foldl (fun x j => laneFn op x (c.g.src32 a j)) (laneId op) :=
  writesDst_of_issue (G := gredGate h hold d a (.int op)) (fun _ _ => rfl) rfl rfl (fun _ => rfl) fun _ _ _ => by
    simp only [gredWrites, foldOne_laneFn]

/-- What a floating GRED declares and writes, whatever its operation. -/
theorem gredGate_of_width {h : Hd} {hold : Hold} {d : Dst} {a : Src} {op : GredOp} {w : FW} (hw : gredWidth op = some w) :
    gredGate h hold d a op = { hd := h, rds := [.iv w a], wrs := [.iv w d] } := by
  rw [gredGate, hw]
theorem gredWrites_of_width {d : Dst} {a : Src} {op : GredOp} {w : FW} (hw : gredWidth op = some w) (c : Ctx) (act : Word) :
    gredWrites d a op c act =
      dstWrites act d (wordsIn w) fun _ k => ivWord w (gredIval op w act fun l => c.g.ival w a l) k := by
  cases op with
  | int o => cases hw
  | fadd x | fmin x | fmax x => obtain rfl := Option.some.inj hw; cases x <;> rfl
theorem writesDst_gred_ival (h : Hd) (hold : Hold) (d : Dst) (a : Src) {op : GredOp} {w : FW} (hw : gredWidth op = some w) :
    WritesDst (.gred h hold d a op) h d (wordsIn w) fun _ c _ _ k =>
      ivWord w (gredIval op w (c.g.active h.g) fun l => c.g.ival w a l) k :=
  writesDst_of_issue (G := gredGate h hold d a op) (fun _ _ => rfl) (by rw [gredGate_of_width hw])
    (by rw [gredGate_of_width hw]) (fun _ => rfl) fun _ c _ => gredWrites_of_width hw c _

/-- Settles O15: each lane word's list of results is one value for each active lane, in rising order. -/
theorem laneWords : Obligations.LaneWords := by
  unfold Obligations.LaneWords
  refine ⟨writesDst_scan, writesDst_gred_int, fun h hold d a w => ?gredAdd, fun h hold d a w => ?gredMin,
    fun h hold d a w => ?gredMax, writesDst_compact, fun h hold d a b => ?isect, fun h hold d a b k => ?mpath⟩
  case gredAdd => exact writesDst_gred_ival h hold d a (op := .fadd w) rfl
  case gredMin => exact writesDst_gred_ival h hold d a (op := .fmin w) rfl
  case gredMax => exact writesDst_gred_ival h hold d a (op := .fmax w) rfl
  case isect => simpa only [isectWord_eq] using writesDst_isect h hold d a b
  case mpath => simpa only [mpathWord_eq] using writesDst_mpath h hold d a b k

/-! ## LOOP (R122) -/

theorem Group.setPs_nil (g : Group) : g.setPs [] = g := by
  unfold Group.setPs; split <;> rfl
/-- One S register written. -/
theorem Group.apply_setS (g : Group) (n : Nat) (x : Word) : g.apply { s := [(n, x)] } = g.setS n x := Group.setPs_nil _

theorem branchTo_eq {n : Nat} (pc : DWord) (off : BitVec n) : branchTo pc off = pc + BitVec.ofInt 64 (8 * off.toInt) := by
  rw [branchTo, BitVec.ofInt_mul]; rfl

/-- The counter one lower, modulo 2^32. -/
theorem ofInt_toNat_sub_one (x : Word) : BitVec.ofInt 32 (x.toNat - 1) = x - 1 := by
  rw [sub_eq_add_neg, BitVec.ofInt_add, BitVec.ofInt_natCast, BitVec.ofNat_toNat, BitVec.setWidth_eq, BitVec.sub_eq_add_neg]
  rfl

/-- Settles O23: the effect writes the counter, and jumps unless it is 0. -/
theorem loopCounts : Obligations.LoopCounts := by
  unfold Obligations.LoopCounts
  rintro b n off s c ws ⟨g, hg, hs⟩
  cases hg
  dsimp only
  rw [ofInt_toNat_sub_one]
  obtain ⟨t, ht, hb, hr⟩ := became_of_ok hs rfl (body := loopBody (.s n) off) rfl rfl
  have hk : c.g.src32 (.s n) 0 = c.g.getS n.toNat := rfl
  simp only [counterOf, hk, Group.apply_setS, branchTo_eq] at hb hr
  refine ⟨t, ht, ?_, fun h0 => hr (by rw [if_neg h0]; rfl)⟩
  by_cases h0 : c.g.getS n.toNat - 1 = 0
  · rw [if_neg (not_not_intro h0)]
    rwa [if_pos h0] at hb
  · rw [if_pos h0]
    rwa [if_neg h0] at hb

end Sys2Proof.Machine

/-!
PROOF of O28 (R93, R331). A TRET that begins either returns, an effect on its own group alone, or raises Illegal Instruction; outside
handler mode step 2 of R102 refuses it.
-/
namespace Sys2Proof.Machine

/-! ## An effect on the word's own group -/

theorem Elsewhere.trans {x y t : State} {gid : Nat} (hxy : Elsewhere x y gid) (hyt : Elsewhere y t gid) : Elsewhere x t gid := by
  obtain ⟨hx, hxg⟩ := hxy
  obtain ⟨hy, hyg⟩ := hyt
  refine ⟨?_, fun k hk => (hyg k hk).trans (hxg k hk)⟩
  rw [← hy] at hx
  exact hx

theorem elsewhere_setGroup (s : State) (gid : Nat) (g : Group) : Elsewhere s (s.setGroup gid g) gid :=
  ⟨rfl, fun _ hk => s.setGroup_ne g hk⟩

section
variable {s : State} {c : Ctx} {i : Gate} {ws : List Word}

/-- An effect that traps, in the state it leaves. -/
theorem issue_trap (h : Starts i s c ws) {body : Body} {t : TrapInfo} {s' : State}
    (hb : body s c (c.g.active i.hd.g) ws = .trap t s') : issue i body s = .next (s'.takeTrap c.gid t) := by
  rw [issue_starts h, hb]

/-- A word that writes registers at once leaves the windows that it found, each moved on. -/
theorem Group.after_pends (g old : Group) (act : Word) (p : Perf) (hl : i.long = none) : (g.after old i act p).pends =
    livePends (g.pends.map (Pend.tick i.size (if decide (act = 0) && !i.whole then [] else i.writes))) := by
  unfold Group.after Group.deposit
  rw [hl]
  cases i.hold <;> simp only [Group.apply_pends]

/-- A word whose effect is to set its own group, once it has performed. -/
theorem became_of_setGroup (h : Starts i s c ws) (hl : i.long = none) {g : Group} (hi : g.inbound = c.g.inbound)
    (ht : g.team = c.g.team) {p : Perf} (hp : p.s = s.setGroup c.gid g) (act : Word) :
    Became s (State.finish c.gid c.g i act p) c.gid (g.apply p.w) (p.jump.getD (g.pc + 8)) p.wait ∧
      ∀ g', (State.finish c.gid c.g i act p).group? c.gid = some g' → g.pends = [] → g'.pends = [] := by
  have hg : p.s.group? c.gid = some g := by rw [hp, State.setGroup_self]
  have htiles : ∀ u, p.s.team? g.team = some u → u.tileIn = [] := by
    rw [hp, ht]
    exact h.tiles
  obtain ⟨he, x, hx, hrest, hpc, hstall, hregs, hpends⟩ :=
    State.finish_spec (old := c.g) (i := i) (act := act) hg (hi.trans h.inbound) htiles
  rw [hl] at hregs
  refine ⟨⟨(hp ▸ elsewhere_setGroup s c.gid g).trans he, x, hx, hrest.trans (g.apply_rest p.w).symm, hregs, hpc, hstall⟩,
    fun g' hg' hnone => ?_⟩
  obtain rfl : x = g' := Option.some.inj (hx.symm.trans hg')
  rw [hpends, Group.after_pends _ _ _ _ hl, hnone]
  rfl

end

/-! ## TRET (R331) -/

theorem Group.active_always (g : Group) : g.active .always = g.mask &&& g.live := rfl
theorem Group.apply_nothing (g : Group) : g.apply {} = g := Group.setPs_nil g

theorem tretBody_of_depth {s : State} {c : Ctx} (hg : s.group? c.gid = some c.g)
    (hd : c.g.depth = c.g.tsave.toNat / 2 ^ 32 % 2 ^ 16) (act : Word) (ws : List Word) :
    tretBody s c act ws = .ok { s := s.setGroup c.gid c.g.trapReturn, jump := some c.g.tpc } := by
  rw [tretBody, if_neg (not_not_intro hd), s.modGroup_some _ hg]

theorem tretBody_of_depth_ne {c : Ctx} (hd : c.g.depth ≠ c.g.tsave.toNat / 2 ^ 32 % 2 ^ 16) (s : State) (act : Word)
    (ws : List Word) : tretBody s c act ws = .trap { cause := .illegalInstruction } s := if_pos hd

/-- Settles O28: the return is an effect on the group alone, whose jump ends the run and after which no window is left. -/
theorem trapReturn : Obligations.TrapReturn := by
  unfold Obligations.TrapReturn
  refine ⟨?begins, ?user⟩
  case begins =>
    rintro b s c ws ⟨g, hg, hs⟩
    cases hg
    refine ⟨fun hd => ?returns, fun hd => issue_trap hs (tretBody_of_depth_ne hd s _ ws)⟩
    case returns =>
      obtain ⟨hb, hp⟩ := became_of_setGroup hs rfl (g := c.g.trapReturn) rfl rfl
        (p := { s := s.setGroup c.gid c.g.trapReturn, jump := some c.g.tpc }) rfl (c.g.active .always)
      rw [Group.apply_nothing] at hb
      exact ⟨_, issue_ok hs (tretBody_of_depth hs.group hd _ ws), State.finish_jump_runs rfl, hb, fun g' hg' => hp g' hg' rfl⟩
  case user =>
    intro b s c hr hc hm
    have hd : declares s c (.tret b) = some { hd := ⟨b, .always⟩, priv := true, whole := true, drains := true } := rfl
    have ht := traps_of_not_privOk hd hr hc (Gate.privOk_of_user rfl hm)
    rwa [Group.active_always] at ht

end Sys2Proof.Machine
